-- ==== Sys2Proof/Word.lean ====
section
/-! DEFINITION. The units the 7240 handles on its link: the octet and the 16-bit check word (R39, R40). -/

namespace Sys2Proof

/-- One octet of a frame (R41). -/
abbrev Byte := BitVec 8

/-- The 16-bit register of the cyclic check (R40). -/
abbrev Half := BitVec 16

end Sys2Proof
end

