-- ==== Sys2Proof/Syntax.lean ====
section
/-! DEFINITION. The commands: one constructor of Instr for each row of spec/opcode_table.json, with the operands the
specification gives the frame or the event, and the types of those operands. -/

namespace Sys2Proof

/-- The two schedule banks (section 7.1). -/
inductive Bank where
  | a | b
  deriving DecidableEq, Repr

/-- An occurrence is identified by bank, entry id and start day (R156). -/
structure Occ where
  bank : Bank
  id : Nat
  day : Nat
  deriving DecidableEq, Repr

/-- The six kinds of frame (section 2.1). -/
inductive FrameKind where
  | order | answer | status | latch | report | load
  deriving DecidableEq, Repr

/-- A frame whose check and length were found good (section 2.1). -/
structure Frame where
  dest : Nat
  src : Nat
  kind : FrameKind
  tag : Nat
  verb : Nat
  payload : List Byte
  deriving DecidableEq, Repr

/-- An ORDER of an operations station to a plant station; the command's row fixes the verb. -/
structure PlantOrder where
  dest : Nat
  src : Nat
  tag : Nat
  payload : List Byte
  deriving DecidableEq, Repr

/-- An ORDER or LOAD frame of an operations station to station 120; the command's row fixes the verb. -/
structure OwnOrder where
  src : Nat
  tag : Nat
  payload : List Byte
  deriving DecidableEq, Repr

/-- An ANSWER or STATUS frame ending at the plant port; the command's row fixes the kind. -/
structure PlantFrame where
  dest : Nat
  src : Nat
  tag : Nat
  verb : Nat
  payload : List Byte
  deriving DecidableEq, Repr

/-- The front-panel inputs (R192). -/
inductive PanelInput where
  | localKey (n : Nat)
  | lockout (n : Nat)
  | maintenance
  | push
  deriving DecidableEq, Repr

/-- The sub-steps of the phase SETTING (R177). -/
inductive SubStep where
  | retune | path | position
  deriving DecidableEq, Repr

/-- The commands: the rows of the operation and event table, in its order. -/
inductive Instr where
  | powerUp
  | opsFrameDiscard (raw : List Byte)
  | opsHoldOff
  | opsReady
  | opsFrameSent
  | opsUnknownDestination (f : Frame)
  | opsBadVerb (f : Frame)
  | opsTune (o : PlantOrder)
  | opsPower (o : PlantOrder)
  | opsCarrierOn (o : PlantOrder)
  | opsCarrierOff (o : PlantOrder)
  | opsFeed (o : PlantOrder)
  | opsQueryTransmitter (o : PlantOrder)
  | opsSlew (o : PlantOrder)
  | opsSteer (o : PlantOrder)
  | opsStop (o : PlantOrder)
  | opsQueryDrive (o : PlantOrder)
  | opsMatrixFrame (f : Frame)
  | opsAuxiliaryFrame (f : Frame)
  | pathSet (o : OwnOrder)
  | pathFree (o : OwnOrder)
  | xpClear (o : OwnOrder)
  | holdLevel (o : OwnOrder)
  | hallStop (o : OwnOrder)
  | hallResume (o : OwnOrder)
  | timeSet (o : OwnOrder)
  | siteWrite (o : OwnOrder)
  | siteRead (o : OwnOrder)
  | siteSave (o : OwnOrder)
  | storeOpen (o : OwnOrder)
  | storeClose (o : OwnOrder)
  | bankCreate (o : OwnOrder)
  | bankSeal (o : OwnOrder)
  | bankClear (o : OwnOrder)
  | entryAppend (o : OwnOrder)
  | entryVoid (o : OwnOrder)
  | pageErase (o : OwnOrder)
  | storeStatus (o : OwnOrder)
  | storeFaultClear (o : OwnOrder)
  | entryRead (o : OwnOrder)
  | planRead (o : OwnOrder)
  | contextRead (o : OwnOrder)
  | partStatus (o : OwnOrder)
  | restart (o : OwnOrder)
  | loadOpen (o : OwnOrder)
  | loadData (o : OwnOrder)
  | loadClose (o : OwnOrder)
  | loadBadSubverb (subverb : Nat) (o : OwnOrder)
  | loadIdleTimeout
  | plantFrameDiscard (raw : List Byte)
  | transmitterStatus (f : PlantFrame)
  | driveStatus (f : PlantFrame)
  | matrixStatus (f : PlantFrame)
  | auxiliaryStatus (f : PlantFrame)
  | transmitterAnswer (f : PlantFrame)
  | driveAnswer (f : PlantFrame)
  | matrixAnswer (f : PlantFrame)
  | auxiliaryAnswer (f : PlantFrame)
  | plantFrameSent
  | answerTimeout
  | holdExpiry
  | movementLimitExpiry (slot : Nat)
  | pathSettleEnd (transmitter : Nat)
  | operationsPathLimit (transmitter : Nat)
  | panelInputEdge (input : PanelInput) (level : Bool)
  | localKeyChange (n : Nat)
  | lockoutOn (n : Nat)
  | lockoutOff (n : Nat)
  | maintenanceKeyChange
  | hallStopPushOn
  | hallStopPushOff
  | eraseWindowExpiry
  | slotWriteDone
  | voidDone
  | pageErasePageDone
  | headerWriteDone
  | siteSaveDone
  | storeLimitExpiry
  | siteSaveLimitExpiry
  | siteSecond
  | minuteBoundaryRefill
  | eventDue
  | occurrenceEndPassed (occ : Occ)
  | returnEndReached (occ : Occ)
  | seasonActivation
  | muteDeadline (context : Nat)
  | releaseDeadline (context : Nat)
  | substepDeadline (context : Nat) (sub : SubStep)
  | proveDeadline (context : Nat)
  | raiseDeadline (context : Nat)
  | contextMissed (context : Nat)
  | storeCheckEnd
  | surveyTimeout
  deriving DecidableEq, Repr

end Sys2Proof
end

