-- ==== Sys2Proof/Decode.lean ====
section
/-! DEFINITION. The command a word spells by the bits of the table: no row of it gives a command bits. -/

namespace Sys2Proof

/-- The command spelt by a word; none, as spec/opcode_table.json gives no row any field. -/
def decodeTableWord (_nbits _w : Nat) : Option Instr := none

end Sys2Proof
end

