-- ==== Sys2Proof/Config.lean ====
section
/-! DEFINITION. What the specification fixes as numbers, and the free values: values the specification leaves open,
as constants without a body, so that nothing can be proved of them. -/

namespace Sys2Proof.Config

/-- The controller's own station address (section 0.1). -/
def ownStation : Nat := 120
/-- Lowest and highest operations address (section 2.2). -/
def opsLow : Nat := 121
def opsHigh : Nat := 126
/-- Highest payload length (section 2.1). -/
def maxPayload : Nat := 48
/-- Sizes of the Link Interface's structures (R22, R25, R26, R29, R37). -/
def opsPlaces : Nat := 64
def plantQueueSize : Nat := 32
def passedLimit : Nat := 16
def tableSize : Nat := 10
def tableOtherLimit : Nat := 8
def reportQueueSize : Nat := 32
/-- Sizes of the gate's, the matrix's, the store's and the plan's structures (R58, R75, R77, R122, R155, R157, R140). -/
def holdQueueSize : Nat := 12
def moveQueueSize : Nat := 32
def moveSlots : Nat := 4
def storeQueueSize : Nat := 8
def logSize : Nat := 256
def planSize : Nat := 256
def intakeSize : Nat := 8
def contexts : Nat := 16
/-- Timers of the controller's clock, in milliseconds. -/
def answerTimeout : Nat := 2000
def holdLimit : Nat := 20000
def settleTime : Nat := 500
def operationsPathLimit : Nat := 60000
def panelSettle : Nat := 50
def surveyLimit : Nat := 10000
def eraseWindow : Nat := 2000
def idleLimit : Nat := 60000
/-- Nominal times and limits of the store engine, in milliseconds (R123). -/
def markNominal : Nat := 20
def markLimit : Nat := 200
def eraseNominal : Nat := 1500
def eraseLimit : Nat := 6000
def saveNominal : Nat := 2000
def saveLimit : Nat := 8000
/-- The last site time: second 86399 of day 65535 (section 0.5). -/
def lastSiteTime : Nat := 65536 * 86400 - 1
/-- How far ahead the horizon plan looks (R158). -/
def horizon : Nat := 3600
/-- The highest lead (R111). -/
def maxLead : Nat := 900

/-- FREE VALUE: an uncertain mark or content of the non-volatile store (R119, R123, R139). -/
opaque freeBit : Nat → Bool
/-- FREE VALUE: an octet of a slot whose programming was cut off (R119). -/
opaque freeByte : Nat → Byte
/-- FREE VALUE: a number the specification does not state (log entries 20 to 25); `freeBelow` holds it to a field's range. -/
opaque freeNat : Nat → Nat

end Sys2Proof.Config
end

