-- ==== Sys2Proof/Machine/State.lean ====
section
/-! DEFINITION. The state of the controller, as plain data: one structure for each block of section 0.2, each holding
the records its chapter gives it; the non-volatile store; the reasons a step can stop; and the state after reset. -/

namespace Sys2Proof.Machine

/-- A finite map with numbers as keys, in ONE canonical form: keys strictly rising (see `tableRising`). -/
abbrev Table (α : Type) := List (Nat × α)

/-- A site time (day, second), held as day × 86400 + second: site times are compared first by day, then by second
(section 0.5). -/
abbrev SiteTime := Nat

/-- A reading of the controller's own clock, in milliseconds. -/
abbrev Millis := Nat

/-! ## Names -/

inductive Carrier where | off | on | unknown
  deriving DecidableEq, Repr, Inhabited
inductive Tune where | idle | tuning | failed | unknown
  deriving DecidableEq, Repr, Inhabited
inductive Motion where | still | moving | fault | unknown
  deriving DecidableEq, Repr, Inhabited
inductive Contact where | made | notMade | unknown
  deriving DecidableEq, Repr, Inhabited
/-- Crosspoint states (R67). -/
inductive XpState where | opened | closed | closing | opening | stuck | unknown
  deriving DecidableEq, Repr, Inhabited
/-- The position the mirror shows (R67). -/
inductive Position where | closed | opened | transit | fault | unknown
  deriving DecidableEq, Repr
inductive Coil where | closeCoil | openCoil
  deriving DecidableEq, Repr
inductive AntKind where | rotatable | steerable | fixed | dummy
  deriving DecidableEq, Repr
inductive StationClass where | transmitter | drive | matrix | auxiliary
  deriving DecidableEq, Repr
/-- The classes of the plant queue (section 2.5). -/
inductive Cls where | urgent | internal | passed
  deriving DecidableEq, Repr
inductive Outcome where | done | accepted | refused
  deriving DecidableEq, Repr

/-- Refusal reasons, in the order of their codes 1 to 37 (section 2.11). -/
inductive Reason where
  | survey | localControl | owned | carrierOn | outOfBand | noPath | pathUnproven | holdFull | lockedOut | bandUnrated
  | hallStopped | antennaLive | outOfTravel | matrixReserved | plantBusy | unknownStation | noAnswer | xpStuck | inUse
  | badRecord | duplicateId | unknownPlant | notOpen | wrongSeason | isProtected | busy | erasing | bankFull | storeFault
  | burstActive | commitsFull | idleTimeout | countMismatch | checkMismatch | overrun | restarting | timeInvalid
  deriving DecidableEq, Repr, Inhabited

/-- Failure reasons, in the order of their codes 64 to 80 (section 2.11). -/
inductive Failure where
  | muteTimeout | releaseTimeout | retuneFailed | pathFailed | positionFailed | proveFailed | raiseTimeout | operatorOff
  | interlock | hallStop | voided | season | restart | unusable | ended | masked | antennaHeld
  deriving DecidableEq, Repr, Inhabited

/-- Report kinds, in the order of the table of R36. -/
inductive ReportKind where
  | interlockOff | hallStop | lateStart | missed | preempted | changeoverFailed | changeoverDone | xpStuck
  | stationNoAnswer | powerClamped | leadClamped | planFull | storeDone | storeFailed | loadResult | bankActivated
  | timeStep | startupDone | pathResult
  deriving DecidableEq, Repr

/-- The start-up phases (section 11.3). -/
inductive Phase where | storeCheck | survey | adopt | running
  deriving DecidableEq, Repr
inductive LastStart where | powerUp | restart
  deriving DecidableEq, Repr

/-! ## Site tables (chapter 1) -/

/-- The static part of a transmitter record (section 1.2). -/
structure TxStatic where
  station : Nat
  row : Nat
  maxPower : Nat
  tm : Nat
  tu : Nat
  ti : Nat
  tb : Nat
  inService : Bool
  deriving DecidableEq, Repr

/-- The static part of an antenna record (section 1.3); a field of another kind is absent. -/
structure AntStatic where
  kind : AntKind
  column : Nat
  drive : Option Nat
  boresight : Option Nat
  stopBearing : Option Nat
  margin : Option Nat
  slewRate : Option Nat
  settle : Option Nat
  offsets : Option (List Int)
  phasing : Option Nat
  deriving DecidableEq, Repr

/-- A band: low and high limit in kHz (section 1.4). -/
structure Band where
  low : Nat
  high : Nat
  deriving DecidableEq, Repr

/-- The three geometry fields, present or absent together (section 1.5). -/
structure Geometry where
  rows : Nat
  cols : Nat
  station : Nat
  deriving DecidableEq, Repr

/-- The SITE record (section 1.5). -/
structure SiteRecord where
  geometry : Option Geometry
  sx : Nat
  tolerance : Nat
  manualPriority : Nat
  deriving DecidableEq, Repr

/-- One complete copy of the site tables (section 1.1). -/
structure Tables where
  tx : Table TxStatic
  ant : Table AntStatic
  ratings : Table (List Nat)
  bands : Table Band
  aux : List Nat
  site : SiteRecord
  deriving DecidableEq, Repr

/-- A valid image of the site area (R12); an image that is not valid is `none`. -/
structure SiteImage where
  tables : Tables
  saveNumber : Nat
  deriving DecidableEq, Repr

/-- The Site Tables block: the working copy, the unsaved-changes flag (R15) and the site area (R12). -/
structure Site where
  work : Tables
  unsaved : Bool
  image1 : Option SiteImage
  image2 : Option SiteImage
  deriving DecidableEq, Repr

/-! ## Frames bound for the plant (chapter 2) -/

/-- Station and tag of an order (R36). -/
structure Ref where
  station : Nat
  tag : Nat
  deriving DecidableEq, Repr

/-- The work in hand of a context: the occurrence and whether it is its END (R170). -/
structure Work where
  occ : Occ
  isEnd : Bool
  deriving DecidableEq, Repr

/-- On what ground the gate made a frame of its own (R54, R65, R187, R49 and R7, R10). -/
inductive GatePurpose where | interlock | withdrawal | cleanup | clamp | query
  deriving DecidableEq, Repr

/-- What a LATCH of the Matrix Interlocking serves: a movement slot, or the proof of a path. -/
inductive MiPurpose where
  | set (slot : Nat)
  | clear (slot : Nat)
  | proof (pid : Nat)
  deriving DecidableEq, Repr

/-- The party on whose behalf a frame is sent (R29, R194, R197). -/
inductive Origin where
  | ops (station tag : Nat)
  | ctx (n : Nat) (work : Work)
  | mi (purpose : MiPurpose)
  | gate (purpose : GatePurpose)
  | au
  | hallStop
  | survey
  deriving DecidableEq, Repr

/-- A verb with its parameter (section 2.7). `malformed` is a verb of the station's class whose payload does not have
the verb's length (R44); `other` is a frame to an auxiliary station, which is not read. -/
inductive PlantVerb where
  | tune (kHz : Nat)
  | power (kW : Nat)
  | carrierOn
  | carrierOff
  | feed (n : Nat)
  | query
  | slew (bearing : Nat)
  | steer (index : Nat)
  | stop
  | latchSet (bit : Nat)
  | latchClear (bit : Nat)
  | latchRead (start count : Nat)
  | other (kind : FrameKind) (code : Nat) (payload : List Byte)
  | malformed (code : Nat)
  deriving DecidableEq, Repr

/-- A frame for a plant station before it has a place in the plant queue. -/
structure PFrame where
  dest : Nat
  verb : PlantVerb
  cls : Cls
  origin : Origin
  deriving DecidableEq, Repr

/-- A frame in the plant queue, with its tag (section 2.5). -/
structure Queued where
  tag : Nat
  frame : PFrame
  deriving DecidableEq, Repr

/-- An entry of the outstanding-order table (section 2.6); `sent` is the end of its transmission, from which its timer
runs. -/
structure Entry where
  tag : Nat
  station : Nat
  addr : Nat
  origin : Origin
  verb : PlantVerb
  cls : Cls
  sent : Option Millis
  deriving DecidableEq, Repr

/-- An ANSWER in the operations send queue (R21, R22, R30). -/
structure Answer where
  dest : Nat
  src : Nat
  tag : Nat
  verb : Nat
  payload : List Byte
  deriving DecidableEq, Repr

/-- Report subjects (section 2.11). -/
inductive Subject where
  | none
  | transmitter (n : Nat)
  | pair (tx ant : Nat)
  | crosspoint (row col : Nat)
  | entry (bank : Bank) (id : Nat)
  | bank (bank : Bank) (n : Nat)
  | siteArea
  | station (n : Nat)
  deriving DecidableEq, Repr

/-- A report record (R36). `detail` and `qualifier` hold the codes of section 2.11, zero for none; `sending` marks the
record whose frame is being sent. -/
structure Report where
  time : Option SiteTime
  kind : ReportKind
  subject : Subject
  detail : Nat
  qualifier : Nat
  figure : Option Int
  ref : Option Ref
  sending : Bool
  deriving DecidableEq, Repr

/-- The Load Intake's flow frames (R143). -/
inductive Flow where | pause | resume
  deriving DecidableEq, Repr

/-- What the operations transmitter is sending (R23). -/
inductive OpsTx where
  | flow (f : Flow) (dest tag : Nat)
  | answer (a : Answer)
  | report (r : Report)
  deriving DecidableEq, Repr

/-- The Link Interface. -/
structure Link where
  plantQueue : List Queued
  urgentWaiters : List PFrame
  internalWaiters : List PFrame
  table : List Entry
  plantTx : Option Queued
  lastTag : Nat
  silent : List Nat
  reserved : Nat
  answers : List Answer
  opsTx : Option OpsTx
  opsHeldOff : Bool
  opsInput : List Frame
  reports : List Report
  reportsLost : Bool
  deriving DecidableEq, Repr

/-! ## The Traffic Gate (chapter 3) -/

/-- The value a field had before a passed frame set it, with the originator address and tag of that frame (R48, R50). -/
structure Restore (α : Type) where
  value : α
  addr : Nat
  tag : Nat
  deriving DecidableEq, Repr

inductive TxOwner where
  | none
  | ctx (n : Nat)
  | operations
  deriving DecidableEq, Repr, Inhabited

/-- A running occurrence (R42). `start` is its start site time, which the END context that ends it takes over (R169). -/
structure Running where
  occ : Occ
  start : SiteTime
  endTime : SiteTime
  priority : Nat
  deriving DecidableEq, Repr

/-- The dynamic part of a transmitter record (R42). The band, the local flag and the answer state are read through
`bandOf`, `localFlag` and `Link.silent`. -/
structure TxDyn where
  carrier : Carrier
  outstanding : Bool
  outRestore : Option (Restore Bool)
  tune : Tune
  tuneRestore : Option (Restore Tune)
  freq : Option Nat
  power : Option Nat
  reportedLocal : Bool
  owner : TxOwner
  running : Option Running
  interlockSent : Bool
  deriving DecidableEq, Repr

inductive HoldWait where | path | power
  deriving DecidableEq, Repr

/-- A frame of the hold queue (R58). -/
structure Held where
  frame : PFrame
  waits : HoldWait
  since : Millis
  deriving DecidableEq, Repr

/-- The value a POWER carried when it was sent, by station, originator address and tag (R62). -/
structure PowerSent where
  station : Nat
  addr : Nat
  tag : Nat
  value : Nat
  deriving DecidableEq, Repr

/-- The Traffic Gate. -/
structure Gate where
  tx : Table TxDyn
  held : List Held
  powerSent : List PowerSent
  deriving DecidableEq, Repr

/-! ## Matrix Interlocking (chapter 4) -/

/-- A crosspoint record (R67). -/
structure Xp where
  state : XpState
  closedContact : Contact
  openContact : Contact
  movement : Option Nat
  deriving DecidableEq, Repr

inductive PathState where | setting | proven | unproven | releasing
  deriving DecidableEq, Repr
inductive PathOwner where
  | ctx (n : Nat)
  | operations
  | idle
  deriving DecidableEq, Repr
inductive PathStage where | waiting | moving | settling | closed
  deriving DecidableEq, Repr
inductive Proof where
  | none
  | inProgress (tag : Option Nat)
  deriving DecidableEq, Repr

/-- A path record (R78). Beside R78's fields: the record's own number, the row and column of its crosspoint, whether a
movement was granted for its setting (R80), the releases its setting began (R79), and for a RELEASING path the priority
of its open request and the context that asked (R85, R86). -/
structure Path where
  pid : Nat
  tx : Nat
  ant : Nat
  row : Nat
  col : Nat
  state : PathState
  owner : PathOwner
  stage : Option PathStage
  proof : Proof
  priority : Nat
  since : Millis
  reference : Option Ref
  granted : Bool
  settleFrom : Millis
  awaits : List Nat
  deriving DecidableEq, Repr

/-- A movement request (R75). -/
structure MoveReq where
  pid : Nat
  row : Nat
  col : Nat
  coil : Coil
  priority : Nat
  age : Nat
  deriving DecidableEq, Repr

inductive MoveStage where | driving | releasingCoil
  deriving DecidableEq, Repr

/-- The movement of one slot (section 4.3): `limit` in milliseconds from `started`, the instant its SET left the plant
port; `before` is the crosspoint's state before the grant (R70). -/
structure Movement where
  req : MoveReq
  stage : MoveStage
  limit : Millis
  started : Option Millis
  before : XpState
  deriving DecidableEq, Repr

/-- The Matrix Interlocking. -/
structure Matrix where
  xps : Table Xp
  slots : Table Movement
  queue : List MoveReq
  waiting : List MoveReq
  paths : List Path
  nextAge : Nat
  nextPid : Nat
  deriving DecidableEq, Repr

/-! ## Antenna Unit (chapter 5) -/

inductive Target where
  | bearing (b : Nat)
  | index (i : Nat)
  | none
  deriving DecidableEq, Repr
inductive JobStage where | offered | sent | answered
  deriving DecidableEq, Repr
inductive Requester where
  | ctx (n : Nat) (work : Work)
  | operations (order : Ref)
  deriving DecidableEq, Repr

/-- A positioning job (R97). -/
structure Job where
  requester : Requester
  target : Target
  stage : JobStage
  moved : Bool
  deriving DecidableEq, Repr

/-- The positioning part of the dynamic antenna record (R92). The bearing of a STEERABLE or FIXED antenna is read
through `antBearing`. -/
structure AntDyn where
  bearing : Option Nat
  steer : Option Nat
  motion : Motion
  job : Option Job
  deriving DecidableEq, Repr

/-! ## Schedule Store (chapter 7) -/

/-- The 22-octet entry record (section 2.11). -/
structure EntryRec where
  id : Nat
  days : Nat
  start : Nat
  duration : Nat
  validFrom : Option Nat
  validTo : Option Nat
  tx : Nat
  freq : Nat
  ant : Nat
  bearing : Option Nat
  power : Nat
  feed : Nat
  priority : Nat
  spare : Nat
  deriving DecidableEq, Repr

/-- What a slot's record area holds: a record, or octets of a programming that was cut off. -/
inductive SlotContent where
  | record (e : EntryRec)
  | garbled (k : Nat)
  deriving DecidableEq, Repr

/-- A slot that is not EMPTY (R119): its content, burst number and stored marks; `workVoid` is the working state's VOID,
which a failed void or a failed write sets whatever the marks (R123). -/
structure Slot where
  content : SlotContent
  burst : Nat
  written : Bool
  voidMark : Bool
  workVoid : Bool
  deriving DecidableEq, Repr

inductive PageCond where | erased | inUse | incomplete | failed
  deriving DecidableEq, Repr

/-- A page (R118): its condition, failure count and stored erase mark; `allVoid` when each of its slots is taken as
VOID. -/
structure Page where
  cond : PageCond
  failures : Nat
  eraseMark : Bool
  allVoid : Bool
  deriving DecidableEq, Repr

inductive BankState where | blank | filling | standby | active | retired
  deriving DecidableEq, Repr

/-- The stored fields of a bank header (R116). -/
structure Header where
  season : Option Nat
  epoch : Option SiteTime
  state : BankState
  commits : List Nat
  deriving DecidableEq, Repr

structure HeaderImage where
  header : Header
  writeNumber : Nat
  deriving DecidableEq, Repr

inductive Pending where | none | create | seal | clear | activate
  deriving DecidableEq, Repr

/-- One bank: working header, working fields, header area, pages and slots. -/
structure BankRec where
  header : Header
  fault : Bool
  highest : Nat
  change : Pending
  image1 : Option HeaderImage
  image2 : Option HeaderImage
  pages : Table Page
  slots : Table Slot
  deriving DecidableEq, Repr

/-- What a header write records (R117, R138, R148). -/
inductive HeaderChange where
  | create (season : Nat) (epoch : SiteTime)
  | seal
  | clear
  | retire
  | activate
  | commit (burst : Nat)
  | recordRetired
  deriving DecidableEq, Repr

/-- Requests of the store queue (R122). -/
inductive StoreReq where
  | append (bank : Bank) (e : EntryRec) (ref : Ref)
  | void (bank : Bank) (id : Nat) (ref : Ref)
  | erase (bank : Bank) (pages : List Nat) (refs : List Ref) (windowOpen : Bool)
  | header (bank : Bank) (change : HeaderChange) (ref : Option Ref)
  | clear (bank : Bank) (ref : Ref)
  | siteSave (ref : Ref)
  | loadWrite (bank : Bank) (e : EntryRec) (burst : Nat)
  deriving DecidableEq, Repr

/-- The operation the engine has in progress (R123). -/
inductive EngineOp where
  | slotWrite (bank : Bank) (slot : Nat) (e : EntryRec) (burst : Nat) (ref : Option Ref)
  | void (bank : Bank) (slot : Nat) (id : Nat) (ref : Ref)
  | erasePage (bank : Bank) (page : Nat)
  | header (bank : Bank) (change : HeaderChange) (ref : Option Ref)
  | siteSave (second : Bool) (tables : Tables) (saveNumber : Nat) (ref : Ref)
  deriving DecidableEq, Repr

/-- The erase or clear request the engine is carrying out: the pages still selected and how many have been erased;
`serve` is how many requests at the head of the queue stood there when the last page erase ended (R133). -/
structure EraseJob where
  bank : Bank
  isClear : Bool
  pages : List Nat
  done : Nat
  refs : List Ref
  serve : Nat
  deriving DecidableEq, Repr

/-- The Schedule Store. -/
structure Store where
  bankA : BankRec
  bankB : BankRec
  openBank : Option Bank
  queue : List StoreReq
  activation : List (Bank × HeaderChange)
  window : Option Millis
  op : Option EngineOp
  opStart : Millis
  eraseJob : Option EraseJob
  checked : Bool
  deriving DecidableEq, Repr

/-! ## Load Intake (chapter 8) -/

inductive BurstState where | none | open_ | closing
  deriving DecidableEq, Repr
inductive Hand where | none | waiting | queued
  deriving DecidableEq, Repr
structure FirstError where
  reason : Reason
  ordinal : Nat
  check : Nat
  deriving DecidableEq, Repr
structure PendingClose where
  station : Nat
  tag : Nat
  count : Nat
  check : Half
  deriving DecidableEq, Repr

/-- The burst record (R140). `told` is the flow state the sender was last told (true for PAUSED); `commit` follows the
commit's header write. -/
structure Load where
  state : BurstState
  bank : Bank
  number : Nat
  opener : Ref
  expected : Nat
  received : Nat
  written : Nat
  check : Half
  firstError : Option FirstError
  paused : Bool
  told : Bool
  flow : Option Flow
  buffer : List (Nat × List Byte)
  hand : Hand
  idleFrom : Option Millis
  close : Option PendingClose
  commit : Hand
  deriving DecidableEq, Repr

/-! ## Plan Unit (chapter 9) -/

inductive EventKind where | start | finish
  deriving DecidableEq, Repr
inductive WaitCause where | context | log | transmitter
  deriving DecidableEq, Repr

/-- The occurrence whose END a START absorbed, with the END's priority and the occurrence's start and end (R159, R169,
R185). -/
structure Absorbed where
  occ : Occ
  priority : Nat
  start : SiteTime
  finish : SiteTime
  deriving DecidableEq, Repr

/-- An event of the horizon plan (R157). `occStart` and `occEnd` are the occurrence's start and end, with which the
event fills a context (R169, R170); `returnEnd` is the end named at a return (R164). -/
structure Event where
  kind : EventKind
  occ : Occ
  tx : Nat
  priority : Nat
  time : SiteTime
  occStart : SiteTime
  occEnd : SiteTime
  lead : Nat
  begin_ : SiteTime
  rf : SiteTime
  leadClamped : Bool
  late : Bool
  masked : Bool
  wait : Option WaitCause
  absorbed : Option Absorbed
  returnEnd : Option SiteTime
  deriving DecidableEq, Repr

/-- A dispatch log record (R155), with the occurrence's end, at which it is removed. -/
structure LogRec where
  occ : Occ
  start : SiteTime
  occEnd : SiteTime
  returned : Bool
  deriving DecidableEq, Repr

/-- A place in the order in which a refill considers events: by time, then priority, id, day, END before START. -/
structure ScanKey where
  time : SiteTime
  priority : Nat
  id : Nat
  day : Nat
  isStart : Bool
  deriving DecidableEq, Repr

/-- An event to be considered: its place in the scan, its occurrence with transmitter, start and end, and its entry; an END
of a running occurrence (R154) and an END inserted again (R159) have none. -/
structure Consider where
  key : ScanKey
  occ : Occ
  tx : Nat
  start : SiteTime
  finish : SiteTime
  entry : Option EntryRec
  deriving DecidableEq, Repr

/-- The scan mark (R158): every event up to `time` has been considered but those of `left`, and where a full plan stopped a
refill (R160), `resume` is the first event not considered. `left` holds the events at which a full plan stopped an insertion
outside a refill: the mark stands before each of them, so that they are the first considered at the next refill (R160), while
the events between them and `time`, considered once, are not considered again (R158; log entry 28). -/
structure ScanMark where
  time : SiteTime
  resume : Option ScanKey
  left : List Consider
  deriving DecidableEq, Repr

/-- The Plan Unit. `secondFrom` is the clock reading at which the present second began. -/
structure Plan where
  time : Option SiteTime
  secondFrom : Millis
  high : Option SiteTime
  log : List LogRec
  holdLevel : Nat
  events : List Event
  scan : ScanMark
  fullLatch : Bool
  watch : Option SiteTime
  deriving DecidableEq, Repr

/-! ## Changeover Unit (chapter 10) -/

inductive CtxPhase where | claim | muting | releasing | awaitAntenna | setting | proving | raising
  deriving DecidableEq, Repr
inductive SubStatus where | notNeeded | pending | running | done | failed
  deriving DecidableEq, Repr
structure Sub where
  status : SubStatus
  deadline : Option Millis
  deriving DecidableEq, Repr
inductive CtxOutcome where | none | done | failed | returned | missed | discarded
  deriving DecidableEq, Repr

/-- A changeover context that has been taken at least once (R169). `tuned` and `raised` say that the TUNE and the
CARRIER_ON of the work in hand have been admitted (R178, R182); `preempting` is the holder that the context, while
it waits for the antenna, has preempted and whose CARRIER_OFF has not been answered DONE (R176). -/
structure Ctx where
  busy : Bool
  isEnd : Bool
  occ : Occ
  startTime : SiteTime
  endTime : SiteTime
  tx : Nat
  priority : Nat
  tFreq : Nat
  tAnt : Nat
  tPos : Target
  tPower : Nat
  tFeed : Nat
  phase : CtxPhase
  deadline : Option Millis
  retune : Sub
  path : Sub
  position : Sub
  prior : Option Nat
  begin_ : SiteTime
  rf : SiteTime
  actual : Option SiteTime
  outcome : CtxOutcome
  reason : Option Failure
  cause : Nat
  tuned : Bool
  raised : Bool
  preempting : Option Nat
  deriving DecidableEq, Repr

/-! ## Panel, hall stop, start-up (chapter 11) -/

/-- Levels of the panel inputs: the numbers of the LOCAL keys and LOCKOUT switches that are on, and the two single
inputs. -/
structure Levels where
  locals : List Nat
  lockouts : List Nat
  maintenance : Bool
  push : Bool
  deriving DecidableEq, Repr

/-- The Panel Interface: levels at the contacts, levels as conditioned, and the last change of each input that has not
settled (R192). -/
structure Panel where
  raw : Levels
  cond : Levels
  edges : List (PanelInput × Millis)
  deriving DecidableEq, Repr

/-- A source of the hall stop: the push, or an operations station (section 11.2). -/
inductive StopSource where
  | push
  | station (n : Nat)
  deriving DecidableEq, Repr
structure HallStop where
  inForce : Bool
  sources : List StopSource
  deriving DecidableEq, Repr

/-- Start-up: phase, kind of the last start, start of SURVEY and the stations heard in it, whether a TIME_SET was taken
during start-up (R151), and the bank whose retirement is to be recorded (R138, R200). -/
structure StartUp where
  phase : Phase
  last : LastStart
  surveyAt : Millis
  heard : List Nat
  timeSet : Bool
  retire : Option Bank
  deriving DecidableEq, Repr

/-! ## What the blocks have still to tell each other within one instant -/

/-- What the Matrix Interlocking tells a context about its path (R79 to R83). -/
inductive PathNews where
  | closed
  | failed (code : Nat)
  | proven
  | proofFailed (code : Nat)
  | lost (live : Bool)
  deriving DecidableEq, Repr

/-- A consequence that is due in the present instant and has not yet been carried out. -/
inductive Signal where
  | slot
  | port
  | opsTake
  | refused (f : PFrame) (code : Nat)
  | ended (e : Entry) (outcome : Option Outcome) (code : Nat)
  | interlock (tx : Nat)
  | withdraw (tx : Nat)
  | watch (tx : Nat)
  | holdEnd (tx : Nat)
  | recheckPath (tx : Nat)
  | recheckPower (tx : Nat)
  | recheckTx (tx : Nat)
  | fitPower (tx : Nat)
  | ctxRecord (tx : Nat) (report : Bool)
  | abort (n : Nat) (work : Work) (reason : Failure)
  | pathNews (n : Nat) (work : Work) (news : PathNews)
  | jobEnded (n : Nat) (work : Work) (ok : Bool) (code : Nat)
  | arbiter
  | actPath (pid : Nat)
  | columns
  | ctxFreed
  | offerLog
  | offerReturned (tx : Nat)
  | dispatch
  | occFailed (occ : Occ)
  | appended (bank : Bank) (e : EntryRec)
  | voided (bank : Bank) (id : Nat)
  | activation
  | engine
  | intake
  | surveyCheck
  | adoptCheck
  deriving DecidableEq, Repr

/-! ## The machine -/

/-- The controller. `clock` is its own clock; `free` counts the free values drawn; `agenda` holds the consequences not
yet carried out, and is empty between commands. -/
structure Ctl where
  clock : Millis
  free : Nat
  agenda : List Signal
  link : Link
  gate : Gate
  matrix : Matrix
  aerial : Table AntDyn
  site : Site
  store : Store
  load : Load
  plan : Plan
  cu : Table Ctx
  panel : Panel
  hall : HallStop
  start : StartUp
  deriving DecidableEq, Repr

/-- The whole state: the controller, and the commands that wait, first in, first out. -/
structure State where
  ctl : Ctl
  pending : List Instr
  deriving DecidableEq, Repr

/-- Faults. No command of this block stops with one: the type has no constructor a step answers with.
`unreachable` is raised by nobody (safe). -/
inductive Fault where
  /-- Raised by no meaning; it stands so that the type is inhabited (safe). -/
  | unreachable
  deriving DecidableEq, Repr

/-- Refusals. -/
inductive Refusal where
  /-- Raised by an arm of exec whose command has no meaning yet (safe); no arm is left. -/
  | notModelled (mnemonic : String)
  deriving DecidableEq, Repr

/-! ## The state after reset -/

/-- The working copy loaded from an erased site area (R16). -/
def Tables.erased : Tables :=
  { tx := [], ant := [], ratings := [], bands := [], aux := [],
    site := { geometry := none, sx := 6, tolerance := 75, manualPriority := 8 } }

/-- The header of a bank whose header area holds no valid image (R116). -/
def Header.blank : Header := { season := none, epoch := none, state := .blank, commits := [] }

/-- A bank of an erased store. -/
def BankRec.blank : BankRec :=
  { header := Header.blank, fault := false, highest := 0, change := .none, image1 := none, image2 := none,
    pages := [], slots := [] }

/-- The Link Interface at power-up (R38). -/
def Link.initial : Link :=
  { plantQueue := [], urgentWaiters := [], internalWaiters := [], table := [], plantTx := none, lastTag := 255,
    silent := [], reserved := 0, answers := [], opsTx := none, opsHeldOff := false, opsInput := [], reports := [],
    reportsLost := false }

/-- The Matrix Interlocking at power-up (R67, R75, R78). -/
def Matrix.initial : Matrix :=
  { xps := [], slots := [], queue := [], waiting := [], paths := [], nextAge := 0, nextPid := 1 }

/-- The burst record with no burst (R140). -/
def Load.initial : Load :=
  { state := .none, bank := .a, number := 0, opener := { station := 0, tag := 0 }, expected := 0, received := 0,
    written := 0, check := 0xFFFF#16, firstError := none, paused := false, told := false, flow := none, buffer := [],
    hand := .none, idleFrom := none, close := none, commit := .none }

/-- The Plan Unit at power-up (R151, R155, R157, R160, R162). -/
def Plan.initial : Plan :=
  { time := none, secondFrom := 0, high := none, log := [], holdLevel := 0, events := [],
    scan := { time := 0, resume := none, left := [] }, fullLatch := false, watch := none }

/-- All panel inputs off. -/
def Levels.off : Levels := { locals := [], lockouts := [], maintenance := false, push := false }

/-- The controller right after a power-up with an erased store and every panel input off (R38, R42, R67, R92, R116,
R139, R140, R151, R155, R191, R196): start-up stands at STORE_CHECK. -/
def Ctl.reset : Ctl :=
  { clock := 0, free := 0, agenda := [], link := Link.initial, gate := { tx := [], held := [], powerSent := [] },
    matrix := Matrix.initial, aerial := [],
    site := { work := Tables.erased, unsaved := false, image1 := none, image2 := none },
    store := { bankA := BankRec.blank, bankB := BankRec.blank, openBank := none, queue := [], activation := [],
               window := none, op := none, opStart := 0, eraseJob := none, checked := false },
    load := Load.initial, plan := Plan.initial, cu := [],
    panel := { raw := Levels.off, cond := Levels.off, edges := [] },
    hall := { inForce := false, sources := [] },
    start := { phase := .storeCheck, last := .powerUp, surveyAt := 0, heard := [], timeSet := false, retire := none } }

/-- The machine right after reset. -/
def State.reset : State := { ctl := Ctl.reset, pending := [] }

end Sys2Proof.Machine
end

