-- ==== Sys2Proof/Machine/Ops.lean ====
section
/-! DEFINITION. The named operations over the state: finite maps in canonical form, sorted number sets, the block
updates, signals, the controller's clock, free values and reports. -/

namespace Sys2Proof.Machine

/-! ## Finite maps and sorted sets -/

/-- The value at key `k`. -/
def tget {α : Type} (k : Nat) : Table α → Option α
  | [] => none
  | (j, v) :: t => if j = k then some v else tget k t

/-- Write `v` at key `k`, keeping the keys strictly rising. -/
def tset {α : Type} (k : Nat) (v : α) : Table α → Table α
  | [] => [(k, v)]
  | (j, w) :: t => if k < j then (k, v) :: (j, w) :: t else if k = j then (k, v) :: t else (j, w) :: tset k v t

/-- Remove key `k`. -/
def terase {α : Type} (k : Nat) : Table α → Table α
  | [] => []
  | (j, w) :: t => if j = k then terase k t else (j, w) :: terase k t

/-- Write `v` at `k` where an unlisted key reads as `d`: the entry is removed when `v` is `d`. -/
def tput {α : Type} [DecidableEq α] (d : α) (k : Nat) (v : α) (t : Table α) : Table α :=
  if v = d then terase k t else tset k v t

/-- Change the value at `k`, if there is one. -/
def tmod {α : Type} (k : Nat) (f : α → α) (t : Table α) : Table α :=
  match tget k t with
  | some v => tset k (f v) t
  | none => t

/-- The canonical form: keys strictly rising. -/
def tableRising {α : Type} : Table α → Bool
  | [] => true
  | [_] => true
  | (a, _) :: (b, x) :: t => decide (a < b) && tableRising ((b, x) :: t)

/-- Insert a number into a strictly rising list. -/
def nins (k : Nat) : List Nat → List Nat
  | [] => [k]
  | j :: t => if k < j then k :: j :: t else if k = j then j :: t else j :: nins k t

/-- Remove a number from a list. -/
def ndel (k : Nat) (l : List Nat) : List Nat := l.filter (fun j => j != k)

/-- The numbers 1 to n. -/
def upTo (n : Nat) : List Nat := (List.range n).map (fun i => i + 1)

/-- Insertion of `x` before the first element it must precede; `before` is the order. -/
def orderedInsert {α : Type} (before : α → α → Bool) (x : α) : List α → List α
  | [] => [x]
  | y :: t => if before x y then x :: y :: t else y :: orderedInsert before x t

/-- Stable sorting by insertion. -/
def insertSort {α : Type} (before : α → α → Bool) : List α → List α
  | [] => []
  | x :: t => orderedInsert before x (insertSort before t)

/-- Remove the first element that `p` holds of. -/
def dropFirst {α : Type} (p : α → Bool) : List α → List α
  | [] => []
  | x :: t => if p x then t else x :: dropFirst p t

/-- Replace the first element that `p` holds of. -/
def mapFirst {α : Type} (p : α → Bool) (f : α → α) : List α → List α
  | [] => []
  | x :: t => if p x then f x :: t else x :: mapFirst p f t

/-- The last element that `p` holds of, and the list without it. -/
def takeLast {α : Type} (p : α → Bool) (l : List α) : Option (α × List α) :=
  match l.reverse.find? p with
  | some x => some (x, (dropFirst p l.reverse).reverse)
  | none => none

/-! ## Block updates -/

def Ctl.onLink (f : Link → Link) (c : Ctl) : Ctl := { c with link := f c.link }
def Ctl.onGate (f : Gate → Gate) (c : Ctl) : Ctl := { c with gate := f c.gate }
def Ctl.onMatrix (f : Matrix → Matrix) (c : Ctl) : Ctl := { c with matrix := f c.matrix }
def Ctl.onAerial (f : Table AntDyn → Table AntDyn) (c : Ctl) : Ctl := { c with aerial := f c.aerial }
def Ctl.onSite (f : Site → Site) (c : Ctl) : Ctl := { c with site := f c.site }
def Ctl.onStore (f : Store → Store) (c : Ctl) : Ctl := { c with store := f c.store }
def Ctl.onLoad (f : Load → Load) (c : Ctl) : Ctl := { c with load := f c.load }
def Ctl.onPlan (f : Plan → Plan) (c : Ctl) : Ctl := { c with plan := f c.plan }
def Ctl.onCu (f : Table Ctx → Table Ctx) (c : Ctl) : Ctl := { c with cu := f c.cu }
def Ctl.onPanel (f : Panel → Panel) (c : Ctl) : Ctl := { c with panel := f c.panel }
def Ctl.onHall (f : HallStop → HallStop) (c : Ctl) : Ctl := { c with hall := f c.hall }
def Ctl.onStart (f : StartUp → StartUp) (c : Ctl) : Ctl := { c with start := f c.start }

/-- Note consequences that are due in this instant, behind those already noted. -/
def push (l : List Signal) (c : Ctl) : Ctl := { c with agenda := c.agenda ++ l }

/-- Note a consequence unless it is already noted. -/
def pushOnce (x : Signal) (c : Ctl) : Ctl := if x ∈ c.agenda then c else push [x] c

/-- The controller's clock reaches `t`: a timer's expiry is the clock reaching its time (log entry 2). -/
def clockReaches (t : Millis) (c : Ctl) : Ctl := { c with clock := max c.clock t }

/-- `n` free values are drawn (log entry 19). -/
def drawFree (n : Nat) (c : Ctl) : Ctl := { c with free := c.free + n }

/-- The free value of a number of draws, in a range of `n` values: the field it stands in keeps its range (log entry 19). -/
def freeBelow (n k : Nat) : Nat := Config.freeNat k % n

/-- Apply `f` for each element in order. -/
def forEach {α : Type} (l : List α) (f : α → Ctl → Ctl) (c : Ctl) : Ctl := l.foldl (fun c x => f x c) c

/-! ## Numbers of site time -/

/-- Day and second of a site time. -/
def dayOf (t : SiteTime) : Nat := t / 86400
def secondOf (t : SiteTime) : Nat := t % 86400
def siteTime (day second : Nat) : SiteTime := day * 86400 + second

/-- A duration added to a site time; past the last second it is taken as that second (section 0.5). -/
def addTime (t : SiteTime) (d : Nat) : SiteTime := min (t + d) Config.lastSiteTime

/-- A quotient rounded upward (section 0.5). -/
def ceilDiv (a b : Nat) : Nat := (a + b - 1) / b

/-! ## Codes (section 2.11) -/

def Reason.code : Reason → Nat
  | .survey => 1 | .localControl => 2 | .owned => 3 | .carrierOn => 4 | .outOfBand => 5 | .noPath => 6
  | .pathUnproven => 7 | .holdFull => 8 | .lockedOut => 9 | .bandUnrated => 10 | .hallStopped => 11
  | .antennaLive => 12 | .outOfTravel => 13 | .matrixReserved => 14 | .plantBusy => 15 | .unknownStation => 16
  | .noAnswer => 17 | .xpStuck => 18 | .inUse => 19 | .badRecord => 20 | .duplicateId => 21 | .unknownPlant => 22
  | .notOpen => 23 | .wrongSeason => 24 | .isProtected => 25 | .busy => 26 | .erasing => 27 | .bankFull => 28
  | .storeFault => 29 | .burstActive => 30 | .commitsFull => 31 | .idleTimeout => 32 | .countMismatch => 33
  | .checkMismatch => 34 | .overrun => 35 | .restarting => 36 | .timeInvalid => 37

def Failure.code : Failure → Nat
  | .muteTimeout => 64 | .releaseTimeout => 65 | .retuneFailed => 66 | .pathFailed => 67 | .positionFailed => 68
  | .proveFailed => 69 | .raiseTimeout => 70 | .operatorOff => 71 | .interlock => 72 | .hallStop => 73 | .voided => 74
  | .season => 75 | .restart => 76 | .unusable => 77 | .ended => 78 | .masked => 79 | .antennaHeld => 80

/-- Report kind codes, 1 to 19 in the order of the table of R36. -/
def ReportKind.code : ReportKind → Nat
  | .interlockOff => 1 | .hallStop => 2 | .lateStart => 3 | .missed => 4 | .preempted => 5 | .changeoverFailed => 6
  | .changeoverDone => 7 | .xpStuck => 8 | .stationNoAnswer => 9 | .powerClamped => 10 | .leadClamped => 11
  | .planFull => 12 | .storeDone => 13 | .storeFailed => 14 | .loadResult => 15 | .bankActivated => 16 | .timeStep => 17
  | .startupDone => 18 | .pathResult => 19

/-- The class ALARM of a report kind (R36). -/
def ReportKind.isAlarm : ReportKind → Bool
  | .interlockOff | .hallStop | .changeoverFailed | .xpStuck | .stationNoAnswer | .planFull | .storeFailed => true
  | _ => false

/-- Qualifier codes of the phases (section 2.11). -/
def CtxPhase.code : CtxPhase → Nat
  | .claim => 1 | .muting => 2 | .releasing => 3 | .awaitAntenna => 4 | .setting => 5 | .proving => 6 | .raising => 7

def bankCode : Bank → Nat
  | .a => 1 | .b => 2

/-- The other bank. -/
def otherBank : Bank → Bank
  | .a => .b | .b => .a

/-- The bank of a code: A 1, B 2. -/
def bankOfCode : Nat → Option Bank
  | 1 => some .a
  | 2 => some .b
  | _ => none

/-! ## Reports (R36, R37) -/

/-- The report queue without its oldest NOTICE, if it holds one. -/
def withoutOldestNotice (rs : List Report) : Option (List Report) :=
  if rs.any (fun r => !r.kind.isAlarm) then some (dropFirst (fun r => !r.kind.isAlarm) rs) else none

/-- A record joins the report queue as R37 gives. -/
def queueReport (r : Report) (k : Link) : Link :=
  if k.reports.length < Config.reportQueueSize then { k with reports := k.reports ++ [r] }
  else if r.kind.isAlarm then
    match withoutOldestNotice k.reports with
    | some rs => { k with reports := rs ++ [r] }
    | none => { k with reportsLost := true }
  else k

/-- Raise a report: the record takes the site time at which it is raised, absent while site time is INVALID (R36). -/
def raise (kind : ReportKind) (subject : Subject) (detail qualifier : Nat) (figure : Option Int) (ref : Option Ref)
    (c : Ctl) : Ctl :=
  c.onLink (queueReport
    { time := c.plan.time, kind := kind, subject := subject, detail := detail, qualifier := qualifier,
      figure := figure, ref := ref, sending := false })

/-- A figure of seconds, held to the largest value of its sign that 32 bits carry (R36). The most negative of them,
-2147483648, is the code of an absent figure, so that the least figure carried is -2147483647: the model's choice (log
entry 37). -/
def figure32 (x : Int) : Int := max (-2147483647) (min x 2147483647)

end Sys2Proof.Machine
end

