-- ==== Sys2Proof/Machine/Operands.lean ====
section
/-! DEFINITION. Octet layouts and codings (R39 to R41): numbers, the cyclic check, frames, verbs, the plant stations'
STATUS fields, the entry record, the site records and the report record. -/

namespace Sys2Proof.Machine

/-! ## Numbers (R39) -/

def u8 (n : Nat) : List Byte := [BitVec.ofNat 8 n]
def be2 (n : Nat) : List Byte := [BitVec.ofNat 8 (n / 256), BitVec.ofNat 8 n]
def be3 (n : Nat) : List Byte := [BitVec.ofNat 8 (n / 65536), BitVec.ofNat 8 (n / 256), BitVec.ofNat 8 n]
def be4 (n : Nat) : List Byte :=
  [BitVec.ofNat 8 (n / 16777216), BitVec.ofNat 8 (n / 65536), BitVec.ofNat 8 (n / 256), BitVec.ofNat 8 n]

/-- An absent value is all ones in its octets. -/
def opt1 : Option Nat → List Byte
  | some n => u8 n
  | none => u8 0xFF
def opt2 : Option Nat → List Byte
  | some n => be2 n
  | none => be2 0xFFFF
def opt3 : Option Nat → List Byte
  | some n => be3 n
  | none => be3 0xFFFFFF

def rd2 (a b : Byte) : Nat := a.toNat * 256 + b.toNat
def rd3 (a b d : Byte) : Nat := a.toNat * 65536 + b.toNat * 256 + d.toNat
def absent1 (n : Nat) : Option Nat := if n = 0xFF then none else some n
def absent2 (n : Nat) : Option Nat := if n = 0xFFFF then none else some n

/-- A signed two-octet number in two's complement. -/
def rdSigned2 (a b : Byte) : Int := if rd2 a b < 0x8000 then (rd2 a b : Int) else (rd2 a b : Int) - 0x10000
def beSigned2 (x : Int) : List Byte := be2 (x % 0x10000).toNat
def beSigned4 (x : Int) : List Byte := be4 (x % 0x100000000).toNat

/-- A name takes its position from 1: yes 1, no 2. -/
def yesNo (b : Bool) : List Byte := u8 (if b then 1 else 2)

/-- A site time as day, 2 octets, and second, 3 octets; absent all ones. -/
def timeOctets : Option SiteTime → List Byte
  | some t => be2 (dayOf t) ++ be3 (secondOf t)
  | none => be2 0xFFFF ++ be3 0xFFFFFF

/-! ## The cyclic check (R40) -/

/-- One bit of the register's division by x^16 + x^12 + x^5 + 1. -/
def crcShift (r : Half) : Half := if r.getLsbD 15 then (r <<< 1) ^^^ 0x1021#16 else r <<< 1

/-- One octet, most significant bit first. -/
def crcOctet (r : Half) (b : Byte) : Half :=
  crcShift (crcShift (crcShift (crcShift (crcShift (crcShift (crcShift (crcShift
    (r ^^^ ((b.setWidth 16) <<< 8)))))))))

/-- The check over octets, from a given register. -/
def crcFrom (r : Half) (l : List Byte) : Half := l.foldl crcOctet r

/-- The check over octets, the register starting at all ones. -/
def crc16 (l : List Byte) : Half := crcFrom 0xFFFF#16 l

/-! ## Frames (R40, R41) -/

def kindCode : FrameKind → Nat
  | .order => 1 | .answer => 2 | .status => 3 | .latch => 4 | .report => 5 | .load => 6

def frameKindOf : Nat → Option FrameKind
  | 1 => some .order | 2 => some .answer | 3 => some .status | 4 => some .latch | 5 => some .report | 6 => some .load
  | _ => none

/-- Header and payload of a frame. -/
def frameBody (f : Frame) : List Byte :=
  u8 f.dest ++ u8 f.src ++ u8 (kindCode f.kind) ++ u8 f.tag ++ u8 f.verb ++ u8 f.payload.length ++ f.payload

/-- A frame as it crosses the link. -/
def frameOctets (f : Frame) : List Byte := frameBody f ++ be2 (crc16 (frameBody f)).toNat

/-- The frame that octets received spell, if their length field is at most 48 and agrees with them, the kind is one of
the six and the check is right (R18, R19). -/
def parseFrame (raw : List Byte) : Option Frame :=
  match raw with
  | d :: s :: k :: t :: v :: l :: rest =>
    if l.toNat ≤ Config.maxPayload ∧ rest.length = l.toNat + 2 then
      match frameKindOf k.toNat with
      | some kind =>
        if rest.drop l.toNat = be2 (crc16 (d :: s :: k :: t :: v :: l :: rest.take l.toNat)).toNat then
          some { dest := d.toNat, src := s.toNat, kind := kind, tag := t.toNat, verb := v.toNat,
                 payload := rest.take l.toNat }
        else none
      | none => none
    else none
  | _ => none

/-! ## Verbs (section 2.7, section 2.11) -/

/-- Verb code of a plant-bound frame. -/
def PlantVerb.code : PlantVerb → Nat
  | .tune _ => 1 | .power _ => 2 | .carrierOn => 3 | .carrierOff => 4 | .feed _ => 5 | .query => 6
  | .slew _ => 7 | .steer _ => 8 | .stop => 9
  | .latchSet _ => 1 | .latchClear _ => 2 | .latchRead _ _ => 3
  | .other _ code _ => code
  | .malformed code => code

/-- Kind of a plant-bound frame. -/
def PlantVerb.kind : PlantVerb → FrameKind
  | .latchSet _ | .latchClear _ | .latchRead _ _ => .latch
  | .other kind _ _ => kind
  | _ => .order

/-- Payload of a plant-bound frame. -/
def PlantVerb.payload : PlantVerb → List Byte
  | .tune f => be2 f
  | .power p => be2 p
  | .feed n => u8 n
  | .slew b => be2 b
  | .steer i => u8 i
  | .latchSet b => be2 b
  | .latchClear b => be2 b
  | .latchRead s n => be2 s ++ u8 n
  | .other _ _ p => p
  | _ => []

/-- The verb an ORDER to a transmitter carries. -/
def parseTransmitterVerb (code : Nat) (p : List Byte) : PlantVerb :=
  match code, p with
  | 1, [a, b] => .tune (rd2 a b)
  | 2, [a, b] => .power (rd2 a b)
  | 3, [] => .carrierOn
  | 4, [] => .carrierOff
  | 5, [n] => .feed n.toNat
  | 6, [] => .query
  | n, _ => .malformed n

/-- The verb an ORDER to an antenna drive carries. -/
def parseDriveVerb (code : Nat) (p : List Byte) : PlantVerb :=
  match code, p with
  | 7, [a, b] => .slew (rd2 a b)
  | 8, [i] => .steer i.toNat
  | 9, [] => .stop
  | 6, [] => .query
  | n, _ => .malformed n

/-- The verbs of a station class (section 2.7). -/
def verbOfClass : StationClass → Nat → Bool
  | .transmitter, v => decide (1 ≤ v ∧ v ≤ 6)
  | .drive, v => decide (6 ≤ v ∧ v ≤ 9)
  | _, _ => true

/-- The source address of the frame of an origin: the operations station, or the controller. -/
def originAddr : Origin → Nat
  | .ops station _ => station
  | _ => Config.ownStation

/-- A queued frame as it crosses the link (R35). -/
def queuedFrame (q : Queued) : Frame :=
  { dest := q.frame.dest, src := originAddr q.frame.origin, kind := q.frame.verb.kind, tag := q.tag,
    verb := q.frame.verb.code, payload := q.frame.verb.payload }

/-! ## What the plant stations report (section 2.7) -/

/-- Outcome of the first payload octet of an ANSWER (R30). -/
def outcomeOf : Nat → Option Outcome
  | 1 => some .done | 2 => some .accepted | 3 => some .refused
  | _ => none

/-- The fields of a transmitter's STATUS. -/
structure TxReport where
  carrierOn : Bool
  tune : Tune
  freq : Option Nat
  power : Option Nat
  trip : Bool
  localControl : Bool
  deriving DecidableEq, Repr

def onOffOf : Nat → Option Bool
  | 1 => some false
  | 2 => some true
  | _ => none
def yesNoOf : Nat → Option Bool
  | 1 => some true
  | 2 => some false
  | _ => none
def tuneOf : Nat → Option Tune
  | 1 => some .idle | 2 => some .tuning | 3 => some .failed
  | _ => none
def motionOf : Nat → Option Motion
  | 1 => some .still | 2 => some .moving | 3 => some .fault
  | _ => none

/-- Carrier, tune state, tuned frequency, power setting, trip, local. -/
def parseTxReport (p : List Byte) : Option TxReport :=
  match p with
  | [a, b, f1, f2, p1, p2, d, e] =>
    match onOffOf a.toNat, tuneOf b.toNat, yesNoOf d.toNat, yesNoOf e.toNat with
    | some on, some tune, some trip, some loc =>
      some { carrierOn := on, tune := tune, freq := absent2 (rd2 f1 f2), power := absent2 (rd2 p1 p2), trip := trip,
             localControl := loc }
    | _, _, _, _ => none
  | _ => none

/-- The fields of a drive's STATUS: bearing, steer index, motion. -/
structure DriveReport where
  bearing : Option Nat
  steer : Option Nat
  motion : Motion
  deriving DecidableEq, Repr

def parseDriveReport (p : List Byte) : Option DriveReport :=
  match p with
  | [b1, b2, i, m] =>
    match motionOf m.toNat with
    | some motion => some { bearing := absent2 (rd2 b1 b2), steer := absent1 i.toNat, motion := motion }
    | none => none
  | _ => none

/-- Items of three octets: a sensor bit and its value. A value octet that is neither 0 nor 1 counts as a one: the model's
choice (log entry 10). -/
def parseBits : List Byte → Option (List (Nat × Bool))
  | [] => some []
  | a :: b :: v :: t =>
    match parseBits t with
    | some l => some ((rd2 a b, v.toNat != 0) :: l)
    | none => none
  | _ => none

/-- A matrix STATUS: the number of items, then the sensor bits that changed with their new values. R41 states the count for
an answer with a variable number of items; that a STATUS has it too, and that one without it is ignored, is the model's choice
(log entry 10). -/
def parseMatrixStatus (p : List Byte) : Option (List (Nat × Bool)) :=
  match p with
  | n :: rest => if rest.length = 3 * n.toNat then parseBits rest else none
  | [] => none

/-- Bit `i` of octets, the most significant bit of the first octet being bit 0. -/
def octetBit (l : List Byte) (i : Nat) : Bool :=
  match l[i / 8]? with
  | some b => b.getLsbD (7 - i % 8)
  | none => false

/-- The result of an ANSWER to LATCH READ: start, count, and the bits in 1 or 2 octets (section 2.11). -/
def parseRead (p : List Byte) : Option (List (Nat × Bool)) :=
  match p with
  | s1 :: s2 :: n :: bits =>
    if 1 ≤ n.toNat ∧ n.toNat ≤ 16 ∧ bits.length = ceilDiv n.toNat 8 then
      some ((List.range n.toNat).map (fun i => (rd2 s1 s2 + i, octetBit bits i)))
    else none
  | _ => none

/-! ## The entry record (section 2.11) -/

def entryOctets (e : EntryRec) : List Byte :=
  be2 e.id ++ u8 (e.days % 128) ++ be2 e.start ++ be2 e.duration ++ opt2 e.validFrom ++ opt2 e.validTo ++ u8 e.tx ++
  be2 e.freq ++ u8 e.ant ++ opt2 e.bearing ++ be2 e.power ++ u8 e.feed ++ u8 e.priority ++ u8 e.spare

def parseEntry (p : List Byte) : Option EntryRec :=
  match p with
  | [i1, i2, dm, s1, s2, d1, d2, f1, f2, t1, t2, tx, q1, q2, an, b1, b2, p1, p2, fd, pr, sp] =>
    some { id := rd2 i1 i2, days := dm.toNat % 128, start := rd2 s1 s2, duration := rd2 d1 d2,
           validFrom := absent2 (rd2 f1 f2), validTo := absent2 (rd2 t1 t2), tx := tx.toNat, freq := rd2 q1 q2,
           ant := an.toNat, bearing := absent2 (rd2 b1 b2), power := rd2 p1 p2, feed := fd.toNat,
           priority := pr.toNat, spare := sp.toNat }
  | _ => none

/-- The octets of a slot's record area as stored: those of a programming that was cut off are free values. -/
def contentOctets : SlotContent → List Byte
  | .record e => entryOctets e
  | .garbled k => (List.range 22).map (fun i => Config.freeByte (k + i))

/-! ## Site records (R41, sections 1.2 to 1.5) -/

/-- Kinds of site record, in the order of section 1.1. -/
inductive RecordKind where | transmitter | antenna | ratings | band | site | auxiliary
  deriving DecidableEq, Repr

def recordKindOf : Nat → Option RecordKind
  | 1 => some .transmitter | 2 => some .antenna | 3 => some .ratings | 4 => some .band | 5 => some .site
  | 6 => some .auxiliary
  | _ => none

/-- A site record as carried, before its checks; `none` in an offset list or a kind is a value that is no code. -/
inductive SiteRec where
  | transmitter (r : TxStatic)
  | antenna (r : AntStatic)
  | ratings (l : List Nat)
  | band (b : Band)
  | site (r : SiteRecord)
  | auxiliary
  deriving DecidableEq, Repr

def AntKind.code : AntKind → Nat
  | .rotatable => 1 | .steerable => 2 | .fixed => 3 | .dummy => 4
def antKindOf : Nat → Option AntKind
  | 1 => some .rotatable | 2 => some .steerable | 3 => some .fixed | 4 => some .dummy
  | _ => none

def txOctets (r : TxStatic) : List Byte :=
  u8 r.station ++ u8 r.row ++ be2 r.maxPower ++ u8 r.tm ++ u8 r.tu ++ u8 r.ti ++ be2 r.tb ++ yesNo r.inService

/-- The steer offsets: a count octet and that many signed two-octet offsets; an absent list is a count of all ones. -/
def offsetOctets : Option (List Int) → List Byte
  | some l => u8 l.length ++ l.flatMap beSigned2
  | none => u8 0xFF

def antOctets (r : AntStatic) : List Byte :=
  u8 r.kind.code ++ u8 r.column ++ opt1 r.drive ++ opt2 r.boresight ++ opt2 r.stopBearing ++ opt2 r.margin ++
  opt1 r.slewRate ++ opt1 r.settle ++ offsetOctets r.offsets ++ opt1 r.phasing

def siteOctets (r : SiteRecord) : List Byte :=
  opt1 (r.geometry.map (·.rows)) ++ opt1 (r.geometry.map (·.cols)) ++ opt1 (r.geometry.map (·.station)) ++ u8 r.sx ++
  u8 r.tolerance ++ u8 r.manualPriority

def siteRecOctets : SiteRec → List Byte
  | .transmitter r => txOctets r
  | .antenna r => antOctets r
  | .ratings l => l.flatMap be2
  | .band b => be2 b.low ++ be2 b.high
  | .site r => siteOctets r
  | .auxiliary => []

/-- Pairs of octets as numbers. -/
def parsePairs : List Byte → Option (List Nat)
  | [] => some []
  | a :: b :: t =>
    match parsePairs t with
    | some l => some (rd2 a b :: l)
    | none => none
  | _ => none

def parseSignedPairs : List Byte → Option (List Int)
  | [] => some []
  | a :: b :: t =>
    match parseSignedPairs t with
    | some l => some (rdSigned2 a b :: l)
    | none => none
  | _ => none

/-- The offset list of an ANTENNA record and what follows it. -/
def parseOffsets (n : Nat) (rest : List Byte) : Option (Option (List Int) × List Byte) :=
  if n = 0xFF then some (none, rest)
  else if rest.length < 2 * n then none
  else match parseSignedPairs (rest.take (2 * n)) with
    | some l => some (some l, rest.drop (2 * n))
    | none => none

/-- What a carried record can be: its fields, or the number of the check that its form already fails. -/
inductive Carried where
  | ok (r : SiteRec)
  | bad (check : Nat)
  deriving DecidableEq, Repr

/-- The record of a kind that octets carry. A record that does not have its kind's length fails the first check of its
kind (log entry 13). -/
def parseSiteRec (k : RecordKind) (p : List Byte) : Carried :=
  match k, p with
  | .transmitter, [st, row, m1, m2, tm, tu, ti, b1, b2, sv] =>
    match yesNoOf sv.toNat with
    | some sv => .ok (.transmitter
        { station := st.toNat, row := row.toNat, maxPower := rd2 m1 m2, tm := tm.toNat, tu := tu.toNat, ti := ti.toNat,
          tb := rd2 b1 b2, inService := sv })
    | none => .bad 2
  | .transmitter, _ => .bad 2
  | .antenna, kd :: col :: dr :: o1 :: o2 :: s1 :: s2 :: m1 :: m2 :: v :: se :: n :: rest =>
    match antKindOf kd.toNat, parseOffsets n.toNat rest with
    | none, _ => .bad 7
    | some kind, some (offs, [tp]) => .ok (.antenna
        { kind := kind, column := col.toNat, drive := absent1 dr.toNat, boresight := absent2 (rd2 o1 o2),
          stopBearing := absent2 (rd2 s1 s2), margin := absent2 (rd2 m1 m2), slewRate := absent1 v.toNat,
          settle := absent1 se.toNat, offsets := offs, phasing := absent1 tp.toNat })
    | some _, _ => .bad 7
  | .antenna, _ => .bad 7
  | .ratings, p =>
    match parsePairs p with
    | some l => if l.length = 16 then .ok (.ratings l) else .bad 13
    | none => .bad 13
  | .band, [a, b, d, e] => .ok (.band { low := rd2 a b, high := rd2 d e })
  | .band, _ => .bad 14
  | .site, [r, cl, st, sx, tol, mp] =>
    match absent1 r.toNat, absent1 cl.toNat, absent1 st.toNat with
    | some r, some cl, some st => .ok (.site
        { geometry := some { rows := r, cols := cl, station := st }, sx := sx.toNat, tolerance := tol.toNat,
          manualPriority := mp.toNat })
    | none, none, none => .ok (.site
        { geometry := none, sx := sx.toNat, tolerance := tol.toNat, manualPriority := mp.toNat })
    | _, _, _ => .bad 15
  | .site, _ => .bad 15
  | .auxiliary, [] => .ok .auxiliary
  | .auxiliary, _ => .bad 1

/-! ## The report record (section 2.11) -/

def Subject.kindCode : Subject → Nat
  | .none => 0 | .transmitter _ => 1 | .pair _ _ => 3 | .crosspoint _ _ => 4 | .entry _ _ => 5 | .bank _ _ => 7
  | .siteArea => 8 | .station _ => 9
/-- The first number of a subject; a kind that uses none sends 0, the model's choice (log entry 6). -/
def Subject.first : Subject → Nat
  | .transmitter n => n | .pair t _ => t | .crosspoint r _ => r | .entry k _ => bankCode k | .bank k _ => bankCode k
  | .station n => n
  | _ => 0
/-- The second number of a subject; a kind that uses none sends 0, the model's choice (log entry 6). -/
def Subject.second : Subject → Nat
  | .pair _ a => a | .crosspoint _ k => k | .entry _ i => i | .bank _ n => n
  | _ => 0

/-- The 20 octets of a report record. Without a reference its station and its tag are 0; the layout gives the station alone,
and the tag is the model's choice (log entry 6). -/
def reportOctets (r : Report) : List Byte :=
  timeOctets r.time ++ u8 r.kind.code ++ u8 (if r.kind.isAlarm then 1 else 2) ++ u8 r.subject.kindCode ++
  be2 r.subject.first ++ be2 r.subject.second ++ u8 r.detail ++ u8 r.qualifier ++
  (match r.figure with | some x => beSigned4 (figure32 x) | none => be4 0x80000000) ++
  u8 (match r.ref with | some f => f.station | none => 0) ++ u8 (match r.ref with | some f => f.tag | none => 0)

/-- A frame of the operations transmitter (R21, R23). -/
def opsTxFrame : OpsTx → Frame
  | .flow f dest tag =>
    { dest := dest, src := Config.ownStation, kind := .load, tag := tag,
      verb := (match f with | .pause => 4 | .resume => 5), payload := [] }
  | .answer a => { dest := a.dest, src := a.src, kind := .answer, tag := a.tag, verb := a.verb, payload := a.payload }
  | .report r =>
    { dest := 0, src := Config.ownStation, kind := .report, tag := 255, verb := 0, payload := reportOctets r }

end Sys2Proof.Machine
end

