-- ==== Sys2Proof/Machine/Flags.lean ====
section
/-! DEFINITION. What the blocks read off the records: stations and classes, bands and ratings, liveness, local and
lockout flags, the path of a row, positions of crosspoints, the conditions of the interlock (R64) and of a queued
CARRIER_ON (R54), records in use (R5), and the lamps (R193). -/

namespace Sys2Proof.Machine

/-! ## Site tables -/

def txStatic (c : Ctl) (n : Nat) : Option TxStatic := tget n c.site.work.tx
def antStatic (c : Ctl) (a : Nat) : Option AntStatic := tget a c.site.work.ant
def txDyn (c : Ctl) (n : Nat) : Option TxDyn := tget n c.gate.tx
def antDyn (c : Ctl) (a : Nat) : Option AntDyn := tget a c.aerial

/-- The transmitter whose control unit has a plant address. -/
def txOfStation (t : Tables) (addr : Nat) : Option Nat := (t.tx.find? (fun p => p.2.station == addr)).map (·.1)

/-- The antenna whose drive unit has a plant address. -/
def antOfDrive (t : Tables) (addr : Nat) : Option Nat := (t.ant.find? (fun p => p.2.drive == some addr)).map (·.1)

/-- The transmitter on a matrix row, and the antenna on a matrix column. -/
def txOfRow (t : Tables) (row : Nat) : Option Nat := (t.tx.find? (fun p => p.2.row == row)).map (·.1)
def antOfCol (t : Tables) (col : Nat) : Option Nat := (t.ant.find? (fun p => p.2.column == col)).map (·.1)

/-- The address of the matrix drive station. -/
def matrixStation (t : Tables) : Option Nat := t.site.geometry.map (·.station)

/-- The class of a plant address as held in the site tables; none where the address is not known (section 1.5). -/
def stationClass (t : Tables) (addr : Nat) : Option StationClass :=
  if (txOfStation t addr).isSome then some .transmitter
  else if (antOfDrive t addr).isSome then some .drive
  else if matrixStation t = some addr then some .matrix
  else if addr ∈ t.aux then some .auxiliary
  else none

/-- Every known plant address, ascending. -/
def knownStations (t : Tables) : List Nat := (upTo 119).filter (fun a => (stationClass t a).isSome)

/-- The index of the present band in which a frequency lies (section 1.4). -/
def bandOf (t : Tables) (f : Nat) : Option Nat := (t.bands.find? (fun p => p.2.low ≤ f && f ≤ p.2.high)).map (·.1)

/-- The rating of an antenna in a band; 0 where it has none (R1). -/
def ratingOf (t : Tables) (a band : Nat) : Nat := ((tget a t.ratings).getD []).getD (band - 1) 0

/-! ## Transmitters -/

/-- The tuned frequency the gate may rate: unknown unless the tune state is IDLE (R42). -/
def ratableFreq (d : TxDyn) : Option Nat := if d.tune = .idle then d.freq else none

/-- The band the gate may rate (R42). -/
def ratableBand (c : Ctl) (d : TxDyn) : Option Nat := (ratableFreq d).bind (bandOf c.site.work)

/-- The recorded band (R42). -/
def recordedBand (c : Ctl) (d : TxDyn) : Option Nat := d.freq.bind (bandOf c.site.work)

/-- The local flag: the panel LOCAL key or the transmitter's own report (R63). -/
def localFlag (c : Ctl) (n : Nat) (d : TxDyn) : Bool := decide (n ∈ c.panel.cond.locals) || d.reportedLocal

/-- Live: carrier ON or UNKNOWN, or carrier-on outstanding (R64). -/
def TxDyn.live (d : TxDyn) : Bool := decide (d.carrier ≠ .off) || d.outstanding

/-- A transmitter's liveness; one with no record is not live. -/
def txLive (c : Ctl) (n : Nat) : Bool :=
  match txDyn c n with
  | some d => d.live
  | none => false

/-- The transmitter of a row is recorded carrier OFF with carrier-on outstanding no; a row with no present transmitter
carries no RF (R76). -/
def rowOff (c : Ctl) (row : Nat) : Bool :=
  match txOfRow c.site.work row with
  | some n => !txLive c n
  | none => true

/-- An antenna's lockout follows its switch as conditioned (R90). -/
def lockedOut (c : Ctl) (a : Nat) : Bool := decide (a ∈ c.panel.cond.lockouts)

/-! ## Antennas -/

def antMotion (c : Ctl) (a : Nat) : Motion :=
  match antDyn c a with
  | some d => d.motion
  | none => .unknown

/-- The direction of steer index `i` (R95). -/
def steerDirection (s : AntStatic) (i : Nat) : Option Nat :=
  match s.boresight, s.offsets with
  | some bore, some l =>
    if i = 0 then none
    else match l[i - 1]? with
      | some o => some (((bore : Int) + o + 3600) % 3600).toNat
      | none => none
  | _, _ => none

/-- The recorded bearing (R92): for a STEERABLE antenna derived from the steer index, for a FIXED one the boresight. -/
def antBearing (s : AntStatic) (d : AntDyn) : Option Nat :=
  match s.kind with
  | .rotatable => d.bearing
  | .steerable => d.steer.bind (steerDirection s)
  | .fixed => s.boresight
  | .dummy => none

/-! ## Crosspoints and paths -/

/-- The key of crosspoint (row, column): half its base index (R67). -/
def xpKey (row col : Nat) : Nat := (row - 1) * 40 + (col - 1)
def xpRow (key : Nat) : Nat := key / 40 + 1
def xpCol (key : Nat) : Nat := key % 40 + 1

/-- The base index b of crosspoint (row, column): close coil and closed contact b, open coil and open contact b + 1
(R67). -/
def xpBase (row col : Nat) : Nat := 2 * xpKey row col

/-- A crosspoint at power-up (R67); a crosspoint not listed reads so. -/
def Xp.initial : Xp := { state := .unknown, closedContact := .unknown, openContact := .unknown, movement := none }

def xpAt (c : Ctl) (row col : Nat) : Xp := (tget (xpKey row col) c.matrix.xps).getD Xp.initial

def setXp (row col : Nat) (x : Xp) (c : Ctl) : Ctl :=
  c.onMatrix (fun m => { m with xps := tput Xp.initial (xpKey row col) x m.xps })

def inGeometry (t : Tables) (row col : Nat) : Bool :=
  match t.site.geometry with
  | some g => 1 ≤ row && row ≤ g.rows && 1 ≤ col && col ≤ g.cols
  | none => false

/-- The crosspoints of the present geometry, by row then column. -/
def allXps (t : Tables) : List (Nat × Nat) :=
  match t.site.geometry with
  | some g => (upTo g.rows).flatMap (fun r => (upTo g.cols).map (fun k => (r, k)))
  | none => []

/-- The other crosspoints of a crosspoint's row and column. -/
def rowColOthers (t : Tables) (row col : Nat) : List (Nat × Nat) :=
  match t.site.geometry with
  | some g => ((upTo g.cols).filter (fun k => k != col)).map (fun k => (row, k)) ++
      ((upTo g.rows).filter (fun r => r != row)).map (fun r => (r, col))
  | none => []

/-- The position the mirror shows (R67). -/
def Xp.position (x : Xp) : Position :=
  match x.closedContact, x.openContact with
  | .made, .notMade => .closed
  | .notMade, .made => .opened
  | .notMade, .notMade => .transit
  | .made, .made => .fault
  | _, _ => .unknown

/-- Some crosspoint of a row or a column is STUCK (R73). -/
def stuckInRowOrCol (c : Ctl) (row col : Nat) : Bool :=
  ((row, col) :: rowColOthers c.site.work row col).any (fun p => (xpAt c p.1 p.2).state == .stuck)

def Path.claims (p : Path) : Bool := decide (p.state ≠ .releasing)

/-- The claiming path of a transmitter's row (R78). -/
def claimPath (c : Ctl) (n : Nat) : Option Path := c.matrix.paths.find? (fun p => p.tx == n && p.claims)

/-- The row's path: the claiming path, or where there is none a RELEASING one (R78); of several RELEASING ones the first of
the path table: the model's choice (log entry 34). -/
def rowPath (c : Ctl) (n : Nat) : Option Path :=
  match claimPath c n with
  | some p => some p
  | none => c.matrix.paths.find? (fun p => p.tx == n)

def pathOf (c : Ctl) (pid : Nat) : Option Path := c.matrix.paths.find? (fun p => p.pid == pid)

/-- Paths in any state that hold an antenna's column. -/
def columnPaths (c : Ctl) (a : Nat) : List Path := c.matrix.paths.filter (fun p => p.ant == a)

def setPathRec (p : Path) (c : Ctl) : Ctl :=
  c.onMatrix (fun m => { m with paths := m.paths.map (fun q => if q.pid = p.pid then p else q) })

/-! ## The interlock and the ground of a CARRIER_ON -/

/-- No proven path supports the transmitter (R64). -/
def unsupported (c : Ctl) (n : Nat) : Bool :=
  match rowPath c n with
  | none => true
  | some p => decide (p.state ≠ .proven) || lockedOut c p.ant || decide (antMotion c p.ant = .moving) ||
      decide (antMotion c p.ant = .fault)

/-- The interlock condition (R64). -/
def interlockCondition (c : Ctl) (n : Nat) : Bool := txLive c n && unsupported c n

/-- The condition the interlock finds (R65). -/
def interlockDetail (c : Ctl) (n : Nat) : Reason :=
  match rowPath c n with
  | none => .noPath
  | some p => if lockedOut c p.ant then .lockedOut else .pathUnproven

/-- The rating condition of R54 on a path: the rating in the transmitter's band is nonzero and not below its power
setting; an unknown band and an absent power setting fail it. -/
def ratingHolds (c : Ctl) (d : TxDyn) (a : Nat) : Bool :=
  match ratableBand c d, d.power with
  | some k, some p => decide (ratingOf c.site.work a k ≠ 0) && decide (p ≤ ratingOf c.site.work a k)
  | _, _ => false

/-- The first condition of R54 found failed, in the order R55 gives. -/
def lostGround (c : Ctl) (n : Nat) (d : TxDyn) : Option Reason :=
  if c.hall.inForce then some .hallStopped
  else if localFlag c n d then some .localControl
  else match rowPath c n with
    | none => some .noPath
    | some p =>
      if p.state = .releasing then some .noPath
      else if lockedOut c p.ant then some .lockedOut
      else if p.state ≠ .proven then some .pathUnproven
      else if !ratingHolds c d p.ant then some .bandUnrated
      else none

/-! ## Records in use (R5) -/

def busyCtx (c : Ctl) (n : Nat) : Option Ctx :=
  match tget n c.cu with
  | some x => if x.busy then some x else none
  | none => none

/-- The BUSY contexts with their numbers, in order. -/
def busyCtxs (c : Ctl) : List (Nat × Ctx) := c.cu.filter (fun p => p.2.busy)

def ownedByCtx (d : TxDyn) : Bool :=
  match d.owner with
  | .ctx _ => true
  | _ => false

def txInUse (c : Ctl) (n : Nat) : Bool :=
  c.matrix.paths.any (fun p => p.tx == n) ||
  (match txDyn c n with
   | some d => ownedByCtx d
   | none => false)

def antInUse (c : Ctl) (a : Nat) : Bool :=
  c.matrix.paths.any (fun p => p.ant == a) || (busyCtxs c).any (fun p => !p.2.isEnd && p.2.tAnt == a)

/-! ## Lamps (R193) -/

/-- ON_AIR lamp n. -/
def onAirLamp (c : Ctl) (n : Nat) : Bool :=
  match txDyn c n with
  | some d => decide (d.carrier = .on)
  | none => false

/-- LIVE lamp n. -/
def liveLamp (c : Ctl) (a : Nat) : Bool :=
  (antStatic c a).isSome && (columnPaths c a).any (fun p =>
    match txDyn c p.tx with
    | some d => decide (d.carrier ≠ .off)
    | none => false)

/-- LOCKOUT lamp n: dark without an antenna record (R10). That it is dark too where the antenna never had one is the model's
choice, for the table of R193 names the switch alone (log entry 42). -/
def lockoutLamp (c : Ctl) (a : Nat) : Bool := (antStatic c a).isSome && lockedOut c a

end Sys2Proof.Machine
end

