-- ==== Sys2Proof/Machine/Link.lean ====
section
/-! DEFINITION. The Link Interface: part tags (R24), the plant port and the outstanding-order table (R29), answers to
the operations side (R21, R22), the operations transmitter (R23) and the answer states (R32). -/

namespace Sys2Proof.Machine

/-! ## Part tags (R24) -/

def ownOrigin : Origin → Bool
  | .ops _ _ => false
  | _ => true

/-- The part tags held: those of queued frames and outstanding entries of the controller's own. -/
def heldTags (k : Link) : List Nat :=
  (k.plantQueue.filter (fun q => ownOrigin q.frame.origin)).map (·.tag) ++
  (k.table.filter (fun e => ownOrigin e.origin)).map (·.tag)

/-- The next tag after the last one issued, counting 128 up to 255 and then 128 again, skipping every tag held. -/
def nextTag (k : Link) : Nat :=
  (((List.range 128).map (fun i => 128 + (k.lastTag - 128 + 1 + i) % 128)).find?
    (fun t => !decide (t ∈ heldTags k))).getD 128

/-! ## The operations side -/

/-- Reserved and held places together are fewer than 64 (R22). -/
def opsRoom (k : Link) : Bool := decide (k.reserved + k.answers.length < Config.opsPlaces)

/-- An ANSWER formed by the controller goes into the place its frame reserved (R21, R22). -/
def answerOps (dest tag verb : Nat) (payload : List Byte) (c : Ctl) : Ctl :=
  c.onLink (fun k => { k with
    reserved := k.reserved - 1
    answers := k.answers ++ [{ dest := dest, src := Config.ownStation, tag := tag, verb := verb, payload := payload }] })

/-- ANSWER DONE with a result. -/
def answerDone (dest tag verb : Nat) (result : List Byte) (c : Ctl) : Ctl :=
  answerOps dest tag verb (u8 1 ++ u8 0 ++ result) c

/-- ANSWER ACCEPTED. -/
def answerAccepted (dest tag verb : Nat) (c : Ctl) : Ctl := answerOps dest tag verb (u8 2 ++ u8 0) c

/-- ANSWER REFUSED with a reason code and its detail. -/
def answerRefused (dest tag verb code : Nat) (detail : List Byte) (c : Ctl) : Ctl :=
  answerOps dest tag verb (u8 3 ++ u8 code ++ detail) c

/-- A reserved place is released without use (R18). -/
def releasePlace (c : Ctl) : Ctl := pushOnce .opsTake (c.onLink (fun k => { k with reserved := k.reserved - 1 }))

/-- An ANSWER from the plant for a tag that is not outstanding needs a free place of its own (R22, R33). -/
def forwardStray (a : Answer) (c : Ctl) : Ctl :=
  if opsRoom c.link then c.onLink (fun k => { k with answers := k.answers ++ [a] }) else c

/-- The operations transmitter, when free and not held off, chooses a flow frame, then the oldest answer, then the
oldest report (R23). A flow frame is no longer pending once its sending has begun. -/
def opsChoose (c : Ctl) : Ctl :=
  if c.link.opsTx.isSome || c.link.opsHeldOff then c
  else match c.load.flow with
    | some f =>
      { c with link := { c.link with opsTx := some (.flow f c.load.opener.station c.load.opener.tag) },
               load := { c.load with flow := none, told := decide (f = .pause) } }
    | none =>
      match c.link.answers with
      | a :: _ => { c with link := { c.link with opsTx := some (.answer a) } }
      | [] =>
        match c.link.reports with
        | r :: rs =>
          { c with link := { c.link with opsTx := some (.report r), reports := { r with sending := true } :: rs } }
        | [] => c

/-- The operations transmitter finishes a frame: the sent answer or record leaves its queue (R22, R23). -/
def opsSent (c : Ctl) : Ctl :=
  match c.link.opsTx with
  | some (.answer _) => pushOnce .opsTake (c.onLink (fun k => { k with opsTx := none, answers := k.answers.drop 1 }))
  | some (.report _) => c.onLink (fun k => { k with opsTx := none, reports := dropFirst (·.sending) k.reports })
  | some (.flow _ _ _) => c.onLink (fun k => { k with opsTx := none })
  | none => c

/-! ## Answer states (R32) -/

/-- A frame accepted from a station restores its answer state; during SURVEY the station has been heard (R19, R197). -/
def stationHeard (addr : Nat) (c : Ctl) : Ctl :=
  { c with link := { c.link with silent := ndel addr c.link.silent },
           start := { c.start with heard := if c.start.phase = .survey then nins addr c.start.heard else c.start.heard } }

/-- A station's answer state becomes NO_ANSWER; at the change ALARM STATION_NO_ANSWER is raised. -/
def stationSilent (addr : Nat) (c : Ctl) : Ctl :=
  if addr ∈ c.link.silent then c
  else raise .stationNoAnswer (.station addr) 0 0 none none
    (c.onLink (fun k => { k with silent := nins addr k.silent }))

/-! ## The plant port (R29) -/

/-- The oldest frame of the highest non-empty class. -/
def portHead (k : Link) : Option Queued :=
  match k.plantQueue.find? (fun q => q.frame.cls == .urgent) with
  | some q => some q
  | none =>
    match k.plantQueue.find? (fun q => q.frame.cls == .internal) with
    | some q => some q
    | none => k.plantQueue.head?

/-- The outstanding-order table has an entry free for a class. -/
def tableRoom (k : Link) (cls : Cls) : Bool :=
  decide (k.table.length < Config.tableSize) &&
  (cls == .urgent || decide ((k.table.filter (fun e => e.cls != .urgent)).length < Config.tableOtherLimit))

def entryFor (q : Queued) : Entry :=
  { tag := q.tag, station := q.frame.dest, addr := originAddr q.frame.origin, origin := q.frame.origin,
    verb := q.frame.verb, cls := q.frame.cls, sent := none }

def subRunning (x : Sub) : Sub := if x.status = .pending then { x with status := .running } else x

/-- A frame of the controller's own has a producer that can still wait with it: a context only while the frame belongs
to its work in hand (R28, R170). -/
def inHand (c : Ctl) (o : Origin) : Bool :=
  match o with
  | .ctx n w => (busyCtx c n).any (fun x => decide (w = { occ := x.occ, isEnd := x.isEnd }))
  | _ => true

/-- A context changes because of a frame it made, if the frame belongs to its work in hand (R169, R170, R177). -/
def ofWork (o : Origin) (f : Ctx → Ctx) (c : Ctl) : Ctl :=
  match o with
  | .ctx n _ => if inHand c o then c.onCu (tmod n f) else c
  | _ => c

/-- The order of a target. -/
def targetVerb : Target → Option PlantVerb
  | .bearing b => some (.slew b)
  | .index i => some (.steer i)
  | .none => none

/-- The requester on whose behalf a frame was made. -/
def requesterOf : Origin → Option Requester
  | .ctx n w => some (.ctx n w)
  | .ops st tag => some (.operations { station := st, tag := tag })
  | _ => none

/-- A frame is a SLEW or STEER of an origin to a drive. -/
def positionsFor (dest : Nat) (o : Origin) (f : PFrame) : Bool :=
  f.dest == dest && f.origin == o &&
  (match f.verb with
   | .slew _ => true
   | .steer _ => true
   | _ => false)

/-- An order to a drive is the one its job was opened with: same requester, same target. -/
def ordersJob (f : PFrame) (j : Job) : Bool :=
  decide (requesterOf f.origin = some j.requester) && decide (targetVerb j.target = some f.verb)

/-- A positioning job whose order leaves the plant port is SENT (R99). While a later order of the same originator and
tag is still queued, it is that one the job was opened with (R102, log entry 34). -/
def jobLeft (f : PFrame) (c : Ctl) : Ctl :=
  match antOfDrive c.site.work f.dest with
  | none => c
  | some a => c.onAerial (tmod a (fun d =>
      match d.job with
      | some j =>
        if ordersJob f j && decide (j.stage = .offered) &&
            !c.link.plantQueue.any (fun q => positionsFor f.dest f.origin q.frame)
        then { d with job := some { j with stage := .sent } } else d
      | none => d))

/-- What the leaving of a frame starts: a movement's limit (R70), a job's stage SENT (R99), a sub-step's RUNNING (R177);
and the value of a POWER is kept for its answer (R62). -/
def noteLeft (q : Queued) (c : Ctl) : Ctl :=
  match q.frame.verb, q.frame.origin with
  | .latchSet _, .mi (.set k) =>
    c.onMatrix (fun m => { m with slots := tmod k (fun v => { v with started := some c.clock }) m.slots })
  | .tune _, o => ofWork o (fun x => { x with retune := subRunning x.retune }) c
  | .slew _, o => jobLeft q.frame (ofWork o (fun x => { x with position := subRunning x.position }) c)
  | .steer _, o => jobLeft q.frame (ofWork o (fun x => { x with position := subRunning x.position }) c)
  | .power p, o =>
    c.onGate (fun g => { g with
      powerSent := { station := q.frame.dest, addr := originAddr o, tag := q.tag, value := p } ::
        g.powerSent.filter (fun r => !(r.station == q.frame.dest && r.addr == originAddr o && r.tag == q.tag)) })
  | _, _ => c

/-- The plant port, if idle, chooses its next frame and sends it if an entry is free for its class. -/
def portChoose (c : Ctl) : Ctl :=
  if c.link.plantTx.isSome then c
  else match portHead c.link with
    | none => c
    | some q =>
      if tableRoom c.link q.frame.cls then
        pushOnce .slot (noteLeft q (c.onLink (fun k => { k with
          plantQueue := dropFirst (fun x => decide (x = q)) k.plantQueue
          table := k.table ++ [entryFor q]
          plantTx := some q })))
      else c

/-- The plant transmitter finishes a frame: its entry's answer timer starts (R29). -/
def plantSent (c : Ctl) : Ctl :=
  match c.link.plantTx with
  | none => c
  | some _ => portChoose (c.onLink (fun k => { k with
      plantTx := none
      table := mapFirst (fun e => e.sent.isNone) (fun e => { e with sent := some c.clock }) k.table }))

/-- An entry of the table ends. The port chooses anew when what the end reports has been dealt with (R54). -/
def endEntry (e : Entry) (c : Ctl) : Ctl :=
  c.onLink (fun k => { k with table := dropFirst (fun x => decide (x = e)) k.table })

/-- The exchange an ANSWER belongs to, by station, originator address and tag; of several the one sent first (R30). -/
def exchangeOf (k : Link) (station addr tag : Nat) : Option Entry :=
  k.table.find? (fun e => e.tag == tag && e.station == station && e.addr == addr)

/-- Some frame for a station that `p` holds of is in the plant queue or waits for a slot. -/
def queuedOrWaiting (k : Link) (p : PFrame → Bool) : Bool :=
  k.plantQueue.any (fun q => p q.frame) || k.urgentWaiters.any p || k.internalWaiters.any p

/-- The frame of an entry. -/
def entryFrame (e : Entry) : PFrame := { dest := e.station, verb := e.verb, cls := e.cls, origin := e.origin }

/-- Some frame that `p` holds of is in the plant queue, waits for a slot or is outstanding. -/
def framePending (k : Link) (p : PFrame → Bool) : Bool :=
  queuedOrWaiting k p || k.table.any (fun e => p (entryFrame e))

/-- A CARRIER_ON for a station is in the plant queue or outstanding (R61). -/
def carrierOnUnderWay (k : Link) (station : Nat) : Bool :=
  k.plantQueue.any (fun q => q.frame.dest == station && q.frame.verb == .carrierOn) ||
  k.table.any (fun e => e.station == station && e.verb == .carrierOn)

end Sys2Proof.Machine
end

