-- ==== Sys2Proof/Machine/Gate.lean ====
section
/-! DEFINITION. The Traffic Gate: verdicts (R43 to R53, R56, R57), admission to the plant queue with its effects
(R24 to R28, R55), the hold queue (R58 to R60), the interlock (R64 to R66), withdrawals (R54), the fitting of queued
POWER frames (R51) and the carrier watch (R194). -/

namespace Sys2Proof.Machine

/-! ## Refusals (R43) -/

/-- A refused frame is answered to its operations station, or returned to its producer as a failure. -/
def refuseFrame (f : PFrame) (code : Nat) (detail : List Byte) (c : Ctl) : Ctl :=
  match f.origin with
  | .ops station tag => answerRefused station tag f.verb.code code detail c
  | _ => push [.refused f code] c

/-- The detail of a refusal by the gate: for BAD_RECORD the check number 0 (R44). -/
def gateDetail (r : Reason) : List Byte := if r = .badRecord then u8 0 else []

def refuseBy (f : PFrame) (r : Reason) (c : Ctl) : Ctl := refuseFrame f r.code (gateDetail r) c

/-! ## Verdicts -/

/-- The gate's verdict on a frame. PASS carries the verb, rewritten or not, and for a rewriting the notice's antenna
and value. -/
inductive Verdict where
  | pass (v : PlantVerb) (clamped : Option (Nat × Nat))
  | hold (w : HoldWait)
  | refuse (r : Reason)
  deriving DecidableEq, Repr

/-- The QUERY frames of the controller's own origin only fill records, and pass every check (R46, R57). -/
def fillsRecords (o : Origin) (v : PlantVerb) : Bool := decide (v = .query) && ownOrigin o

/-- The transmitter is owned by a context other than the frame's origin (R47). The gate's clamping POWER is checked by
R51 alone (R57). -/
def ownedByOther (d : TxDyn) (o : Origin) : Bool :=
  match d.owner, o with
  | .ctx _, .gate .clamp => false
  | .ctx n, .ctx m _ => decide (n ≠ m)
  | .ctx _, _ => true
  | _, _ => false

/-- The lesser of the transmitter's maximum and the path antenna's rating in the tuned band (R49). -/
def clampValue (c : Ctl) (st : TxStatic) (d : TxDyn) (a : Nat) : Nat :=
  match ratableBand c d with
  | some k => min st.maxPower (ratingOf c.site.work a k)
  | none => st.maxPower

/-- The CARRIER_ON check (R48). -/
def carrierOnVerdict (c : Ctl) (n : Nat) (st : TxStatic) (d : TxDyn) : Verdict :=
  if c.hall.inForce then .refuse .hallStopped
  else match rowPath c n with
    | none => .refuse .noPath
    | some p =>
      if p.state = .releasing then .refuse .noPath
      else if lockedOut c p.ant then .refuse .lockedOut
      else if p.state = .setting then .hold .path
      else if p.state = .unproven then .refuse .pathUnproven
      else match ratableBand c d with
        | none => .refuse .bandUnrated
        | some k =>
          if ratingOf c.site.work p.ant k = 0 then .refuse .bandUnrated
          else match d.power with
            | none => .hold .power
            | some kW => if clampValue c st d p.ant < kW then .hold .power else .pass .carrierOn none

/-- The POWER rule (R51). -/
def powerVerdict (c : Ctl) (n : Nat) (st : TxStatic) (d : TxDyn) (p : Nat) : Verdict :=
  if p < 1 ∨ 999 < p then .refuse .badRecord
  else
    let byMax := min p st.maxPower
    match rowPath c n, ratableBand c d with
    | some path, some k =>
      if path.state = .proven then
        if ratingOf c.site.work path.ant k = 0 then .refuse .bandUnrated
        else
          let q := min byMax (ratingOf c.site.work path.ant k)
          if q < p then .pass (.power q) (some (if q < byMax then path.ant else 0, q)) else .pass (.power p) none
      else if byMax < p then .pass (.power byMax) (some (0, byMax)) else .pass (.power p) none
    | _, _ => if byMax < p then .pass (.power byMax) (some (0, byMax)) else .pass (.power p) none

/-- The TUNE rule (R50). -/
def tuneVerdict (c : Ctl) (d : TxDyn) (f : Nat) : Verdict :=
  if d.live then .refuse .carrierOn
  else if f < 2300 ∨ 26100 < f ∨ (bandOf c.site.work f).isNone then .refuse .outOfBand
  else .pass (.tune f) none

/-- The rule of a transmitter verb (R48 to R52). -/
def transmitterVerbVerdict (c : Ctl) (n : Nat) (st : TxStatic) (d : TxDyn) (v : PlantVerb) : Verdict :=
  match v with
  | .tune f => tuneVerdict c d f
  | .power p => powerVerdict c n st d p
  | .carrierOn => carrierOnVerdict c n st d
  | .carrierOff => .pass .carrierOff none
  | .feed k => if 1 ≤ k ∧ k ≤ 32 then .pass (.feed k) none else .refuse .badRecord
  | .query => .pass .query none
  | _ => .refuse .badRecord

/-- The checks of a frame to a transmitter, in order (R44 to R52). -/
def transmitterVerdict (c : Ctl) (n : Nat) (st : TxStatic) (d : TxDyn) (f : PFrame) : Verdict :=
  if fillsRecords f.origin f.verb then .pass f.verb none
  else if c.start.phase ≠ .running ∧ f.verb.code ≠ 4 then .refuse .survey
  else if localFlag c n d ∧ f.verb.code ≠ 4 then .refuse .localControl
  else if ownedByOther d f.origin ∧ f.verb.code ≤ 3 then .refuse .owned
  else transmitterVerbVerdict c n st d f.verb

/-- The travel coordinate of a bearing (R94). -/
def travel (s b : Nat) : Nat := (b + 3600 - s) % 3600

/-- A bearing is reachable when it lies outside the stop arc (R94). -/
def reachable (a : AntStatic) (b : Nat) : Bool :=
  match a.stopBearing, a.margin with
  | some s, some m => decide (m ≤ travel s b) && decide (travel s b ≤ 3600 - m)
  | _, _ => false

/-- A path holds the column and its transmitter is live (R53). -/
def columnLive (c : Ctl) (a : Nat) : Bool := (columnPaths c a).any (fun p => txLive c p.tx)

/-- A path holds the column and is owned by a context other than the frame's origin (R53). -/
def columnOwned (c : Ctl) (a : Nat) (o : Origin) : Bool :=
  (columnPaths c a).any (fun p =>
    match p.owner, o with
    | .ctx n, .ctx m _ => decide (n ≠ m)
    | .ctx _, _ => true
    | _, _ => false)

/-- The last test of a SLEW or STEER (R53). -/
def targetVerdict (a : AntStatic) (v : PlantVerb) : Verdict :=
  match v with
  | .slew b => if a.kind = .rotatable ∧ b < 3600 ∧ reachable a b then .pass v none else .refuse .outOfTravel
  | .steer i =>
    if a.kind = .steerable ∧ 1 ≤ i ∧ i ≤ (a.offsets.getD []).length then .pass v none else .refuse .outOfTravel
  | _ => .refuse .badRecord

/-- The checks of a frame to an antenna drive (R45, R53). -/
def driveVerdict (c : Ctl) (n : Nat) (a : AntStatic) (f : PFrame) : Verdict :=
  if fillsRecords f.origin f.verb then .pass f.verb none
  else if c.start.phase ≠ .running ∧ f.verb.code ≠ 9 then .refuse .survey
  else match f.verb with
    | .stop => .pass .stop none
    | .query => .pass .query none
    | .malformed _ => .refuse .badRecord
    | v =>
      if columnLive c n then .refuse .antennaLive
      else if columnOwned c n f.origin then .refuse .owned
      else targetVerdict a v

/-- A bit is a coil bit of a crosspoint within the present geometry (R67). -/
def coilBitInGeometry (t : Tables) (bit : Nat) : Bool := inGeometry t (xpRow (bit / 2)) (xpCol (bit / 2))

/-- The checks of a frame to the matrix station (R56). -/
def matrixVerdict (c : Ctl) (f : PFrame) : Verdict :=
  match f.origin with
  | .ops _ _ => .refuse .matrixReserved
  | _ =>
    match f.verb with
    | .latchSet b =>
      if !coilBitInGeometry c.site.work b then .refuse .badRecord
      else if !rowOff c (xpRow (b / 2)) then .refuse .carrierOn
      else .pass f.verb none
    | .latchClear b => if b ≤ 3839 then .pass f.verb none else .refuse .badRecord
    | .latchRead s n => if s ≤ 3839 ∧ 1 ≤ n ∧ n ≤ 16 then .pass f.verb none else .refuse .badRecord
    | _ => .refuse .badRecord

/-- The verdict on a frame, by the class of its destination (R44). -/
def gateVerdict (f : PFrame) (c : Ctl) : Verdict :=
  match stationClass c.site.work f.dest with
  | none => .refuse .unknownStation
  | some .auxiliary => .pass f.verb none
  | some .matrix => matrixVerdict c f
  | some .drive =>
    match antOfDrive c.site.work f.dest with
    | none => .refuse .unknownStation
    | some a =>
      match antStatic c a with
      | some s => driveVerdict c a s f
      | none => .refuse .unknownStation
  | some .transmitter =>
    match txOfStation c.site.work f.dest with
    | none => .refuse .unknownStation
    | some n =>
      match txStatic c n, txDyn c n with
      | some st, some d => transmitterVerdict c n st d f
      | _, _ => .refuse .unknownStation

/-! ## Record fields set in advance and their restoring (R27, R48, R50, R55, R62) -/

def modTx (n : Nat) (f : TxDyn → TxDyn) (c : Ctl) : Ctl := c.onGate (fun g => { g with tx := tmod n f g.tx })

/-- The band in which a transmitter's POWER is rated, if it is known (R42). -/
def bandKnown (c : Ctl) (n : Nat) : Option Nat := (txDyn c n).bind (ratableBand c)

/-- Where a transmitter's band is another than before its record was set, its queued POWER frames are to be fitted: a band
that has become known, or has changed (R51). A record that leaves the band as it was fits none. -/
def bandNews (n : Nat) (before c : Ctl) : List Signal := if bandKnown c n = bandKnown before n then [] else [.fitPower n]

def setTuning (addr tag : Nat) (d : TxDyn) : TxDyn :=
  { d with tune := .tuning, tuneRestore := some { value := d.tune, addr := addr, tag := tag } }

def setOutstanding (addr tag : Nat) (d : TxDyn) : TxDyn :=
  { d with outstanding := true, outRestore := some { value := d.outstanding, addr := addr, tag := tag } }

/-- The carrier is recorded OFF with nothing outstanding: the interlock state returns to CLEAR (R65). -/
def settleInterlock (d : TxDyn) : TxDyn := if d.live then d else { d with interlockSent := false }

/-- Tune state is restored, unless changed since the frame set it. -/
def restoreTune (addr tag : Nat) (d : TxDyn) : TxDyn :=
  match d.tuneRestore with
  | some r => if r.addr = addr ∧ r.tag = tag then { d with tune := r.value, tuneRestore := none } else d
  | none => d

/-- Carrier-on outstanding is restored, unless changed since the frame set it. -/
def restoreOutstanding (addr tag : Nat) (d : TxDyn) : TxDyn :=
  match d.outRestore with
  | some r => if r.addr = addr ∧ r.tag = tag then { d with outstanding := r.value, outRestore := none } else d
  | none => d

/-- What follows a change of a transmitter's carrier or carrier-on outstanding: the arbiter's re-checks read them (R77). -/
def carrierChanged (c : Ctl) : Ctl := pushOnce .arbiter c

/-- A context's TUNE or CARRIER_ON that leaves the queue unsent no longer counts as admitted (R178, R182). -/
def unadmitted (f : PFrame) (c : Ctl) : Ctl :=
  match f.verb with
  | .tune _ => ofWork f.origin (fun x => { x with tuned := false }) c
  | .carrierOn => ofWork f.origin (fun x => { x with raised := false }) c
  | _ => c

/-- A path whose proof is IN_PROGRESS with one tag, or none, of its READ has it with another (R78). -/
def Path.retag (old new : Option Nat) (p : Path) : Path :=
  if p.proof = .inProgress old then { p with proof := .inProgress new } else p

/-- The tag of the READ of a path's proof: that of its frame in the queue or outstanding, and none while it has none (R78).
A proof whose READ has another tag than `old` keeps it: the frame is the READ of a proof that was abandoned (R82). -/
def setProofTag (pid : Nat) (old new : Option Nat) (c : Ctl) : Ctl :=
  c.onMatrix (fun m => { m with paths := m.paths.map (fun p => if p.pid = pid then p.retag old new else p) })

/-- A frame that leaves the queue unsent releases its tag (R27): the READ of a proof then has none. -/
def releaseTag (q : Queued) (c : Ctl) : Ctl :=
  match q.frame.verb, q.frame.origin with
  | .latchRead _ _, .mi (.proof pid) => setProofTag pid (some q.tag) none c
  | _, _ => c

/-- Undo what the gate set when it passed a frame that now leaves the plant queue unsent. Where the band so becomes known,
queued POWER frames are fitted (R51); where the record comes to carrier OFF with nothing outstanding, an OPERATIONS hold
ends (R199) and MUTING completes (R173). -/
def undoAdmission (q : Queued) (c : Ctl) : Ctl :=
  let c := releaseTag q c
  match txOfStation c.site.work q.frame.dest with
  | none => c
  | some n =>
    match q.frame.verb with
    | .tune _ =>
      let c' := modTx n (restoreTune (originAddr q.frame.origin) q.tag) (unadmitted q.frame c)
      push (bandNews n c c') c'
    | .carrierOn =>
      push [.holdEnd n, .ctxRecord n false] (carrierChanged (modTx n
        (restoreOutstanding (originAddr q.frame.origin) q.tag) (unadmitted q.frame c)))
    | _ => c

/-- The frames that `p` holds of leave the plant queue unsent, their slots free, and each is dealt with. -/
def removeQueued (p : Queued → Bool) (f : Queued → Ctl → Ctl) (c : Ctl) : Ctl :=
  let gone := c.link.plantQueue.filter p
  if gone.isEmpty then c
  else forEach gone f (pushOnce .slot (c.onLink (fun k => { k with plantQueue := k.plantQueue.filter (fun q => !p q) })))

/-! ## Effects of admission (R43) -/

/-- An URGENT CARRIER_OFF displaces every CARRIER_ON for the same transmitter from the queue (R55, R176). Where none of
R54's conditions has failed, the reason is not stated: it is a free value (log entry 20). -/
def displaceCarrierOns (dest : Nat) (c : Ctl) : Ctl :=
  match txOfStation c.site.work dest with
  | none => c
  | some n =>
    match txDyn c n with
    | none => c
    | some d =>
      let code := match lostGround c n d with
        | some r => r.code
        | none => freeBelow 256 c.free
      let c' := if (lostGround c n d).isSome then c else drawFree 1 c
      removeQueued (fun q => q.frame.dest == dest && q.frame.verb == .carrierOn)
        (fun q c => refuseFrame q.frame code [] (undoAdmission q c)) c'

/-- A SLEW or STEER of operations origin is admitted: the Antenna Unit opens an OPERATIONS job, ending a context's job
(R102). -/
def opsJob (station tag dest : Nat) (target : Target) (c : Ctl) : Ctl :=
  match antOfDrive c.site.work dest with
  | none => c
  | some a =>
    match antDyn c a with
    | none => c
    | some d =>
      let c := c.onAerial (tset a { d with
        job := some { requester := .operations { station := station, tag := tag }, target := target,
                      stage := .offered, moved := false } })
      match d.job with
      | some { requester := .ctx n w, .. } => push [.jobEnded n w false 0] c
      | _ => c

/-- A STOP of operations origin is admitted: an open OPERATIONS job is superseded (R102). -/
def opsStopJob (dest : Nat) (c : Ctl) : Ctl :=
  match antOfDrive c.site.work dest with
  | none => c
  | some a => c.onAerial (tmod a (fun d =>
      match d.job with
      | some { requester := .operations _, .. } => { d with job := none }
      | _ => d))

/-- An operations order leaves the plant queue unsent: the OPERATIONS job it opened ends (R99, R102). -/
def opsJobLost (f : PFrame) (c : Ctl) : Ctl :=
  match f.origin, antOfDrive c.site.work f.dest with
  | .ops _ _, some a => c.onAerial (tmod a (fun d =>
      match d.job with
      | some j => if ordersJob f j && decide (j.stage = .offered) then { d with job := none } else d
      | none => d))
  | _, _ => c

/-- The abort of a context that owns a transmitter (R188). -/
def abortOwner (n : Nat) (reason : Failure) (c : Ctl) : Ctl :=
  match txDyn c n with
  | some { owner := .ctx k, .. } =>
    match busyCtx c k with
    | some x => push [.abort k { occ := x.occ, isEnd := x.isEnd } reason] c
    | none => c
  | _ => c

/-- The effects the gate attaches to the passing of a frame, made when it is admitted. A TUNE makes the band unknown, and so
takes the ground of a CARRIER_ON still queued (R54). A CARRIER_ON admitted while the carrier is already recorded ON completes
no phase here: RAISING looks at the record at the next event that sets it or reads it, the model's choice (R182, log entry
40). -/
def onAdmission (q : Queued) (c : Ctl) : Ctl :=
  let addr := originAddr q.frame.origin
  let tx := txOfStation c.site.work q.frame.dest
  match q.frame.verb, q.frame.origin, tx with
  | .tune _, o, some n =>
    push [.withdraw n] (ofWork o (fun x => { x with tuned := true }) (modTx n (setTuning addr q.tag) c))
  | .carrierOn, o, some n =>
    carrierChanged (ofWork o (fun x => { x with raised := true }) (modTx n (setOutstanding addr q.tag) c))
  | .carrierOff, .ops _ _, some n => abortOwner n .operatorOff c
  | .carrierOff, _, some _ => if q.frame.cls = .urgent then displaceCarrierOns q.frame.dest c else c
  | .slew b, .ops st tag, _ => opsJob st tag q.frame.dest (.bearing b) c
  | .steer i, .ops st tag, _ => opsJob st tag q.frame.dest (.index i) c
  | .stop, .ops _ _, _ => opsStopJob q.frame.dest c
  | .latchRead _ _, .mi (.proof pid), _ => setProofTag pid none (some q.tag) c
  | _, _, _ => c

/-! ## Admission (R26, R27, R28) -/

/-- The POWER_CLAMPED notice of a rewritten POWER (R51). -/
def clampNotice (dest : Nat) (clamped : Option (Nat × Nat)) (c : Ctl) : Ctl :=
  match clamped, txOfStation c.site.work dest with
  | some (a, kW), some n => raise .powerClamped (.pair n a) 0 0 (some kW) none c
  | _, _ => c

/-- The tag a frame enters the queue with: its own, or the next part tag (R24). -/
def tagFor (f : PFrame) (k : Link) : Nat :=
  match f.origin with
  | .ops _ tag => tag
  | _ => nextTag k

/-- A frame enters the plant queue, with the effects of its admission. NOTICE POWER_CLAMPED of a POWER passed rewritten is
raised here, and not for one that is then refused PLANT_BUSY: R43 makes the effects of a frame's passing at its admission and
does not name the notice among them. That it is one of them is the model's choice (log entry 15). -/
def enqueue (f : PFrame) (clamped : Option (Nat × Nat)) (c : Ctl) : Ctl :=
  let q : Queued := { tag := tagFor f c.link, frame := f }
  portChoose (clampNotice f.dest clamped (onAdmission q (c.onLink (fun k => { k with
    plantQueue := k.plantQueue ++ [q]
    lastTag := if ownOrigin f.origin then q.tag else k.lastTag }))))

/-- The plant queue has a slot that no producer waits for. -/
def slotForInternal (k : Link) : Bool :=
  decide (k.plantQueue.length < Config.plantQueueSize) && k.urgentWaiters.isEmpty && k.internalWaiters.isEmpty

/-- Room for a PASSED frame (R26). -/
def roomForPassed (k : Link) : Bool :=
  slotForInternal k &&
  decide ((k.plantQueue.filter (fun q => q.frame.cls == .passed)).length < Config.passedLimit)

/-- A queued frame has a producer that waits with it once more when it is returned: not the READ of a proof that has been
abandoned or has ended otherwise, which does nothing more (R28, R82), and not a frame of a context's work that is over (R170;
log entry 30). -/
def waitsAgain (c : Ctl) (q : Queued) : Bool :=
  match q.frame.origin with
  | .mi (.proof pid) => (pathOf c pid).any (fun p => decide (p.proof = .inProgress (some q.tag)))
  | o => inHand c o

/-- A full queue makes room for an URGENT frame: the newest PASSED frame is displaced and refused PLANT_BUSY, or the
newest INTERNAL frame returns to the head of the INTERNAL waiters, unless its producer no longer waits with it (R27, R28). -/
def makeRoom (c : Ctl) : Option Ctl :=
  match takeLast (fun q => q.frame.cls == .passed) c.link.plantQueue with
  | some (q, rest) =>
    some (refuseBy q.frame .plantBusy (opsJobLost q.frame (undoAdmission q
      (c.onLink (fun k => { k with plantQueue := rest })))))
  | none =>
    match takeLast (fun q => q.frame.cls == .internal) c.link.plantQueue with
    | some (q, rest) => some (undoAdmission q (c.onLink (fun k => { k with
        plantQueue := rest
        internalWaiters := if waitsAgain c q then q.frame :: k.internalWaiters else k.internalWaiters })))
    | none => none

/-- A frame the gate has passed is offered to the plant queue in its class. -/
def place (f : PFrame) (clamped : Option (Nat × Nat)) (c : Ctl) : Ctl :=
  match f.cls with
  | .passed => if roomForPassed c.link then enqueue f clamped c else refuseBy f .plantBusy c
  | .internal => enqueue f clamped c
  | .urgent => enqueue f clamped c

/-- A clamping POWER of the gate for a station is in the plant queue, waits for a slot or is outstanding (R49). -/
def clampPending (k : Link) (station : Nat) : Bool :=
  framePending k (fun f => f.dest == station && f.origin == .gate .clamp)

/-- The gate's own clamping POWER, offered in the INTERNAL class: checked by R51, it passes unchanged (R49, R57). -/
def offerClamp (station value : Nat) (c : Ctl) : Ctl :=
  let f : PFrame := { dest := station, verb := .power value, cls := .internal, origin := .gate .clamp }
  if slotForInternal c.link then
    match gateVerdict f c with
    | .pass v _ => enqueue { f with verb := v } none c
    | .hold _ => c
    | .refuse r => refuseBy f r c
  else c.onLink (fun k => { k with internalWaiters := k.internalWaiters ++ [f] })

/-- The clamping POWER a held CARRIER_ON waits on is offered, unless one is already under way; POWER_CLAMPED is raised
when the recorded power setting was present and above the clamp value (R49), with antenna 0 where the maximum power
alone sets that value (R36). -/
def requireClamp (f : PFrame) (c : Ctl) : Ctl :=
  match txOfStation c.site.work f.dest with
  | none => c
  | some n =>
    match txStatic c n, txDyn c n, rowPath c n with
    | some st, some d, some p =>
      if clampPending c.link f.dest then c
      else
        let v := clampValue c st d p.ant
        let c := match d.power with
          | some kW =>
            if v < kW then raise .powerClamped (.pair n (if v < st.maxPower then p.ant else 0)) 0 0 (some v) none c
            else c
          | none => c
        offerClamp f.dest v c
    | _, _, _ => c

/-- A CARRIER_ON is held, or refused HOLD_FULL (R49, R58). -/
def holdFrame (f : PFrame) (w : HoldWait) (c : Ctl) : Ctl :=
  if c.gate.held.length < Config.holdQueueSize then
    let c := c.onGate (fun g => { g with held := g.held ++ [{ frame := f, waits := w, since := c.clock }] })
    if w = .power then requireClamp f c else c
  else refuseBy f .holdFull c

/-- The gate takes a frame for which there is room, or one whose class makes its own room, and carries out its
verdict. -/
def takeFrame (f : PFrame) (c : Ctl) : Ctl :=
  match gateVerdict f c with
  | .pass v clamped => place { f with verb := v } clamped c
  | .hold w => holdFrame f w c
  | .refuse r => refuseBy f r c

/-- A freed slot is given to the first waiter, whose frame is then checked (R28). -/
def giveSlot (c : Ctl) : Ctl :=
  if c.link.plantQueue.length < Config.plantQueueSize then
    match c.link.urgentWaiters with
    | f :: rest => pushOnce .slot (takeFrame f (c.onLink (fun k => { k with urgentWaiters := rest })))
    | [] =>
      match c.link.internalWaiters with
      | f :: rest => pushOnce .slot (takeFrame f (c.onLink (fun k => { k with internalWaiters := rest })))
      | [] => c
  else c

/-- Freed slots are given, one after another, to the first `n` waiters. -/
def giveSlots : Nat → Ctl → Ctl
  | 0, c => c
  | n + 1, c => giveSlots n (giveSlot c)

/-- The slots that this step has freed are given to their waiters at once, before another frame may take one (R28). -/
def fillSlots (c : Ctl) : Ctl :=
  if Signal.slot ∈ c.agenda then giveSlots (c.link.urgentWaiters.length + c.link.internalWaiters.length) c else c

/-- A frame the gate may check takes its place. An INTERNAL frame that finds no slot waits unchecked; an URGENT frame has
room made for it, or waits with the gate (R27, R28). -/
def offerNow (f : PFrame) (c : Ctl) : Ctl :=
  match f.cls with
  | .passed => takeFrame f c
  | .internal =>
    if slotForInternal c.link then takeFrame f c
    else c.onLink (fun k => { k with internalWaiters := k.internalWaiters ++ [f] })
  | .urgent =>
    if c.link.plantQueue.length < Config.plantQueueSize ∧ c.link.urgentWaiters.isEmpty then takeFrame f c
    else match makeRoom c with
      | some c => takeFrame f c
      | none => c.onLink (fun k => { k with urgentWaiters := k.urgentWaiters ++ [f] })

/-- A frame is offered to the gate, after the waiters for slots already freed (R28). -/
def offer (f : PFrame) (c : Ctl) : Ctl := offerNow f (fillSlots c)

/-- A CARRIER_OFF to a transmitter on behalf of an origin. -/
def offerCarrierOff (n : Nat) (cls : Cls) (o : Origin) (c : Ctl) : Ctl :=
  match txStatic c n with
  | some st => offer { dest := st.station, verb := .carrierOff, cls := cls, origin := o } c
  | none => c

/-! ## The hold queue (R58 to R60) -/

def dropHeld (h : Held) (c : Ctl) : Ctl :=
  c.onGate (fun g => { g with held := dropFirst (fun x => decide (x = h)) g.held })

/-- A frame released from the hold queue is offered anew in its class (R60). -/
def releaseHeld (h : Held) (v : PlantVerb) (clamped : Option (Nat × Nat)) (c : Ctl) : Ctl :=
  let f := { h.frame with verb := v }
  if f.cls ≠ .passed ∧ !slotForInternal c.link then
    (dropHeld h c).onLink (fun k => { k with internalWaiters := k.internalWaiters ++ [h.frame] })
  else place f clamped (dropHeld h c)

/-- A held frame is checked again from the top (R59). -/
def recheckNow (h : Held) (c : Ctl) : Ctl :=
  if h ∈ c.gate.held then
    match gateVerdict h.frame c with
    | .pass v clamped => releaseHeld h v clamped c
    | .hold w =>
      let c := c.onGate (fun g =>
        { g with held := mapFirst (fun x => decide (x = h)) (fun x => { x with waits := w }) g.held })
      if w = .power then requireClamp h.frame c else c
    | .refuse r => refuseBy h.frame r (dropHeld h c)
  else c

/-- A held frame is checked again, after the waiters for slots already freed have them (R28, R59). -/
def recheckHeld (h : Held) (c : Ctl) : Ctl := recheckNow h (fillSlots c)

/-- The held frames that `p` holds of are checked again, in hold-queue order. -/
def recheckWhere (p : Held → Bool) (c : Ctl) : Ctl := forEach (c.gate.held.filter p) recheckHeld c

/-- A held frame is for transmitter `n`. -/
def heldFor (c : Ctl) (n : Nat) (h : Held) : Bool :=
  match txStatic c n with
  | some st => h.frame.dest == st.station
  | none => false

/-- A hold ends without a check (R59). -/
def refuseHeld (p : Held → Bool) (code : Nat) (detail : List Byte) (c : Ctl) : Ctl :=
  forEach (c.gate.held.filter p) (fun h c => refuseFrame h.frame code detail c)
    (c.onGate (fun g => { g with held := g.held.filter (fun h => !p h) }))

/-- The path waited on is removed, or becomes UNPROVEN or RELEASING, without having been PROVEN (R59). -/
def failPathHolds (n : Nat) (c : Ctl) : Ctl :=
  refuseHeld (fun h => heldFor c n h && h.waits == .path) Reason.noPath.code [] c

/-! ## Owner and running occurrence -/

/-- A transmitter's owner field changes: the frames held for it are checked again at once (R59, R171), and where it becomes
NONE a returned START is offered again (R164). -/
def setOwner (n : Nat) (o : TxOwner) (c : Ctl) : Ctl :=
  let c := modTx n (fun d => { d with owner := o }) c
  let c := recheckWhere (heldFor c n) c
  if o = .none then push [.offerReturned n] c else c

/-- A transmitter's running occurrence is cleared; a returned START is offered again (R164). -/
def clearRunning (n : Nat) (c : Ctl) : Ctl :=
  push [.offerReturned n] (modTx n (fun d => { d with running := none }) c)

/-- A running occurrence ends for its day: it is cleared and the Plan Unit is told (R66, R194). -/
def failRunning (n : Nat) (c : Ctl) : Ctl :=
  match txDyn c n with
  | some { running := some r, .. } => push [.occFailed r.occ] (clearRunning n c)
  | _ => c

/-! ## The interlock (R64 to R66) -/

/-- The gate evaluates its interlock for a transmitter. -/
def interlockNow (n : Nat) (c : Ctl) : Ctl :=
  match txDyn c n with
  | none => c
  | some d =>
    if interlockCondition c n ∧ !d.interlockSent then
      let detail := interlockDetail c n
      let c := abortOwner n .interlock c
      let c := offerCarrierOff n .urgent (.gate .interlock) c
      let c := raise .interlockOff (.transmitter n) detail.code 0 none none c
      failRunning n (modTx n (fun d => { d with interlockSent := true }) c)
    else c

/-- The evaluation outside start-up (R64). -/
def interlock (n : Nat) (c : Ctl) : Ctl := if c.start.phase = .running then interlockNow n c else c

/-- The interlock's CARRIER_OFF exchange ended without DONE (R65). -/
def interlockAgain (n : Nat) (c : Ctl) : Ctl :=
  if interlockCondition c n then offerCarrierOff n .urgent (.gate .interlock) c
  else modTx n (fun d => { d with interlockSent := false }) c

/-- A transmitter's path has lost its proof, or is released or removed: the interlock is invoked (R64), and a CARRIER_ON
still queued behind it is withdrawn (R54). -/
def invokeInterlock (n : Nat) (c : Ctl) : Ctl := push [.interlock n, .withdraw n] c

/-! ## Withdrawal, fitting of POWER frames, carrier watch -/

/-- A CARRIER_ON for a station is in the plant queue. -/
def carrierOnQueued (k : Link) (station : Nat) : Bool :=
  k.plantQueue.any (fun q => q.frame.dest == station && q.frame.verb == .carrierOn)

/-- A queued CARRIER_ON has lost its ground, and neither the interlock nor the hall stop has displaced it: a withdrawal
CARRIER_OFF is offered, once for each failure (R54, R55). It serves also where the interlock finds nothing to do, because
a report has cleared carrier-on outstanding or an earlier CARRIER_OFF of its own is under way (log entry 36). -/
def withdraw (n : Nat) (c : Ctl) : Ctl :=
  match txStatic c n, txDyn c n with
  | some st, some d =>
    if carrierOnQueued c.link st.station ∧ (lostGround c n d).isSome ∧
        !framePending c.link (fun f => f.dest == st.station && f.origin == .gate .withdrawal) then
      offerCarrierOff n .urgent (.gate .withdrawal) c
    else c
  | _, _ => c

/-- A queued POWER frame for a station above a value. -/
def powerAbove (station limit : Nat) (q : Queued) : Bool :=
  q.frame.dest == station &&
  (match q.frame.verb with
   | .power p => decide (limit < p)
   | _ => false)

/-- Queued POWER frames above a value are rewritten in place to it, keeping class, place, tag and origin (R7, R51). -/
def rewritePowers (station limit : Nat) (c : Ctl) : Ctl :=
  c.onLink (fun k => { k with plantQueue := k.plantQueue.map (fun q =>
    if powerAbove station limit q then { q with frame := { q.frame with verb := .power limit } } else q) })

/-- Every POWER for the transmitter in the plant queue is brought within the proven path antenna's rating in the band;
where the rating is 0 it is displaced and refused BAND_UNRATED (R51). -/
def fitPower (n : Nat) (c : Ctl) : Ctl :=
  match txStatic c n, txDyn c n, claimPath c n with
  | some st, some d, some p =>
    if p.state = .proven then
      match ratableBand c d with
      | none => c
      | some k =>
        let r := ratingOf c.site.work p.ant k
        if r = 0 then
          removeQueued (powerAbove st.station r) (fun q c => refuseBy q.frame .bandUnrated c) c
        else forEach (c.link.plantQueue.filter (powerAbove st.station r))
          (fun _ c => raise .powerClamped (.pair n p.ant) 0 0 (some r) none c) (rewritePowers st.station r c)
    else c
  | _, _, _ => c

/-- The hall stop's carrier watch: a transmitter left not OFF is sent a further CARRIER_OFF, unless one of the hall stop
is under way (R194). -/
def carrierWatch (n : Nat) (c : Ctl) : Ctl :=
  match txStatic c n with
  | none => c
  | some st =>
    if c.hall.inForce ∧ txLive c n ∧
        !framePending c.link (fun f => f.dest == st.station && f.origin == .hallStop) then
      offerCarrierOff n .urgent .hallStop c
    else c

/-- An OPERATIONS hold ends when the transmitter is recorded carrier OFF with nothing outstanding (R199). -/
def endOpsHold (n : Nat) (c : Ctl) : Ctl :=
  match txDyn c n with
  | some d => if d.owner = .operations ∧ !d.live then setOwner n .none c else c
  | none => c

/-! ## Reading the returning traffic (R61 to R63) -/

/-- What follows the setting of a transmitter record: interlock, queued CARRIER_ON conditions, queued POWER frames where the
band has become known or another than it was `before` (R51), carrier watch, the end of an OPERATIONS hold, the waiting
contexts and the arbiter. -/
def afterRecord (n : Nat) (report : Bool) (before c : Ctl) : Ctl :=
  pushOnce .arbiter (push ([.interlock n, .withdraw n] ++ bandNews n before c ++ [.watch n, .holdEnd n, .ctxRecord n report]) c)

/-- The record after a STATUS, or an ANSWER DONE to a QUERY (R61). -/
def reportedTx (r : TxReport) (underWay : Bool) (d : TxDyn) : TxDyn :=
  let clears := r.carrierOn || !underWay
  settleInterlock { d with
    carrier := if r.carrierOn && !r.trip then .on else .off
    outstanding := if clears then false else d.outstanding
    outRestore := if clears then none else d.outRestore
    tune := r.tune
    tuneRestore := none
    freq := r.freq
    power := r.power
    reportedLocal := r.localControl }

/-- A transmitter's report sets its record (R61); where its local flag becomes yes, the frames held for it are checked
(R59, R63). R61 says that a changed band or power setting acts on held frames under R59 too, but the table of R59 names no such
event: that held frames are not checked on it is the model's choice (log entry 41). -/
def applyTxReport (n : Nat) (r : TxReport) (c : Ctl) : Ctl :=
  match txStatic c n, txDyn c n with
  | some st, some d =>
    let was := localFlag c n d
    let c := afterRecord n true c (modTx n (reportedTx r (carrierOnUnderWay c.link st.station)) c)
    let now := decide (n ∈ c.panel.cond.locals) || r.localControl
    if now && !was then push [.recheckTx n] c else c
  | _, _ => c

/-- Carrier-on outstanding is cleared, with its restore value. -/
def clearOutstanding (d : TxDyn) : TxDyn := { d with outstanding := false, outRestore := none }

/-- The record after a transmitter's ANSWER to a verb other than QUERY (R62). `sentPower` is the value the POWER
carried. -/
def answeredTx (verb : Nat) (done : Bool) (addr tag : Nat) (underWay : Bool) (sentPower : Nat) (d : TxDyn) : TxDyn :=
  if verb = 4 ∧ done then
    settleInterlock { (if underWay then d else clearOutstanding d) with carrier := .off }
  else if verb = 3 ∧ !done then restoreOutstanding addr tag d
  else if verb = 1 ∧ !done then restoreTune addr tag d
  else if verb = 2 ∧ done then { d with power := some sentPower }
  else d

/-- The value a POWER carried when it was sent: that of the exchange the ANSWER matches (R30), and for a late ANSWER that
of the last POWER sent under its tag; where the controller has sent none with that tag, a free value (log entry 21). -/
def sentPowerOf (c : Ctl) (station addr tag : Nat) : Nat :=
  match exchangeOf c.link station addr tag with
  | some { verb := .power p, .. } => p
  | _ =>
    match c.gate.powerSent.find? (fun r => r.station == station && r.addr == addr && r.tag == tag) with
    | some r => r.value
    | none => freeBelow 65536 c.free

/-- A transmitter's ANSWER to a verb other than QUERY sets its record, matched or not (R62). -/
def applyTxAnswer (n verb : Nat) (done : Bool) (addr tag : Nat) (c : Ctl) : Ctl :=
  match txStatic c n with
  | none => c
  | some st =>
    let c' := drawFree 1 (modTx n (answeredTx verb done addr tag (carrierOnUnderWay c.link st.station)
      (sentPowerOf c st.station addr tag)) c)
    afterRecord n false c c'

/-- An exchange of operations or context origin ended by timeout: the record (R62). -/
def timedOutTx (v : PlantVerb) (underWay : Bool) (d : TxDyn) : TxDyn :=
  match v with
  | .carrierOn => { (if underWay then d else clearOutstanding d) with carrier := .unknown }
  | .tune _ => { d with tune := .unknown, tuneRestore := none }
  | .power _ => { d with power := none }
  | _ => d

/-- An exchange with a transmitter ended by timeout: the record, and what follows. For an exchange of the gate's or the Antenna
Unit's own the record stays, and the interlock is evaluated whichever exchange it was: R62 says that the interlock then acts,
and the list of R64 has the interlock's own CARRIER_OFF only; the model's choice (log entry 41). -/
def applyTxTimeout (e : Entry) (c : Ctl) : Ctl :=
  match txOfStation c.site.work e.station, e.origin with
  | some n, .ops _ _ =>
    afterRecord n false c (modTx n (timedOutTx e.verb (carrierOnUnderWay c.link e.station)) c)
  | some n, .ctx _ _ =>
    afterRecord n false c (modTx n (timedOutTx e.verb (carrierOnUnderWay c.link e.station)) c)
  | some n, _ => push [.interlock n, .watch n] c
  | none, _ => c

end Sys2Proof.Machine
end

