-- ==== Sys2Proof/Machine/Matrix.lean ====
section
/-! DEFINITION. The Matrix Interlocking: the movement queue and its arbiter (R75 to R77), coil movements (R70 to R72),
paths and their setting, proof, loss of proof and release (R78 to R86), the mirror (R68, R69), stuck crosspoints (R74),
lockout (R90) and the manual path orders (R87 to R89). -/

namespace Sys2Proof.Machine

/-! ## LATCH frames -/

/-- A LATCH frame of the Matrix Interlocking is offered in the INTERNAL class (R70, R71, R81). -/
def offerLatch (v : PlantVerb) (o : Origin) (c : Ctl) : Ctl :=
  match matrixStation c.site.work with
  | some st => offer { dest := st, verb := v, cls := .internal, origin := o } c
  | none => c

/-- The coil bit of a movement (R67). -/
def coilBit (r : MoveReq) : Nat :=
  match r.coil with
  | .closeCoil => xpBase r.row r.col
  | .openCoil => xpBase r.row r.col + 1

def offerClear (slot : Nat) (r : MoveReq) (c : Ctl) : Ctl := offerLatch (.latchClear (coilBit r)) (.mi (.clear slot)) c

/-! ## The movement queue (R75) -/

def hasRequest (m : Matrix) (pid : Nat) : Bool :=
  m.queue.any (fun r => r.pid == pid) || m.waiting.any (fun r => r.pid == pid)

/-- Waiting requests enter the queue as places free, taking their age. -/
def fillQueue : Nat → Matrix → Matrix
  | 0, m => m
  | fuel + 1, m =>
    match m.waiting with
    | r :: rest =>
      if m.queue.length < Config.moveQueueSize then
        fillQueue fuel { m with waiting := rest, queue := m.queue ++ [{ r with age := m.nextAge }],
                                nextAge := m.nextAge + 1 }
      else m
    | [] => m

/-- Bring waiting requests into the queue. -/
def settleQueue (m : Matrix) : Matrix := fillQueue m.waiting.length m

/-- A path makes a movement request, which enters the queue or waits in the path's record. -/
def requestMove (p : Path) (coil : Coil) (c : Ctl) : Ctl :=
  if hasRequest c.matrix p.pid then c
  else pushOnce .arbiter (c.onMatrix (fun m => settleQueue { m with
    waiting := m.waiting ++ [{ pid := p.pid, row := p.row, col := p.col, coil := coil, priority := p.priority, age := 0 }]
  }))

/-- A request that is queued or waiting is withdrawn. -/
def withdrawRequest (pid : Nat) (c : Ctl) : Ctl :=
  pushOnce .arbiter (c.onMatrix (fun m => settleQueue { m with
    queue := m.queue.filter (fun r => r.pid != pid)
    waiting := m.waiting.filter (fun r => r.pid != pid) }))

/-! ## Paths: records and their owners' news -/

/-- A path enters a state: "since" is the present time. -/
def Path.enter (c : Ctl) (st : PathState) (p : Path) : Path :=
  if p.state = st then p else { p with state := st, since := c.clock }

/-- NOTICE PATH_RESULT with the path's reference (R87). -/
def pathResult (p : Path) (code : Nat) (c : Ctl) : Ctl :=
  raise .pathResult (.pair p.tx p.ant) code 0 none p.reference c

/-- A context is told of its path, as a result of its work in hand (R170). -/
def tellCtx (n : Nat) (news : PathNews) (c : Ctl) : Ctl :=
  match busyCtx c n with
  | some x => push [.pathNews n { occ := x.occ, isEnd := x.isEnd } news] c
  | none => c

/-- A path of OPERATIONS, or one set by PATH_SET that an END changeover made IDLE before its PATH_RESULT was raised: its
setting goes on as an OPERATIONS path's (R79, R87, R185, log entry 34). -/
def Path.manual (p : Path) : Bool := decide (p.owner = .operations) || (decide (p.owner = .idle) && p.reference.isSome)

/-- The owner of a path is told of a failure: a context as `news`, OPERATIONS by PATH_RESULT (R80, R82). -/
def tellFailure (p : Path) (news : PathNews) (code : Nat) (c : Ctl) : Ctl :=
  match p.owner with
  | .ctx n => tellCtx n news c
  | _ => if p.manual then pathResult p code c else c

def removePath (pid : Nat) (c : Ctl) : Ctl :=
  c.onMatrix (fun m => { m with paths := m.paths.filter (fun p => p.pid != pid) })

/-- A READ of a proof that waits for a slot is removed from the line when its proof ends (R28). -/
def dropWaitingRead (pid : Nat) (c : Ctl) : Ctl :=
  c.onLink (fun k => { k with internalWaiters := k.internalWaiters.filter (fun f => f.origin != .mi (.proof pid)) })

/-- What follows a change of the path table: the arbiter's round (R77). -/
def tableChanged (c : Ctl) : Ctl :=
  let c := pushOnce .arbiter c
  if c.start.phase = .adopt then pushOnce .adoptCheck c else c

/-- A SETTING path fails (R80). -/
def failSetting (p : Path) (code : Nat) (c : Ctl) : Ctl :=
  let c := dropWaitingRead p.pid (withdrawRequest p.pid c)
  let c :=
    if !p.granted ∧ (xpAt c p.row p.col).state = .opened then invokeInterlock p.tx (removePath p.pid c)
    else setPathRec { p.enter c .unproven with stage := none, proof := .none, reference := none } c
  tableChanged (failPathHolds p.tx (tellFailure p (.failed code) code c))

/-- A proof ends in failure (R82): the path becomes UNPROVEN, and wants no movement. -/
def failProof (p : Path) (code : Nat) (c : Ctl) : Ctl :=
  let c := dropWaitingRead p.pid (withdrawRequest p.pid c)
  let c := setPathRec { p.enter c .unproven with stage := none, proof := .none, reference := none } c
  let c := tellFailure p (.proofFailed code) code c
  tableChanged (if p.state = .setting then failPathHolds p.tx c else c)

/-- A proof succeeds (R82): the path becomes PROVEN, held frames are checked, queued POWER frames are fitted (R51). -/
def proofDone (p : Path) (c : Ctl) : Ctl :=
  let c := setPathRec { p.enter c .proven with stage := none, proof := .none, reference := none } c
  let c := match p.owner with
    | .ctx n => tellCtx n .proven c
    | _ => if p.manual then pathResult p 0 c else c
  tableChanged (push [.recheckPath p.tx, .fitPower p.tx] c)

/-- A PROVEN path loses its proof (R83): the interlock is invoked at the same instant. -/
def loseProof (p : Path) (c : Ctl) : Ctl :=
  let live := txLive c p.tx
  let c := invokeInterlock p.tx (setPathRec (p.enter c .unproven) c)
  let c := match p.owner with
    | .ctx n => tellCtx n (.lost live) c
    | _ => c
  tableChanged c

/-- The reason of the row of R81 that a crosspoint elsewhere in the row or column fails. -/
def surroundingsCode (c : Ctl) (p : Path) : Nat :=
  if (rowColOthers c.site.work p.row p.col).any (fun q => (xpAt c q.1 q.2).state == .stuck) then Reason.xpStuck.code
  else Reason.pathUnproven.code

/-- The column antenna's position is known (R81). -/
def positionKnown (c : Ctl) (a : Nat) : Bool :=
  match antStatic c a, antDyn c a with
  | some s, some d =>
    (match s.kind with
     | .rotatable => d.bearing.isSome
     | .steerable => d.steer.isSome
     | _ => true)
  | _, _ => false

/-- The conditions of R81 in their order; `bits` are those the READ carried. The failed condition's reason code. -/
def proofFault (c : Ctl) (p : Path) (bits : List (Nat × Bool)) : Option Nat :=
  let b := xpBase p.row p.col
  if (bits.find? (fun x => x.1 == b)).map (·.2) ≠ some true ∨
     (bits.find? (fun x => x.1 == b + 1)).map (·.2) ≠ some false then some Reason.pathUnproven.code
  else if (rowColOthers c.site.work p.row p.col).any (fun q =>
      (xpAt c q.1 q.2).state == .stuck || (xpAt c q.1 q.2).position != .opened) then some (surroundingsCode c p)
  else if lockedOut c p.ant then some Reason.lockedOut.code
  else if antMotion c p.ant ≠ .still then some Reason.pathUnproven.code
  else if !positionKnown c p.ant then some Reason.pathUnproven.code
  else none

/-- A proof is begun (R81). -/
def beginProof (p : Path) (c : Ctl) : Ctl :=
  match (xpAt c p.row p.col).state with
  | .closed =>
    offerLatch (.latchRead (xpBase p.row p.col) 2) (.mi (.proof p.pid))
      (setPathRec { p with proof := .inProgress none } c)
  | .stuck => failProof p Reason.xpStuck.code c
  | _ => failProof p Reason.pathUnproven.code c

/-- A release ends (R86). -/
def endRelease (p : Path) (c : Ctl) : Ctl :=
  let c := tableChanged (invokeInterlock p.tx (removePath p.pid c))
  push ((c.matrix.paths.filter (fun q => decide (p.pid ∈ q.awaits))).map (fun q => .actPath q.pid)) c

/-- Some release that the setting of a path began is still RELEASING (R79). -/
def awaitsRelease (c : Ctl) (p : Path) : Bool :=
  c.matrix.paths.any (fun q => decide (q.pid ∈ p.awaits) && decide (q.state = .releasing))

/-- A SETTING path in stage WAITING, or a RELEASING path, acts from the state of its crosspoint (R79, R85). -/
def actPath (pid : Nat) (c : Ctl) : Ctl :=
  match pathOf c pid with
  | none => c
  | some p =>
    match p.state, p.stage, (xpAt c p.row p.col).state with
    | .releasing, _, .stuck => withdrawRequest pid c
    | .releasing, _, .opened => if hasRequest c.matrix pid then c else endRelease p c
    | .releasing, _, .closed => requestMove p .openCoil c
    | .setting, some .waiting, .closed =>
      if hasRequest c.matrix pid || awaitsRelease c p then c
      else setPathRec { p with stage := some .settling, settleFrom := c.clock } c
    | .setting, some .waiting, .opened => requestMove p .closeCoil c
    | .setting, some .waiting, .unknown => requestMove p .closeCoil c
    | .setting, some .waiting, .stuck => requestMove p .closeCoil c
    | _, _, _ => c

/-- A path is released at a priority (R85). -/
def releasePath (pid priority : Nat) (c : Ctl) : Ctl :=
  match pathOf c pid with
  | none => c
  | some p =>
    if p.state = .releasing then c
    else
      let c := dropWaitingRead pid (withdrawRequest pid c)
      let c := setPathRec { p.enter c .releasing with
        stage := none, proof := .none, reference := none, priority := priority } c
      actPath pid (tableChanged (failPathHolds p.tx (invokeInterlock p.tx c)))

/-- A path is set (R79): its record, the releases it begins, and its first act. -/
def setPath (tx ant row col : Nat) (owner : PathOwner) (priority : Nat) (reference : Option Ref) (releases : List Nat)
    (c : Ctl) : Ctl :=
  let pid := c.matrix.nextPid
  let p : Path :=
    { pid := pid, tx := tx, ant := ant, row := row, col := col, state := .setting, owner := owner,
      stage := some .waiting, proof := .none, priority := priority, since := c.clock, reference := reference,
      granted := false, settleFrom := c.clock, awaits := releases }
  let c := c.onMatrix (fun m => { m with nextPid := pid + 1, paths := m.paths ++ [p] })
  actPath pid (tableChanged (forEach releases (fun q c => releasePath q priority c) c))

/-! ## Coil movements (R70 to R72) -/

/-- A crosspoint becomes STUCK with its alarm. -/
def becomeStuck (row col : Nat) (c : Ctl) : Ctl :=
  raise .xpStuck (.crosspoint row col) 0 0 none none (setXp row col { xpAt c row col with state := .stuck } c)

/-- The paths of a crosspoint act. -/
def actPathsOf (row col : Nat) (c : Ctl) : Ctl :=
  push ((c.matrix.paths.filter (fun p => p.row == row && p.col == col)).map (fun p => .actPath p.pid)) c

/-- A movement's path learns how the movement ended: the stage of a path being closed becomes SETTLING, or its setting
fails (R79, R80). -/
def moveEnded (r : MoveReq) (c : Ctl) : Ctl :=
  match pathOf c r.pid with
  | none => c
  | some p =>
    if p.state = .setting ∧ p.stage = some .moving then
      match (xpAt c r.row r.col).state with
      | .closed => setPathRec { p with stage := some .settling, settleFrom := c.clock } c
      | .stuck => failSetting p Reason.xpStuck.code c
      | _ => c
    else c

/-- A movement leaves stage DRIVING: its CLEAR is offered and the slot goes on to RELEASING_COIL (R71, R72). -/
def releaseCoil (slot : Nat) (v : Movement) (c : Ctl) : Ctl :=
  let c := c.onMatrix (fun m => { m with slots := tmod slot (fun v => { v with stage := .releasingCoil }) m.slots })
  let c := offerClear slot v.req c
  pushOnce .arbiter (actPathsOf v.req.row v.req.col (moveEnded v.req c))

/-- The movement reaches its target (R71). -/
def moveReached (slot : Nat) (v : Movement) (c : Ctl) : Ctl :=
  let x := xpAt c v.req.row v.req.col
  releaseCoil slot v (setXp v.req.row v.req.col
    { x with state := (match v.req.coil with | .closeCoil => .closed | .openCoil => .opened) } c)

/-- The movement fails: contact fault, its limit, or the station's refusal of its SET (R71). -/
def moveFailed (slot : Nat) (v : Movement) (c : Ctl) : Ctl :=
  releaseCoil slot v (becomeStuck v.req.row v.req.col c)

/-- The movement that drives a crosspoint, if any. -/
def drivingAt (c : Ctl) (row col : Nat) : Option (Nat × Movement) :=
  c.matrix.slots.find? (fun s => s.2.req.row == row && s.2.req.col == col && s.2.stage == .driving)

/-- A movement in stage DRIVING watches the mirror of its crosspoint (R71). -/
def moveWatch (slot : Nat) (v : Movement) (c : Ctl) : Ctl :=
  match (xpAt c v.req.row v.req.col).position, v.req.coil with
  | .closed, .closeCoil => moveReached slot v c
  | .opened, .openCoil => moveReached slot v c
  | .fault, _ => moveFailed slot v c
  | _, _ => c

/-- The slot is freed on the DONE of its CLEAR (R72). -/
def freeSlot (slot : Nat) (c : Ctl) : Ctl :=
  match tget slot c.matrix.slots with
  | none => c
  | some v =>
    let x := xpAt c v.req.row v.req.col
    let c := c.onMatrix (fun m => { m with slots := terase slot m.slots })
    pushOnce .arbiter
      (setXp v.req.row v.req.col (if x.movement = some slot then { x with movement := none } else x) c)

/-- A CLEAR of a coil was answered DONE: the slot that releases this coil is freed (R72, R75). -/
def coilCleared (bit : Nat) (c : Ctl) : Ctl :=
  match c.matrix.slots.find? (fun s => s.2.stage == .releasingCoil && coilBit s.2.req == bit) with
  | some s => freeSlot s.1 c
  | none => c

/-- A CLEAR of a coil ended without DONE: a further CLEAR is offered for the slot that releases this coil. -/
def coilNotCleared (bit : Nat) (c : Ctl) : Ctl :=
  match c.matrix.slots.find? (fun s => s.2.stage == .releasingCoil && coilBit s.2.req == bit) with
  | some s => offerClear s.1 s.2.req c
  | none => c

/-- The path still wants a movement whose SET the gate refused. -/
def wantsMove (c : Ctl) (r : MoveReq) : Bool :=
  match pathOf c r.pid with
  | some p =>
    (match r.coil with
     | .closeCoil => decide (p.state = .setting ∧ p.stage = some .moving)
     | .openCoil => decide (p.state = .releasing))
  | none => false

/-- A request goes back to its former place; where the queue has been filled meanwhile, the newest request waits again
at the head of the waiting ones (log entry 22). -/
def requeue (r : MoveReq) (m : Matrix) : Matrix :=
  let q := orderedInsert (fun a b => decide (a.age < b.age)) r m.queue
  if q.length ≤ Config.moveQueueSize then { m with queue := q }
  else
    match q.getLast? with
    | some last => { m with queue := q.dropLast, waiting := last :: m.waiting }
    | none => m

/-- The gate refused the SET of a movement: the movement is undone (R70), and the freed slot brings a round of the arbiter
(R77). A crosspoint that reached its target or became STUCK while the SET was still waiting keeps that state (R69, R71).
A close whose path has failed or been released meanwhile is not queued again: R80 and R85 have withdrawn it (log entry
22). The other paths of the crosspoint act from its state as restored: one that waited at OPENING or CLOSING asks now (R79,
R85). -/
def undoGrant (slot : Nat) (c : Ctl) : Ctl :=
  match tget slot c.matrix.slots with
  | none => c
  | some v =>
    let wants := wantsMove c v.req
    let x := xpAt c v.req.row v.req.col
    let c := c.onMatrix (fun m => { m with
      slots := terase slot m.slots
      paths := m.paths.map (fun p =>
        if p.pid = v.req.pid ∧ v.req.coil = .closeCoil then
          { p with granted := false, stage := if p.stage = some .moving then some .waiting else p.stage }
        else p) })
    let c := setXp v.req.row v.req.col
      { x with state := if v.stage = .driving then v.before else x.state, movement := none } c
    pushOnce .arbiter (actPathsOf v.req.row v.req.col (if wants then c.onMatrix (requeue v.req) else c))

/-! ## The arbiter (R76, R77) -/

/-- The re-check of a request at its grant. -/
def moveAllowed (c : Ctl) (r : MoveReq) : Bool :=
  match r.coil with
  | .closeCoil =>
    decide ((xpAt c r.row r.col).state = .opened) &&
    (rowColOthers c.site.work r.row r.col).all (fun q => (xpAt c q.1 q.2).state == .opened) &&
    rowOff c r.row &&
    (match antOfCol c.site.work r.col with | some a => !lockedOut c a | none => true) &&
    !c.matrix.paths.any (fun p => p.claims && p.col == r.col && p.pid != r.pid)
  | .openCoil => decide ((xpAt c r.row r.col).state = .closed) && rowOff c r.row

/-- An open request whose crosspoint is found OPEN is no longer needed. -/
def moveNeedless (c : Ctl) (r : MoveReq) : Bool :=
  decide (r.coil = .openCoil) && decide ((xpAt c r.row r.col).state = .opened)

/-- Higher priority first, and among equals the older request first. -/
def moveBefore (a b : MoveReq) : Bool := decide (b.priority < a.priority ∨ (a.priority = b.priority ∧ a.age < b.age))

/-- A free movement slot. -/
def freeSlotOf (m : Matrix) : Option Nat := (upTo Config.moveSlots).find? (fun k => (tget k m.slots).isNone)

/-- An open is granted on a crosspoint: it leaves CLOSED, so another path on it in stage SETTLING or CLOSED fails, and a
proof on it ends (R80, R82, log entry 34). -/
def leaveClosed (r : MoveReq) (c : Ctl) : Ctl :=
  let others := c.matrix.paths.filter (fun p => p.row == r.row && p.col == r.col && p.pid != r.pid)
  forEach (others.map (·.pid)) (fun pid c =>
    match pathOf c pid with
    | none => c
    | some p =>
      if p.proof ≠ .none then failProof p Reason.pathUnproven.code c
      else if p.state = .setting ∧ (p.stage = some .settling ∨ p.stage = some .closed) then
        failSetting p Reason.pathUnproven.code c
      else c) c

/-- A movement is granted (R70); the path sub-step of a context's path becomes RUNNING (R179). -/
def grant (slot : Nat) (r : MoveReq) (c : Ctl) : Ctl :=
  let x := xpAt c r.row r.col
  let c := c.onMatrix (fun m => settleQueue { m with
    queue := dropFirst (fun q => decide (q = r)) m.queue
    slots := tset slot { req := r, stage := .driving, limit := 3 * c.site.work.site.sx * 1000, started := none,
                         before := x.state } m.slots
    paths := m.paths.map (fun p =>
      if p.pid = r.pid ∧ r.coil = .closeCoil then { p with granted := true, stage := some .moving } else p) })
  let c := setXp r.row r.col { x with
    state := (match r.coil with | .closeCoil => .closing | .openCoil => .opening), movement := some slot } c
  let c := match r.coil, (pathOf c r.pid).map (·.owner) with
    | .closeCoil, some (.ctx n) => c.onCu (tmod n (fun x => { x with path := subRunning x.path }))
    | .openCoil, _ => leaveClosed r c
    | _, _ => c
  offerLatch (.latchSet (coilBit r)) (.mi (.set slot)) c

/-- A needless request is dropped, and its release ends (R76, R86). -/
def dropNeedless (r : MoveReq) (c : Ctl) : Ctl :=
  actPath r.pid (c.onMatrix (fun m => settleQueue { m with queue := dropFirst (fun q => decide (q = r)) m.queue }))

/-- A round of the arbiter: while a slot is free, the first request in order that passes is granted. -/
def arbiterRound : Nat → Ctl → Ctl
  | 0, c => c
  | fuel + 1, c =>
    match freeSlotOf c.matrix with
    | none => c
    | some slot =>
      match (insertSort moveBefore c.matrix.queue).find? (fun r => moveNeedless c r || moveAllowed c r) with
      | none => c
      | some r => arbiterRound fuel (if moveNeedless c r then dropNeedless r c else grant slot r c)

/-- A round goes on until no slot is free or no queued request passes: each turn removes a request. -/
def arbiter (c : Ctl) : Ctl := arbiterRound (Config.moveSlots + c.matrix.queue.length + c.matrix.waiting.length) c

/-! ## The mirror (R68, R69) -/

/-- A crosspoint with no movement driving it takes its state from its mirror. -/
def followMirror (row col : Nat) (c : Ctl) : Ctl :=
  let x := xpAt c row col
  match x.state, x.position with
  | .stuck, _ => c
  | .closing, _ => c
  | .opening, _ => c
  | _, .opened => setXp row col { x with state := .opened } c
  | _, .closed => setXp row col { x with state := .closed } c
  | _, .transit => becomeStuck row col c
  | _, .fault => becomeStuck row col c
  | _, .unknown => c

/-- A crosspoint whose mirror changed is dealt with once. -/
def dealMirror (q : Nat × Nat) (c : Ctl) : Ctl :=
  match drivingAt c q.1 q.2 with
  | some s => moveWatch s.1 s.2 c
  | none => followMirror q.1 q.2 c

def contactOf (v : Bool) : Contact := if v then .made else .notMade

/-- One bit into the mirror; the crosspoint is added to those changed where the value differs. -/
def setContact (acc : Ctl × List (Nat × Nat)) (bit : Nat × Bool) : Ctl × List (Nat × Nat) :=
  let row := xpRow (bit.1 / 2)
  let col := xpCol (bit.1 / 2)
  if coilBitInGeometry acc.1.site.work bit.1 then
    let x := xpAt acc.1 row col
    let x' := if bit.1 % 2 = 0 then { x with closedContact := contactOf bit.2 }
      else { x with openContact := contactOf bit.2 }
    if x' = x then acc
    else (setXp row col x' acc.1, if (row, col) ∈ acc.2 then acc.2 else acc.2 ++ [(row, col)])
  else acc

/-- A path whose row or column contains a changed crosspoint. A WAITING path acts from its crosspoint as it now is: one that
asked for no close while it stood CLOSED asks for one when it opens (the model's reading, log entry 34). A SETTING path whose
own crosspoint opens during its proof ends by R82, UNPROVEN, where R80 would remove one that no movement was granted for: the
model's choice (log entry 34). -/
def pathMirror (changed : List (Nat × Nat)) (pid : Nat) (c : Ctl) : Ctl :=
  match pathOf c pid with
  | none => c
  | some p =>
    if changed.any (fun q => q.1 == p.row || q.2 == p.col) then
      if p.proof ≠ .none then
        failProof p (if (p.row, p.col) ∈ changed then Reason.pathUnproven.code else surroundingsCode c p) c
      else match p.state, p.stage with
        | .proven, _ => loseProof p c
        | .releasing, _ => actPath pid c
        | .setting, some .waiting => actPath pid c
        | .setting, some .settling =>
          if (xpAt c p.row p.col).state = .closed then c else failSetting p Reason.pathUnproven.code c
        | .setting, some .closed =>
          if (xpAt c p.row p.col).state = .closed then c else failSetting p Reason.pathUnproven.code c
        | _, _ => c
    else c

/-- The bits of one frame are taken together (R68); `own` is the path whose READ brought them. -/
def takeBits (bits : List (Nat × Bool)) (own : Option Nat) (c : Ctl) : Ctl :=
  let r := bits.foldl setContact (c, [])
  let c := forEach r.2 dealMirror r.1
  let c := forEach ((c.matrix.paths.filter (fun p => own != some p.pid)).map (·.pid)) (pathMirror r.2) c
  if r.2.isEmpty then c else pushOnce .arbiter c

/-- The READ of a proof is answered DONE: taken into the mirror, then the conditions of R81 are tested (R81, R82). A
READ that is no longer the proof's is only taken into the mirror. -/
def readAnswered (e : Entry) (bits : List (Nat × Bool)) (c : Ctl) : Ctl :=
  match e.origin with
  | .mi (.proof pid) =>
    (match pathOf c pid with
     | some p =>
       if p.proof = .inProgress (some e.tag) then
         let c := takeBits bits (some pid) c
         match pathOf c pid with
         | some p =>
           (match proofFault c p bits with
            | some code => failProof p code c
            | none => proofDone p c)
         | none => c
       else takeBits bits none c
     | none => takeBits bits none c)
  | _ => takeBits bits none c

/-! ## The Matrix Interlocking's exchanges -/

/-- A LATCH of the Matrix Interlocking was refused by the gate. The READ of the proof in progress then has no tag yet
(R28, R82). -/
def miRefused (purpose : MiPurpose) (code : Nat) (c : Ctl) : Ctl :=
  match purpose with
  | .set slot => undoGrant slot c
  | .clear _ => c
  | .proof pid =>
    (match pathOf c pid with
     | some p => if p.proof = .inProgress none then failProof p code c else c
     | none => c)

/-- An exchange of the Matrix Interlocking ended (R71, R72, R82). -/
def miEnded (e : Entry) (purpose : MiPurpose) (outcome : Option Outcome) (code : Nat) (c : Ctl) : Ctl :=
  match purpose, e.verb, outcome with
  | .set slot, .latchSet bit, some .refused =>
    (match tget slot c.matrix.slots with
     | some v => if v.stage = .driving ∧ coilBit v.req = bit then moveFailed slot v c else c
     | none => c)
  | .clear _, .latchClear bit, some .done => coilCleared bit c
  | .clear _, .latchClear bit, some .accepted => coilCleared bit c
  | .clear _, .latchClear bit, _ => coilNotCleared bit c
  | .proof pid, _, some .refused =>
    (match pathOf c pid with
     | some p => if p.proof = .inProgress (some e.tag) then failProof p code c else c
     | none => c)
  | .proof pid, _, none =>
    (match pathOf c pid with
     | some p => if p.proof = .inProgress (some e.tag) then failProof p Reason.noAnswer.code c else c
     | none => c)
  | _, _, _ => c

/-- A movement's limit expires (R71). -/
def limitExpired (slot : Nat) (c : Ctl) : Ctl :=
  match tget slot c.matrix.slots with
  | some v =>
    (match v.stage, v.started with
     | .driving, some t => moveFailed slot v (clockReaches (t + v.limit) c)
     | _, _ => c)
  | none => c

/-! ## Timers of paths (R79, R88) -/

/-- The settle of 0.5 s ends. -/
def settleEnded (tx : Nat) (c : Ctl) : Ctl :=
  match claimPath c tx with
  | some p =>
    if p.state = .setting ∧ p.stage = some .settling then
      let c := clockReaches (p.settleFrom + Config.settleTime) c
      let p := { p with stage := some .closed }
      let c := setPathRec p c
      match p.owner with
      | .ctx n => tellCtx n .closed c
      | _ => if p.manual then beginProof p c else c
    else c
  | none => c

/-- The reason found at the expiry of the setting limit (R88). -/
def waitingReason (c : Ctl) (p : Path) : Reason :=
  if (xpAt c p.row p.col).state = .closed then .plantBusy
  else if stuckInRowOrCol c p.row p.col then .xpStuck
  else if lockedOut c p.ant then .lockedOut
  else if !rowOff c p.row then .carrierOn
  else .plantBusy

/-- The setting limit of an OPERATIONS path, or of one set by PATH_SET and IDLE since, expires (R88). -/
def pathLimitExpired (tx : Nat) (c : Ctl) : Ctl :=
  match claimPath c tx with
  | some p =>
    if p.state = .setting ∧ p.stage = some .waiting ∧ p.manual then
      let c := clockReaches (p.since + Config.operationsPathLimit) c
      failSetting p (waitingReason c p).code c
    else c
  | none => c

/-! ## Lockout (R90) and motion (R83) -/

/-- An antenna has been locked out: the column's paths. A SETTING path fails and withdraws its close request, as R80 and R90
say, where R91 keeps such a request queued: the model's choice between them (log entry 34). -/
def actLockout (a : Nat) (c : Ctl) : Ctl :=
  let c := forEach ((columnPaths c a).map (·.pid)) (fun pid c =>
    match pathOf c pid with
    | none => c
    | some p =>
      push [.recheckTx p.tx] (
        if p.state = .proven then loseProof p c
        else if p.proof ≠ .none then failProof p Reason.lockedOut.code c
        else if p.state = .setting then failSetting p Reason.lockedOut.code c
        else c)) c
  tableChanged c

/-- The Antenna Unit has recorded a motion other than STILL for an antenna, or another position (R82, R83). A change of
position under STILL abandons a proof as well: the model's reading of R93 (log entry 34). -/
def actMotion (a : Nat) (c : Ctl) : Ctl :=
  forEach ((columnPaths c a).map (·.pid)) (fun pid c =>
    match pathOf c pid with
    | none => c
    | some p =>
      if p.state = .proven then loseProof p c
      else if p.proof ≠ .none then failProof p Reason.pathUnproven.code c
      else c) c

/-! ## Manual orders -/

/-- XP_CLEAR (R74). -/
def xpClearOrder (row col : Nat) (c : Ctl) : Except (Nat × List Byte) Ctl :=
  if c.start.phase ≠ .running then .error (Reason.survey.code, [])
  else if !inGeometry c.site.work row col then .error (Reason.badRecord.code, u8 0)
  else
    let x := xpAt c row col
    if x.state ≠ .stuck then .ok c
    else match x.position with
      | .opened => .ok (pushOnce .arbiter (actPathsOf row col (setXp row col { x with state := .opened } c)))
      | .closed => .ok (pushOnce .arbiter (actPathsOf row col (setXp row col { x with state := .closed } c)))
      | _ => .error (Reason.xpStuck.code, [])

/-- The path is SETTING or has a proof IN_PROGRESS. -/
def Path.busy (p : Path) : Bool := decide (p.state = .setting) || decide (p.proof ≠ .none)

def Path.ctxOwned (p : Path) : Bool :=
  match p.owner with
  | .ctx _ => true
  | _ => false

/-- Another transmitter's path that claims a column. -/
def columnClaim (c : Ctl) (tx col : Nat) : Option Path :=
  c.matrix.paths.find? (fun p => p.claims && p.col == col && p.tx != tx)

/-- The checks of PATH_SET in order (R87). -/
def pathSetCheck (tx ant : Nat) (c : Ctl) : Option (Reason × List Byte) :=
  if c.start.phase ≠ .running then some (.survey, [])
  else if !(1 ≤ tx ∧ tx ≤ 24 ∧ 1 ≤ ant ∧ ant ≤ 40) then some (.badRecord, u8 0)
  else match txStatic c tx, txDyn c tx, antStatic c ant with
    | some s, some d, some a =>
      if localFlag c tx d then some (.localControl, [])
      else if ownedByCtx d then some (.owned, [])
      else if d.live then some (.carrierOn, [])
      else if (claimPath c tx).any Path.busy || decide ((xpAt c s.row a.column).state = .closing) ||
          decide ((xpAt c s.row a.column).state = .opening) then some (.inUse, [])
      else if lockedOut c ant then some (.lockedOut, [])
      else if stuckInRowOrCol c s.row a.column then some (.xpStuck, [])
      else match columnClaim c tx a.column with
        | some p =>
          if txLive c p.tx then some (.antennaLive, [])
          else if p.ctxOwned then some (.owned, [])
          else if p.busy then some (.inUse, [])
          else none
        | none => none
    | _, _, _ => some (.unknownPlant, [])

/-- What a PATH_SET that passes does; the flag says that it is answered ACCEPTED. A path set again has no movement granted
in its new setting: the model's reading of R80 (log entry 34). -/
def pathSetAct (tx ant : Nat) (ref : Ref) (c : Ctl) : Ctl × Bool :=
  match txStatic c tx, antStatic c ant with
  | some s, some a =>
    let priority := c.site.work.site.manualPriority
    let fresh := fun (releases : List Nat) =>
      (setPath tx ant s.row a.column .operations priority (some ref) releases c, true)
    let columnRelease := ((columnClaim c tx a.column).map (·.pid)).toList
    (match claimPath c tx with
     | some p =>
       if p.ant = ant then
         if p.state = .proven then (setPathRec { p with owner := .operations } c, false)
         else if (xpAt c p.row p.col).state = .closed then
           (beginProof { p with owner := .operations, reference := some ref, priority := priority }
             (setPathRec { p with owner := .operations, reference := some ref, priority := priority } c), true)
         else
           let p := { p.enter c .setting with
             stage := some .waiting, owner := .operations, reference := some ref, priority := priority,
             granted := false, awaits := [] }
           (actPath p.pid (setPathRec p c), true)
       else fresh (p.pid :: columnRelease)
     | none => fresh columnRelease)
  | _, _ => (c, false)

/-- The checks of PATH_FREE in order (R89). -/
def pathFreeCheck (tx : Nat) (c : Ctl) : Option (Reason × List Byte) :=
  if c.start.phase ≠ .running then some (.survey, [])
  else if !(1 ≤ tx ∧ tx ≤ 24) then some (.badRecord, u8 0)
  else match txDyn c tx with
    | none => some (.unknownPlant, [])
    | some d =>
      if (rowPath c tx).any Path.ctxOwned then some (.owned, [])
      else if d.live then some (.carrierOn, [])
      else match rowPath c tx with
        | some p => if p.busy then some (.inUse, []) else none
        | none => some (.noPath, [])

def pathFreeAct (tx : Nat) (c : Ctl) : Ctl :=
  match claimPath c tx with
  | some p => releasePath p.pid c.site.work.site.manualPriority c
  | none => c

end Sys2Proof.Machine
end

