-- ==== Sys2Proof/Machine/Antenna.lean ====
section
/-! DEFINITION. The Antenna Unit: the dynamic antenna record (R92, R93), travel and bearings (R94 to R96), positioning
jobs (R97 to R102) and expected positions (R103). -/

namespace Sys2Proof.Machine

/-! ## Records -/

/-- The dynamic record of an antenna at its creation and at start-up (R92). -/
def AntDyn.initial (k : AntKind) : AntDyn :=
  { bearing := none, steer := none, motion := (match k with | .fixed => .still | .dummy => .still | _ => .unknown),
    job := none }

/-! ## Bearings (R94 to R96) -/

/-- The distance of two numbers. -/
def absDiff (a b : Nat) : Nat := (a - b) + (b - a)

/-- The angular difference, the short way round the circle (section 5.3). -/
def angularDiff (a b : Nat) : Nat := min (absDiff a b) (3600 - absDiff a b)

/-- The travel distance of a rotatable array (R94). -/
def travelDistance (s b0 b1 : Nat) : Nat := absDiff (travel s b0) (travel s b1)

/-- The indices of a steerable array with their directions (R95). -/
def steerDirections (a : AntStatic) : List (Nat × Nat) :=
  (upTo (a.offsets.getD []).length).filterMap (fun i => (steerDirection a i).map (fun d => (i, d)))

/-- The index whose direction has the least angular difference from a bearing; of equals the lower index. -/
def nearestIndex (b : Nat) : List (Nat × Nat) → Option (Nat × Nat)
  | [] => none
  | (i, d) :: t =>
    match nearestIndex b t with
    | none => some (i, angularDiff b d)
    | some (j, least) => if angularDiff b d ≤ least then some (i, angularDiff b d) else some (j, least)

/-- The index of the zero offset. -/
def zeroIndex (a : AntStatic) : Option Nat :=
  (upTo (a.offsets.getD []).length).find? (fun i => (a.offsets.getD [])[i - 1]? == some 0)

/-- The position an entry's bearing asks of an antenna; none is OUT_OF_TRAVEL (R95, R96). -/
def mapBearing (t : Tables) (a : AntStatic) (bearing : Option Nat) : Option Target :=
  match a.kind, bearing with
  | .rotatable, some b => if b < 3600 ∧ reachable a b then some (.bearing b) else none
  | .rotatable, none => none
  | .steerable, none => (zeroIndex a).map .index
  | .steerable, some b =>
    if b < 3600 then
      match nearestIndex b (steerDirections a) with
      | some (i, d) => if d ≤ t.site.tolerance then some (.index i) else none
      | none => none
    else none
  | .fixed, none => some .none
  | .fixed, some b =>
    (match a.boresight with
     | some s => if b < 3600 ∧ angularDiff b s ≤ t.site.tolerance then some .none else none
     | none => none)
  | .dummy, none => some .none
  | .dummy, some _ => none

/-! ## Positioning jobs (R97 to R102) -/

/-- The antenna stands STILL at a target. The difference of 5 is that of R98 and R100; the bearing tolerance, which R9 names for
completion tests, is in neither: the model's choice between the rules (log entry 29). -/
def standsAt (d : AntDyn) (t : Target) : Bool :=
  decide (d.motion = .still) &&
  (match t with
   | .bearing b => (match d.bearing with | some x => decide (angularDiff x b ≤ 5) | none => false)
   | .index i => decide (d.steer = some i)
   | .none => true)

def setJob (a : Nat) (j : Option Job) (c : Ctl) : Ctl := c.onAerial (tmod a (fun d => { d with job := j }))

/-- A changeover context asks for the position of its target antenna (R98): whether an order is needed. -/
def positionNeeded (c : Ctl) (a : Nat) (t : Target) : Bool :=
  match antStatic c a, antDyn c a with
  | some s, some d =>
    (match s.kind with
     | .rotatable => !standsAt d t
     | .steerable => !standsAt d t
     | _ => false)
  | _, _ => false

/-- The job of a context is opened and its order offered (R98). -/
def openJob (n : Nat) (w : Work) (a : Nat) (t : Target) (c : Ctl) : Ctl :=
  match (antStatic c a).bind (·.drive), targetVerb t with
  | some station, some v =>
    offer { dest := station, verb := v, cls := .internal, origin := .ctx n w }
      (setJob a (some { requester := .ctx n w, target := t, stage := .offered, moved := false }) c)
  | _, _ => c

/-- A job ends DONE or FAILED and leaves the record; its context is told (R101). -/
def endJob (a : Nat) (j : Job) (ok : Bool) (code : Nat) (c : Ctl) : Ctl :=
  let c := setJob a none c
  match j.requester with
  | .ctx n w => push [.jobEnded n w ok code] c
  | .operations _ => c

/-- The jobs of a context's work are withdrawn (R101). -/
def withdrawJob (n : Nat) (w : Work) (c : Ctl) : Ctl :=
  c.onAerial (fun t => t.map (fun p =>
    (p.1, match p.2.job with
      | some j => if j.requester = .ctx n w then { p.2 with job := none } else p.2
      | none => p.2)))

/-- The open job that an order to a drive belongs to, with its antenna. -/
def jobOf (c : Ctl) (f : PFrame) : Option (Nat × Job) :=
  match antOfDrive c.site.work f.dest with
  | none => none
  | some a =>
    match (antDyn c a).bind (·.job) with
    | some j => if ordersJob f j then some (a, j) else none
    | none => none

/-- The gate refused the order of a context's job (R99). -/
def jobRefused (f : PFrame) (code : Nat) (c : Ctl) : Ctl :=
  match jobOf c f with
  | some (a, j) => endJob a j false code c
  | none => c

/-- The exchange of a job's order ended (R99). While a later order of the same originator and tag is outstanding, it is
that one the job was opened with (R102, log entry 34). -/
def jobExchangeEnded (e : Entry) (outcome : Option Outcome) (code : Nat) (c : Ctl) : Ctl :=
  match jobOf c (entryFrame e) with
  | some (a, j) =>
    if j.stage = .sent && !c.link.table.any (fun x => positionsFor e.station e.origin (entryFrame x)) then
      match outcome with
      | some .done => setJob a (some { j with stage := .answered }) c
      | some .accepted => setJob a (some { j with stage := .answered }) c
      | some .refused => endJob a j false code c
      | none => endJob a j false Reason.noAnswer.code c
    else c
  | none => c

/-- A drive report is judged against the open job (R100); a failure so found carries cause zero (R180). -/
def judgeJob (a : Nat) (c : Ctl) : Ctl :=
  match antDyn c a with
  | none => c
  | some d =>
    match d.job with
    | none => c
    | some j =>
      match d.motion with
      | .fault => endJob a j false 0 c
      | .moving => if j.stage = .offered then c else setJob a (some { j with moved := true }) c
      | .unknown => c
      | .still =>
        if standsAt d j.target then endJob a j true 0 c
        else if j.stage = .answered ∨ (j.stage = .sent ∧ j.moved) then endJob a j false 0 c
        else c

/-! ## Reports of drives (R93) -/

/-- The record of an antenna after its drive's report. -/
def reportedAnt (s : AntStatic) (r : DriveReport) (d : AntDyn) : AntDyn :=
  match s.kind with
  | .rotatable =>
    { d with bearing := r.bearing.filter (fun b => decide (b < 3600)), motion := r.motion }
  | .steerable =>
    { d with steer := r.steer.filter (fun i => decide (1 ≤ i ∧ i ≤ (s.offsets.getD []).length)), motion := r.motion }
  | _ => d

/-- A changed record gives the Matrix Interlocking a reason to unprove: the motion left STILL, or a position changed
while it stayed STILL (R93). -/
def unproves (old new : AntDyn) : Bool :=
  decide (old.motion = .still) &&
  (decide (new.motion ≠ .still) || decide (new.bearing ≠ old.bearing) || decide (new.steer ≠ old.steer))

/-- A drive's report is applied to the antenna it serves. -/
def applyDriveReport (a : Nat) (r : DriveReport) (c : Ctl) : Ctl :=
  match antStatic c a, antDyn c a with
  | some s, some d =>
    let d' := reportedAnt s r d
    let c := c.onAerial (tset a d')
    judgeJob a (if unproves d d' then actMotion a c else c)
  | _, _ => c

/-! ## Expected position (R103) -/

/-- The position the lead arithmetic takes as the antenna's current one. -/
def expectedPosition (c : Ctl) (a : Nat) : Target :=
  match antStatic c a, antDyn c a with
  | some s, some d =>
    (match d.job with
     | some j => j.target
     | none =>
       (match s.kind with
        | .rotatable => (match d.bearing with | some b => .bearing b | none => .none)
        | .steerable => (match d.steer with | some i => .index i | none => .none)
        | _ => .none))
  | _, _ => .none

/-- A QUERY to a drive on the Antenna Unit's behalf (R10, R104). -/
def queryDrive (a : Nat) (c : Ctl) : Ctl :=
  match (antStatic c a).bind (·.drive) with
  | some station => offer { dest := station, verb := .query, cls := .internal, origin := .au } c
  | none => c

end Sys2Proof.Machine
end

