-- ==== Sys2Proof/Machine/Burst.lean ====
section
/-! DEFINITION. The burst record of the Load Intake: first error and flow state (R143, R144), the ends of its slot
writes (R144) and of its commit (R147, R148), and abandonment (R149). -/

namespace Sys2Proof.Machine

/-- A burst is open while its state is OPEN or CLOSING (R140). -/
def Load.isOpen (l : Load) : Bool := decide (l.state ≠ .none)

/-- The burst open on a bank, if there is one. -/
def Load.openOn (l : Load) (bk : Bank) : Bool := l.isOpen && decide (l.bank = bk)

/-- An error is kept if none is held yet. -/
def Load.keepError (r : Reason) (ordinal check : Nat) (l : Load) : Load :=
  if l.firstError.isSome then l else { l with firstError := some { reason := r, ordinal := ordinal, check := check } }

/-- The flow state follows the number of records held (R143). `now` is the controller's clock. -/
def Load.levelFlow (now : Millis) (l : Load) : Load :=
  if !l.paused ∧ 5 ≤ l.buffer.length then
    { l with paused := true, flow := if l.told then none else some .pause, idleFrom := none }
  else if l.paused ∧ l.buffer.length ≤ 2 then
    { l with paused := false, flow := if l.told then some .resume else none,
             idleFrom := if l.state = .open_ then some now else none }
  else l

/-- The oldest record leaves the intake buffer. -/
def Load.dropRecord (now : Millis) (l : Load) : Load := { l with buffer := l.buffer.drop 1 }.levelFlow now

/-- The burst record returns to state NONE. -/
def Load.ended (l : Load) : Load :=
  { l with state := .none, buffer := [], flow := none, hand := .none, idleFrom := none, close := none, commit := .none }

/-- The result of a refused close: records received and written, and for a first error its ordinal and check number (R147);
the check number of an error other than BAD_RECORD is absent (R39, R140). R148 names no result for a close whose commit was
refused or failed: that it carries this one is the model's choice, and so is that with no first error its two fields are left
out, where R39 has an absent value all ones (log entry 38). -/
def closeResult (l : Load) : List Byte :=
  be2 l.received ++ be2 l.written ++
  (match l.firstError with
   | some e => be2 e.ordinal ++ opt1 (if e.reason = .badRecord then some e.check else none)
   | none => [])

/-- NOTICE LOAD_RESULT (R147). -/
def loadResult (code : Nat) (c : Ctl) : Ctl :=
  raise .loadResult (.bank c.load.bank c.load.number) code 0 (some c.load.received) none c

/-- A pending close is answered: DONE, or REFUSED with an outcome. R149 names no result for a close refused at an
abandonment or with RESTARTING: that it carries the counts and the first error is the model's choice (log entry 38). -/
def answerClose (outcome : Option Reason) (c : Ctl) : Ctl :=
  match c.load.close with
  | some p =>
    (match outcome with
     | none => answerDone p.station p.tag 3 (be2 c.load.received ++ be2 c.load.written) c
     | some r => answerRefused p.station p.tag 3 r.code (closeResult c.load) c)
  | none => c

/-- The burst ends with an outcome: the close answered, the notice raised, the record NONE (R147, R148). -/
def endBurst (outcome : Option Reason) (c : Ctl) : Ctl :=
  (loadResult (match outcome with | some r => r.code | none => 0) (answerClose outcome c)).onLoad Load.ended

/-- A slot write of the Load Intake ended (R144): it succeeded, or a reason became the burst's error. A write of a burst
that has ended changes nothing. -/
def intakeWriteEnded (bk : Bank) (burst : Nat) (fault : Option Reason) (c : Ctl) : Ctl :=
  if c.load.openOn bk ∧ c.load.number = burst ∧ c.load.hand = .queued then
    pushOnce .intake (c.onLoad (fun l =>
      let ordinal := match l.buffer with
        | r :: _ => r.1
        | [] => 0
      let l := match fault with
        | none => { l with written := l.written + 1 }
        | some r => l.keepError r ordinal 0
      { l with hand := .none }.dropRecord c.clock))
  else c

/-- The commit's header write ended, or was not made (R148). -/
def commitEnded (bk : Bank) (burst : Nat) (fault : Option Reason) (c : Ctl) : Ctl :=
  if c.load.openOn bk ∧ c.load.number = burst ∧ c.load.commit = .queued then endBurst fault c else c

/-- A request is the slot write of a burst. -/
def isBurstWrite (bk : Bank) (burst : Nat) : StoreReq → Bool
  | .loadWrite k _ n => decide (k = bk) && decide (n = burst)
  | _ => false

/-- The burst's queued slot write is removed from the store queue. -/
def dropBurstWrite (bk : Bank) (burst : Nat) (s : Store) : Store :=
  { s with
    queue := s.queue.filter (fun r => !isBurstWrite bk burst r)
    eraseJob := s.eraseJob.map (fun j =>
      { j with serve := ((s.queue.take j.serve).filter (fun r => !isBurstWrite bk burst r)).length }) }

/-- An open burst is abandoned, unless its commit has been given to the store (R149). `reason` is the outcome where no
first error is held. -/
def abandonBurst (reason : Reason) (c : Ctl) : Ctl :=
  if c.load.isOpen ∧ c.load.commit = .none then
    let outcome := match c.load.firstError with
      | some e => e.reason
      | none => reason
    endBurst (some outcome) (pushOnce .engine (c.onStore (dropBurstWrite c.load.bank c.load.number)))
  else c

/-- The burst of a bank is abandoned. -/
def abandonOn (bk : Bank) (reason : Reason) (c : Ctl) : Ctl := if c.load.openOn bk then abandonBurst reason c else c

end Sys2Proof.Machine
end

