-- ==== Sys2Proof/Machine/Store.lean ====
section
/-! DEFINITION. The Schedule Store: banks, pages and slots (R116 to R121), the store engine (R122 to R124), opening and
protection (R125, R126), the store orders (R127 to R137), the store check and resets (R138, R139), and the site area
(R12 to R14, R16). -/

namespace Sys2Proof.Machine

/-! ## Banks, pages, slots -/

def Store.bank (s : Store) : Bank → BankRec
  | .a => s.bankA
  | .b => s.bankB

def bankRec (c : Ctl) (bk : Bank) : BankRec := c.store.bank bk

def modBank (bk : Bank) (f : BankRec → BankRec) (c : Ctl) : Ctl :=
  c.onStore (fun s =>
    match bk with
    | .a => { s with bankA := f s.bankA }
    | .b => { s with bankB := f s.bankB })

/-- The key of a slot: its place in the order of page, then slot. -/
def slotKey (page slot : Nat) : Nat := (page - 1) * 128 + (slot - 1)
def pageOfKey (k : Nat) : Nat := k / 128 + 1
def slotOfKey (k : Nat) : Nat := k % 128 + 1

/-- A page of an erased store; a page not listed reads so. -/
def Page.initial : Page := { cond := .erased, failures := 0, eraseMark := true, allVoid := false }

def pageAt (r : BankRec) (page : Nat) : Page := (tget page r.pages).getD Page.initial

def setPage (page : Nat) (p : Page) (r : BankRec) : BankRec := { r with pages := tput Page.initial page p r.pages }

/-- States of a slot (R119). -/
inductive SlotState where | empty | written | void
  deriving DecidableEq, Repr

/-- The state of a slot by its stored marks, and by what the working state adds (R118, R119, R123). -/
def slotState (r : BankRec) (k : Nat) : SlotState :=
  if (pageAt r (pageOfKey k)).allVoid then .void
  else match tget k r.slots with
    | none => .empty
    | some s => if s.workVoid then .void else if s.written then (if s.voidMark then .void else .written) else .void

/-- The entry of a WRITTEN slot, with its burst number. -/
def writtenAt (r : BankRec) (k : Nat) : Option (EntryRec × Nat) :=
  if slotState r k = .written then
    match tget k r.slots with
    | some { content := .record e, burst := n, .. } => some (e, n)
    | _ => none
  else none

/-- A burst number makes a record valid (R120). -/
def validBurst (r : BankRec) (n : Nat) : Bool := decide (n = 0) || decide (n ∈ r.header.commits)

/-- The WRITTEN records of a bank, in order of slot position: key, entry, burst number. -/
def writtenRecords (r : BankRec) : List (Nat × EntryRec × Nat) :=
  r.slots.filterMap (fun p => (writtenAt r p.1).map (fun w => (p.1, w.1, w.2)))

/-- The valid records of a bank in order of slot position (R120). -/
def validRecords (r : BankRec) : List (Nat × EntryRec) :=
  ((writtenRecords r).filter (fun w => validBurst r w.2.2)).map (fun w => (w.1, w.2.1))

/-- The provisional records of the burst open on a bank (R120). -/
def openRecords (c : Ctl) (bk : Bank) : List (Nat × EntryRec) :=
  if c.load.openOn bk then
    ((writtenRecords (bankRec c bk)).filter (fun w =>
      !validBurst (bankRec c bk) w.2.2 && decide (w.2.2 = c.load.number))).map (fun w => (w.1, w.2.1))
  else []

/-- The valid record holding an id, in the lowest slot position, as the Plan Unit takes it (R156). That a void, and an
ENTRY_READ by id, of two valid records with one id take the lower slot too is the model's choice (log entry 17): R130 and
R131 say nothing of a second one. -/
def findValid (r : BankRec) (id : Nat) : Option (Nat × EntryRec) := (validRecords r).find? (fun w => w.2.id == id)

/-- The pages of a bank selected for an erase (R132, R133). -/
def selectedPages (s : Store) (bk : Bank) : List Nat :=
  s.queue.flatMap (fun r =>
    match r with
    | .erase k pages _ _ => if k = bk then pages else []
    | _ => []) ++
  (match s.eraseJob with
   | some j => if j.bank = bk ∧ !j.isClear then j.pages else []
   | none => [])

/-- A page is usable for appends (R121). -/
def usablePage (s : Store) (bk : Bank) (page : Nat) : Bool :=
  (decide ((pageAt (s.bank bk) page).cond = .erased) || decide ((pageAt (s.bank bk) page).cond = .inUse)) &&
  !decide (page ∈ selectedPages s bk)

def usablePages (s : Store) (bk : Bank) : List Nat := (upTo 16).filter (usablePage s bk)

/-- The first EMPTY slot of a page. -/
def firstEmpty (r : BankRec) (page : Nat) : Option Nat :=
  ((List.range 128).map (fun i => (page - 1) * 128 + i)).find? (fun k => decide (slotState r k = .empty))

/-- The append point of a bank (R121). -/
def appendPoint (s : Store) (bk : Bank) : Option Nat := (usablePages s bk).findSome? (firstEmpty (s.bank bk))

/-- The EMPTY slots of a page. -/
def emptyCount (r : BankRec) (page : Nat) : Nat :=
  if (pageAt r page).allVoid then 0 else 128 - (r.slots.filter (fun p => pageOfKey p.1 == page)).length

def isSlotWrite (bk : Bank) : StoreReq → Bool
  | .append k _ _ => decide (k = bk)
  | .loadWrite k _ _ => decide (k = bk)
  | _ => false

/-- The free count of a bank (R121). -/
def freeCount (s : Store) (bk : Bank) : Nat :=
  ((usablePages s bk).map (emptyCount (s.bank bk))).sum - (s.queue.filter (isSlotWrite bk)).length

/-! ## Images (R12, R116) -/

/-- Of two numbers the first is the later: it exceeds the other by 1..32767, counted modulo 65536. -/
def laterNumber (a d : Nat) : Bool := decide (1 ≤ (a + 65536 - d) % 65536 ∧ (a + 65536 - d) % 65536 ≤ 32767)

/-- Whether image 2 is the latest valid one; none where neither is valid. -/
def latestIs2 {α : Type} (number : α → Nat) (i1 i2 : Option α) : Option Bool :=
  match i1, i2 with
  | none, none => none
  | some _, none => some false
  | none, some _ => some true
  | some x, some y => some (laterNumber (number y) (number x))

def latestHeader (r : BankRec) : Option HeaderImage :=
  match latestIs2 HeaderImage.writeNumber r.image1 r.image2 with
  | some true => r.image2
  | some false => r.image1
  | none => none

def latestSite (s : Site) : Option SiteImage :=
  match latestIs2 SiteImage.saveNumber s.image1 s.image2 with
  | some true => s.image2
  | some false => s.image1
  | none => none

/-- The next write is into image 2: image 1 is the latest valid one. -/
def writesImage2 {α : Type} (number : α → Nat) (i1 i2 : Option α) : Bool :=
  decide (latestIs2 number i1 i2 = some false)

/-- The number of the next image: one greater, modulo 65536, than the latest, or 1. -/
def nextNumber (latest : Option Nat) : Nat :=
  match latest with
  | some n => (n + 1) % 65536
  | none => 1

/-- A header image is programmed. Where neither image is valid it is image 1: the model's choice, for R116 gives the write number
alone (log entry 17). -/
def programHeader (h : Header) (r : BankRec) : BankRec :=
  let i : HeaderImage := { header := h, writeNumber := nextNumber ((latestHeader r).map (·.writeNumber)) }
  if writesImage2 HeaderImage.writeNumber r.image1 r.image2 then { r with image2 := some i } else { r with image1 := some i }

/-- A header write that did not end spoils the image it was writing. -/
def spoilHeader (r : BankRec) : BankRec :=
  if writesImage2 HeaderImage.writeNumber r.image1 r.image2 then { r with image2 := none } else { r with image1 := none }

/-! ## Reports of the store -/

def bankSubject (c : Ctl) (bk : Bank) : Subject := .bank bk ((bankRec c bk).header.season.getD 0)

def storeDone (subject : Subject) (ref : Ref) (c : Ctl) : Ctl := raise .storeDone subject 0 0 none (some ref) c
def storeFailed (subject : Subject) (r : Reason) (ref : Option Ref) (c : Ctl) : Ctl :=
  raise .storeFailed subject r.code 0 none ref c

/-! ## The queue and the erase window (R122, R132) -/

def storeRoom (s : Store) : Bool := decide (s.queue.length < Config.storeQueueSize)

/-- Any open erase window ends: its request becomes an ordinary one. -/
def endWindow (s : Store) : Store :=
  { s with
    window := none
    queue := s.queue.map (fun r =>
      match r with
      | .erase k pages refs _ => .erase k pages refs false
      | r => r) }

/-- A request arrives at the store queue. -/
def queueRequest (r : StoreReq) (c : Ctl) : Ctl :=
  pushOnce .engine (c.onStore (fun s => let s := endWindow s; { s with queue := s.queue ++ [r] }))

/-- The commit of the Load Intake takes a place (R148). -/
def giveCommit (c : Ctl) : Ctl :=
  if storeRoom c.store then
    (queueRequest (.header c.load.bank (.commit c.load.number) none) c).onLoad (fun l => { l with commit := .queued })
  else c.onLoad (fun l => { l with commit := .waiting })

/-! ## The engine (R122 to R124, R129 to R136) -/

/-- The bank's state and the key accept appends and voids (R126). -/
def acceptsWrites (c : Ctl) (bk : Bank) : Bool :=
  decide ((bankRec c bk).header.state = .filling) ||
  (decide ((bankRec c bk).header.state = .active) && c.panel.cond.maintenance)

def clearable (c : Ctl) (bk : Bank) : Bool :=
  decide ((bankRec c bk).header.state = .filling) || decide ((bankRec c bk).header.state = .retired)

/-- The first page of a bank that is INCOMPLETE or FAILED (R135). -/
def badPage (r : BankRec) : Option Nat :=
  (upTo 16).find? (fun p => decide ((pageAt r p).cond = .incomplete) || decide ((pageAt r p).cond = .failed))

def startOp (op : EngineOp) (c : Ctl) : Ctl := c.onStore (fun s => { s with op := some op, opStart := c.clock })

def setChange (bk : Bank) (p : Pending) (c : Ctl) : Ctl := modBank bk (fun r => { r with change := p }) c

/-- The engine carries out nothing for a request and goes on. -/
def again (c : Ctl) : Ctl := pushOnce .engine c

/-- Why the engine does not carry out a request for a bank: its fault flag, or its state (R124, R126). -/
def engineRefusal (c : Ctl) (bk : Bank) (accepts : Bool) : Option Reason :=
  if (bankRec c bk).fault then some .storeFault else if !accepts then some .isProtected else none

/-- A direct append reaches the engine (R129). R129 gives BANK_FULL for an append point that failed pages took away; that
one taken away by the selection of pages for an erase (R133) ends the append in the same way, between page erases too, is
the model's choice (log entry 17). -/
def startAppend (bk : Bank) (e : EntryRec) (ref : Ref) (c : Ctl) : Ctl :=
  match engineRefusal c bk (acceptsWrites c bk), appendPoint c.store bk with
  | some r, _ => again (storeFailed (.entry bk e.id) r (some ref) c)
  | none, none => again (storeFailed (.entry bk e.id) .bankFull (some ref) c)
  | none, some k => startOp (.slotWrite bk k e 0 (some ref)) c

/-- A slot write of the Load Intake reaches the engine (R144): refused by the fault flag it completes with the alarm of
R124, without a reference and with the entry as its subject, the model's choice (log entry 38); PROTECTED and BANK_FULL raise
none. -/
def startBurstWrite (bk : Bank) (e : EntryRec) (burst : Nat) (c : Ctl) : Ctl :=
  match engineRefusal c bk (decide ((bankRec c bk).header.state = .filling)), appendPoint c.store bk with
  | some .storeFault, _ =>
    again (intakeWriteEnded bk burst (some .storeFault) (storeFailed (.entry bk e.id) .storeFault none c))
  | some r, _ => again (intakeWriteEnded bk burst (some r) c)
  | none, none => again (intakeWriteEnded bk burst (some .bankFull) c)
  | none, some k => startOp (.slotWrite bk k e burst none) c

/-- A void reaches the engine (R130). -/
def startVoid (bk : Bank) (id : Nat) (ref : Ref) (c : Ctl) : Ctl :=
  match engineRefusal c bk (acceptsWrites c bk), findValid (bankRec c bk) id with
  | some r, _ => again (storeFailed (.entry bk id) r (some ref) c)
  | none, none => again (storeFailed (.entry bk id) .badRecord (some ref) c)
  | none, some w => startOp (.void bk w.1 id ref) c

/-- The merged orders of an erase fail. -/
def failOrders (subject : Subject) (r : Reason) (refs : List Ref) (c : Ctl) : Ctl :=
  forEach refs (fun f c => storeFailed subject r (some f) c) c

def startErase (bk : Bank) (pages : List Nat) (refs : List Ref) (c : Ctl) : Ctl :=
  match engineRefusal c bk (decide ((bankRec c bk).header.state = .filling)) with
  | some r => again (failOrders (bankSubject c bk) r refs c)
  | none => again (c.onStore (fun s =>
      { s with eraseJob := some { bank := bk, isClear := false, pages := pages, done := 0, refs := refs, serve := 0 } }))

/-- BANK_CLEAR reaches the engine (R136). -/
def startClear (bk : Bank) (ref : Ref) (c : Ctl) : Ctl :=
  match engineRefusal c bk (clearable c bk) with
  | some r => again (setChange bk .none (storeFailed (bankSubject c bk) r (some ref) c))
  | none => again (c.onStore (fun s =>
      { s with eraseJob := some { bank := bk, isClear := true, pages := upTo 16, done := 0, refs := [ref], serve := 0 } }))

/-- Why a header write is not made when it reaches the engine (R124, R126, R135, R148). -/
def headerRefusal (c : Ctl) (bk : Bank) (ch : HeaderChange) : Option Reason :=
  match ch with
  | .create _ _ => engineRefusal c bk (decide ((bankRec c bk).header.state = .blank))
  | .seal =>
    (match engineRefusal c bk (decide ((bankRec c bk).header.state = .filling)) with
     | some r => some r
     | none => if (badPage (bankRec c bk)).isSome then some .storeFault else none)
  | .commit _ => engineRefusal c bk (decide ((bankRec c bk).header.state = .filling))
  | .recordRetired => engineRefusal c bk true
  | _ => none

/-- The open bank is closed; the burst of the bank is abandoned (R125, R149). -/
def closeBank (c : Ctl) : Ctl :=
  match c.store.openBank with
  | some bk => abandonOn bk .notOpen (c.onStore (fun s => { s with openBank := none }))
  | none => c

/-- The subject of a header write's report: the bank with the season of its header, or of the creation. R127 gives subjects for
orders only: that the alarm of a header write which serves no order, a burst's commit, a write of an activation or the record
of a retirement that the store check found, has this subject too is the model's choice (log entry 38). -/
def headerSubject (c : Ctl) (bk : Bank) (ch : HeaderChange) : Subject :=
  match ch with
  | .create season _ => .bank bk season
  | _ => bankSubject c bk

/-- A header write that is not made, or exceeded its limit, ends: its change is no longer pending (R116), and its order
or the Load Intake is told. -/
def headerFailed (bk : Bank) (ch : HeaderChange) (ref : Option Ref) (r : Reason) (alarm : Bool) (c : Ctl) : Ctl :=
  let c := if alarm then storeFailed (headerSubject c bk ch) r ref c else c
  match ch with
  | .commit n => commitEnded bk n (some r) c
  | .recordRetired => c
  | _ => setChange bk .none c

/-- A SEAL that the engine does not carry out because of a page leaves the bank closed, though it was opened anew while the
SEAL waited (R135). -/
def closeUnsealed (bk : Bank) (ch : HeaderChange) (r : Reason) (c : Ctl) : Ctl :=
  if ch = .seal ∧ r = .storeFault ∧ (badPage (bankRec c bk)).isSome ∧ c.store.openBank = some bk then closeBank c else c

/-- A header write reaches the engine. One that is refused completes with ALARM STORE_FAILED (R124), without a reference
for a burst's commit; a commit refused PROTECTED is told the Load Intake alone (R148). -/
def startHeader (bk : Bank) (ch : HeaderChange) (ref : Option Ref) (c : Ctl) : Ctl :=
  match headerRefusal c bk ch with
  | some r =>
    again (closeUnsealed bk ch r
      (headerFailed bk ch ref r (match ch with | .commit _ => decide (r = .storeFault) | _ => true) c))
  | none => startOp (.header bk ch ref) c

/-- A site save starts (R13, R15): it takes the image of the working copy and erases its target. -/
def startSave (ref : Ref) (c : Ctl) : Ctl :=
  let second := writesImage2 SiteImage.saveNumber c.site.image1 c.site.image2
  let number := nextNumber ((latestSite c.site).map (·.saveNumber))
  startOp (.siteSave second c.site.work number ref) (c.onSite (fun s =>
    if second then { s with image2 := none, unsaved := false } else { s with image1 := none, unsaved := false }))

/-- A request reaches the engine. -/
def startRequest (r : StoreReq) (c : Ctl) : Ctl :=
  match r with
  | .append bk e ref => startAppend bk e ref c
  | .void bk id ref => startVoid bk id ref c
  | .erase bk pages refs _ => startErase bk pages refs c
  | .header bk ch ref => startHeader bk ch ref c
  | .clear bk ref => startClear bk ref c
  | .siteSave ref => startSave ref c
  | .loadWrite bk e n => startBurstWrite bk e n c

/-- An erase or clear ends before its remaining pages: its orders fail (R133, R136). -/
def eraseStops (j : EraseJob) (c : Ctl) : Ctl :=
  let c := failOrders (bankSubject c j.bank) .storeFault j.refs (c.onStore (fun s => { s with eraseJob := none }))
  if j.isClear then setChange j.bank .none c else c

/-- The erase of a page of an erase or clear; a page with failure count 2 stays FAILED for the rest of the run, so that
the erase fails on it (R118). -/
def startPageErase (j : EraseJob) (page : Nat) (c : Ctl) : Ctl :=
  if (pageAt (bankRec c j.bank) page).failures = 2 then again (eraseStops j c) else startOp (.erasePage j.bank page) c

/-- A request may be served between the page erases of an erase: a slot write or void whose page is not selected
(R133). -/
def servedBetween (s : Store) (r : StoreReq) : Bool :=
  match r with
  | .append _ _ _ => true
  | .loadWrite _ _ _ => true
  | .void bk id _ =>
    (match findValid (s.bank bk) id with
     | some w => !decide (pageOfKey w.1 ∈ selectedPages s bk)
     | none => true)
  | _ => false

/-- The free engine takes its next work: between page erases the requests R133 gives and then the next page; otherwise
the activation place, then the head of the queue, passing over an erase whose window is open. The place that a request
gives back goes to a Load Intake that waits for one, before any order: the model's choice (R122, log entry 17). -/
def engine (c : Ctl) : Ctl :=
  if c.store.op.isSome then c
  else match c.store.eraseJob with
    | some j =>
      (match (if j.isClear then none else (c.store.queue.take j.serve).find? (servedBetween c.store)) with
       | some r => startRequest r (pushOnce .intake (c.onStore (fun s => { s with
           queue := dropFirst (fun x => decide (x = r)) s.queue
           eraseJob := some { j with serve := j.serve - 1 } })))
       | none =>
         (match j.pages with
          | p :: _ => startPageErase j p c
          | [] => again (c.onStore (fun s => { s with eraseJob := none }))))
    | none =>
      match c.store.activation with
      | (bk, ch) :: rest => startOp (.header bk ch none) (c.onStore (fun s => { s with activation := rest }))
      | [] =>
        match c.store.queue with
        | .erase _ _ _ true :: _ => c
        | r :: rest => startRequest r (pushOnce .intake (c.onStore (fun s => { s with queue := rest })))
        | [] => c

/-! ## Ends of operations -/

/-- The operation in progress is over, at an instant not before `t`. The engine's next step is noted before what follows from
the operation's end: that after a SEAL whose epoch is past the next queued request starts ahead of the activation, which
R122 has the engine take before any request as soon as it is free, is the model's choice (log entry 16). -/
def endOp (t : Millis) (c : Ctl) : Ctl := again ((clockReaches t c).onStore (fun s => { s with op := none }))

def writeSlot (k : Nat) (x : Slot) (r : BankRec) : BankRec := { r with slots := tset k x r.slots }

/-- A slot is written in a page (R118). -/
def pageWritten (page : Nat) (r : BankRec) : BankRec :=
  if (pageAt r page).cond = .erased then setPage page { pageAt r page with cond := .inUse } r else r

/-- A page becomes FAILED (R118). -/
def pageFailed (page : Nat) (r : BankRec) : BankRec :=
  setPage page { pageAt r page with cond := .failed, failures := min 2 ((pageAt r page).failures + 1) } r

def raiseFault (bk : Bank) (c : Ctl) : Ctl := modBank bk (fun r => { r with fault := true }) c

/-- A slot write completes (R129). -/
def slotWritten (bk : Bank) (k : Nat) (e : EntryRec) (burst : Nat) (ref : Option Ref) (c : Ctl) : Ctl :=
  let c := modBank bk (fun r => pageWritten (pageOfKey k) (writeSlot k
    { content := .record e, burst := burst, written := true, voidMark := false, workVoid := false } r)) c
  match ref with
  | some ref =>
    let c := storeDone (.entry bk e.id) ref c
    if (bankRec c bk).header.state = .active then push [.appended bk e] c else c
  | none => intakeWriteEnded bk burst none c

/-- The burst number a spoiled slot holds is not stated: a free value (R119, R123). -/
def spoiledBurst (free : Nat) : Nat := freeBelow 256 free

/-- A slot write exceeds its limit (R123): the slot is spoiled. That the alarm of a slot write of the Load Intake, which serves no
order, has the entry as its subject is the model's choice (log entry 38). -/
def slotSpoiled (bk : Bank) (k : Nat) (e : EntryRec) (burst : Nat) (ref : Option Ref) (c : Ctl) : Ctl :=
  let c := drawFree 23 (modBank bk (fun r => pageFailed (pageOfKey k) (writeSlot k
    { content := .garbled c.free, burst := spoiledBurst (c.free + 22), written := false, voidMark := false, workVoid := true } r)) c)
  let c := storeFailed (.entry bk e.id) .storeFault ref (raiseFault bk c)
  match ref with
  | some _ => c
  | none => intakeWriteEnded bk burst (some .storeFault) c

def modSlot (k : Nat) (f : Slot → Slot) (r : BankRec) : BankRec := { r with slots := tmod k f r.slots }

/-- A void completes (R130). -/
def slotVoided (bk : Bank) (k id : Nat) (ref : Ref) (c : Ctl) : Ctl :=
  let c := storeDone (.entry bk id) ref (modBank bk (modSlot k (fun x => { x with voidMark := true, workVoid := true })) c)
  if (bankRec c bk).header.state = .active then push [.voided bk id] c else c

/-- A void exceeds its limit (R123): its void mark is uncertain, a free value. -/
def voidFailed (bk : Bank) (k id : Nat) (ref : Ref) (c : Ctl) : Ctl :=
  storeFailed (.entry bk id) .storeFault (some ref) (raiseFault bk (drawFree 1 (modBank bk (fun r =>
    pageFailed (pageOfKey k) (modSlot k (fun x => { x with voidMark := Config.freeBit c.free, workVoid := true }) r)) c)))

/-- The erase or clear has erased its last page (R133, R136). -/
def eraseEnded (j : EraseJob) (c : Ctl) : Ctl :=
  let c := c.onStore (fun s => { s with eraseJob := none })
  if j.isClear then startOp (.header j.bank .clear j.refs.head?) c
  else again (forEach j.refs (fun f c => storeDone (bankSubject c j.bank) f c) c)

/-- One page erase completes (R133). -/
def pageErased (bk : Bank) (page : Nat) (c : Ctl) : Ctl :=
  let c := modBank bk (fun r => setPage page
    { cond := .erased, failures := (pageAt r page).failures, eraseMark := true, allVoid := false }
    { r with slots := r.slots.filter (fun p => pageOfKey p.1 != page) }) c
  match c.store.eraseJob with
  | none => again c
  | some j =>
    let j := { j with pages := j.pages.filter (fun p => p != page), done := j.done + 1, serve := c.store.queue.length }
    if j.pages.isEmpty then eraseEnded j c else again (c.onStore (fun s => { s with eraseJob := some j }))

/-- A page erase that did not end leaves its erase mark absent; what is left of its slots is a free value each. -/
def cutErase (bk : Bank) (page : Nat) (c : Ctl) : Ctl :=
  drawFree 2048 (modBank bk (fun r => setPage page { pageAt r page with eraseMark := false, allVoid := true }
    { r with slots := r.slots.filter (fun p => pageOfKey p.1 != page || Config.freeBit (c.free + p.1)) }) c)

/-- A page erase exceeds its limit (R123, R133, R136): the erase ends there. -/
def eraseFailed (bk : Bank) (page : Nat) (c : Ctl) : Ctl :=
  let c := raiseFault bk (modBank bk (pageFailed page) (cutErase bk page c))
  match c.store.eraseJob with
  | none => c
  | some j => eraseStops j c

/-- The header a change writes. -/
def changedHeader (ch : HeaderChange) (h : Header) : Header :=
  match ch with
  | .create season epoch => { season := some season, epoch := some epoch, state := .filling, commits := [] }
  | .seal => { h with state := .standby }
  | .clear => Header.blank
  | .retire => { h with state := .retired }
  | .activate => { h with state := .active }
  | .commit n => { h with commits := h.commits ++ [n] }
  | .recordRetired => { h with state := .retired }

/-- A header write completes (R116, R117): the image is programmed and the working header takes the change. The activation of
a SEAL whose epoch is past follows in the same instant, behind the engine's next step: the model's choice (R122, R135, log
entry 16). -/
def headerWritten (bk : Bank) (ch : HeaderChange) (ref : Option Ref) (c : Ctl) : Ctl :=
  let subject := headerSubject c bk ch
  let c := modBank bk (fun r =>
    let h := changedHeader ch r.header
    { programHeader h r with header := h }) c
  let done := fun (c : Ctl) => match ref with
    | some f => storeDone subject f c
    | none => c
  match ch with
  | .create _ _ => done (modBank bk (fun r => { r with change := .none, highest := 0 }) c)
  | .clear => done (modBank bk (fun r => { r with change := .none, highest := 0 }) c)
  | .seal => push [.activation] ((done (setChange bk .none c)).onPlan (fun p =>
      { p with watch := (bankRec c bk).header.epoch }))
  | .commit n => commitEnded bk n none c
  | .recordRetired => c
  | _ => setChange bk .none c

/-- A site save succeeds (R14). -/
def saveDone (second : Bool) (t : Tables) (number : Nat) (ref : Ref) (c : Ctl) : Ctl :=
  storeDone .siteArea ref (c.onSite (fun s =>
    let i : SiteImage := { tables := t, saveNumber := number }
    if second then { s with image2 := some i } else { s with image1 := some i }))

/-- A site save exceeds its limit (R14, R15). The detail of its alarm is not stated: a free value (log entry 23). -/
def saveFailed (ref : Ref) (c : Ctl) : Ctl :=
  raise .storeFailed .siteArea (freeBelow 256 c.free) 0 none (some ref)
    (drawFree 1 (c.onSite (fun s => { s with unsaved := true })))

/-- A store operation's limit expires (R123). -/
def storeLimit (c : Ctl) : Ctl :=
  match c.store.op with
  | some (.slotWrite bk k e n ref) => slotSpoiled bk k e n ref (endOp (c.store.opStart + Config.markLimit) c)
  | some (.void bk k id ref) => voidFailed bk k id ref (endOp (c.store.opStart + Config.markLimit) c)
  | some (.erasePage bk page) => eraseFailed bk page (endOp (c.store.opStart + Config.eraseLimit) c)
  | some (.header bk ch ref) =>
    headerFailed bk ch ref .storeFault true
      (raiseFault bk (modBank bk spoilHeader (endOp (c.store.opStart + Config.markLimit) c)))
  | _ => c

/-! ## Orders: common tests (R127) -/

/-- A store order is refused. -/
def refuseOrder (o : OwnOrder) (verb : Nat) (r : Reason) (detail : List Byte) (c : Ctl) : Ctl :=
  answerRefused o.src o.tag verb r.code detail c

/-- An accepted order is answered ACCEPTED and its request queued. -/
def acceptRequest (o : OwnOrder) (verb : Nat) (r : StoreReq) (c : Ctl) : Ctl :=
  queueRequest r (answerAccepted o.src o.tag verb c)

/-- Station and tag of an order. -/
def orderRef (o : OwnOrder) : Ref := { station := o.src, tag := o.tag }

/-- Steps 3 to 5 of R127: the open bank, the state and the key, the fault flag. -/
def writeTests (c : Ctl) (bk : Bank) (accepts : Bool) : Option Reason :=
  if c.store.openBank ≠ some bk then some .notOpen
  else if !accepts then some .isProtected
  else if (bankRec c bk).fault then some .storeFault
  else none

/-! ## Entry checks (R128) -/

/-- The structure check an entry fails, 1 to 12. -/
def structureFault (e : EntryRec) : Option Nat :=
  if !(1 ≤ e.id ∧ e.id ≤ 65535) then some 1
  else if e.days % 128 = 0 then some 2
  else if !(e.start % 5 = 0 ∧ e.start ≤ 1435) then some 3
  else if !(e.duration % 5 = 0 ∧ 15 ≤ e.duration ∧ e.duration ≤ 1440) then some 4
  else if (match e.validFrom, e.validTo with | some f, some t => decide (t < f) | _, _ => false) then some 5
  else if !(1 ≤ e.tx ∧ e.tx ≤ 24) then some 6
  else if !(1 ≤ e.ant ∧ e.ant ≤ 40) then some 7
  else if !(e.freq % 5 = 0 ∧ 2300 ≤ e.freq ∧ e.freq ≤ 26100) then some 8
  else if !(1 ≤ e.power ∧ e.power ≤ 999) then some 9
  else if !(1 ≤ e.feed ∧ e.feed ≤ 32) then some 10
  else if 15 < e.priority then some 11
  else if e.spare ≠ 0 then some 12
  else none

/-- A void for an id waits in the store queue. -/
def voidWaits (s : Store) (bk : Bank) (id : Nat) : Bool :=
  s.queue.any (fun r => match r with
    | .void k i _ => decide (k = bk) && decide (i = id)
    | _ => false)

/-- A slot write for an id waits in the store queue; one of the Load Intake counts as an append: the model's reading of R128
(log entry 17). -/
def appendWaits (s : Store) (bk : Bank) (id : Nat) : Bool :=
  s.queue.any (fun r => match r with
    | .append k e _ => decide (k = bk) && decide (e.id = id)
    | .loadWrite k e _ => decide (k = bk) && decide (e.id = id)
    | _ => false)

/-- The id is held, for the duplicate test of a direct append (R128). R144 counts the burst's write in hand for the test, and
R128 names the appends that wait in the queue: that for a direct append the write in hand counts while it stands in the
queue, and neither while it is WAITING for a place nor in the engine, is the model's choice (log entry 17). -/
def idHeld (c : Ctl) (bk : Bank) (id : Nat) : Bool :=
  (((findValid (bankRec c bk) id).isSome || (openRecords c bk).any (fun w => w.2.id == id)) &&
    !voidWaits c.store bk id) || appendWaits c.store bk id

/-- The id is held, for the duplicate test of a burst's record: a void that waits frees the id of a valid record (R128),
but not one that the burst's own provisional records hold (R144, log entry 17). -/
def burstIdHeld (c : Ctl) (bk : Bank) (id : Nat) : Bool :=
  idHeld c bk id || (openRecords c bk).any (fun w => w.2.id == id)

/-- The site-table tests of an entry (R128), which the Plan Unit repeats (R158). -/
def siteTests (t : Tables) (e : EntryRec) : Option Reason :=
  match tget e.tx t.tx, tget e.ant t.ant with
  | some x, some a =>
    if !x.inService then some .unknownPlant
    else match bandOf t e.freq with
      | none => some .outOfBand
      | some k =>
        if ratingOf t e.ant k = 0 then some .bandUnrated
        else if (mapBearing t a e.bearing).isNone then some .outOfTravel
        else none
  | _, _ => some .unknownPlant

/-- The tests against the bank and the site tables, in their order (R128), after the duplicate test. -/
def entryTests (c : Ctl) (bk : Bank) (e : EntryRec) (held : Bool) : Option Reason :=
  if held then some .duplicateId
  else match siteTests c.site.work e with
    | some r => some r
    | none => if freeCount c.store bk = 0 then some .bankFull else none

/-! ## The orders -/

/-- The bank that an order's payload names first, with the rest of the payload. -/
def orderBank (p : List Byte) : Option (Bank × List Byte) :=
  match p with
  | k :: rest => (bankOfCode k.toNat).map (fun bk => (bk, rest))
  | [] => none

/-- STORE_OPEN (R125). A bank code that is neither A 1 nor B 2 is refused BAD_RECORD, check 0, and of its answer and that of a
close pending on the bank it closes, its own is formed first: the model's choices (log entries 5 and 38). -/
def storeOpen (o : OwnOrder) (c : Ctl) : Ctl :=
  if c.start.phase ≠ .running then refuseOrder o 42 .survey [] c
  else match orderBank o.payload with
    | some (bk, [s1, s2]) =>
      let r := bankRec c bk
      if r.header.state = .blank ∨ r.header.season ≠ some (rd2 s1 s2) then
        closeBank (refuseOrder o 42 .wrongSeason [] c)
      else if r.change = .clear then refuseOrder o 42 .erasing [] c
      else if c.store.openBank = some bk then answerDone o.src o.tag 42 [] c
      else (closeBank (answerDone o.src o.tag 42 [] c)).onStore (fun s => { s with openBank := some bk })
    | _ => refuseOrder o 42 .badRecord (u8 0) c

/-- STORE_CLOSE (R125). Its answer is formed before that of a close pending on the bank: the model's choice (log entry 38). That
it is answered DONE before RUNNING too is the model's choice (log entry 43): R125 asks nothing of the phase, and section 11.3
has the owners of orders that change state refuse SURVEY, without STORE_CLOSE among those it has answered. -/
def storeClose (o : OwnOrder) (c : Ctl) : Ctl := closeBank (answerDone o.src o.tag 43 [] c)

/-- The tests of BANK_CREATE behind the bank code (R134). -/
def createTests (c : Ctl) (bk : Bank) (season second : Nat) : Option (Reason × List Byte) :=
  if season = 0 ∨ 86400 ≤ second then some (.badRecord, u8 0)
  else if (bankRec c (otherBank bk)).header.season = some season then some (.badRecord, u8 1)
  else if (bankRec c bk).header.state ≠ .blank then some (.isProtected, [])
  else if (bankRec c bk).change ≠ .none then some (.busy, [])
  else if !storeRoom c.store then some (.busy, [])
  else none

/-- BANK_CREATE (R134). -/
def bankCreate (o : OwnOrder) (c : Ctl) : Ctl :=
  if c.start.phase ≠ .running then refuseOrder o 44 .survey [] c
  else match orderBank o.payload with
    | some (bk, [n1, n2, d1, d2, s1, s2, s3]) =>
      (match createTests c bk (rd2 n1 n2) (rd3 s1 s2 s3) with
       | some (r, d) => refuseOrder o 44 r d c
       | none => setChange bk .create (acceptRequest o 44
           (.header bk (.create (rd2 n1 n2) (siteTime (rd2 d1 d2) (rd3 s1 s2 s3))) (some (orderRef o))) c))
    | _ => refuseOrder o 44 .badRecord (u8 0) c

/-- BANK_SEAL's own tests (R135). -/
def sealTests (c : Ctl) (bk : Bank) : Option (Reason × List Byte) :=
  if c.load.openOn bk then some (.burstActive, [])
  else match badPage (bankRec c bk) with
    | some p => some (.storeFault, u8 p)
    | none =>
      if (bankRec c (otherBank bk)).header.state = .standby ∨ (bankRec c (otherBank bk)).change = .seal then
        some (.isProtected, [])
      else if (bankRec c bk).change ≠ .none then some (.busy, [])
      else if !storeRoom c.store then some (.busy, [])
      else none

/-- BANK_SEAL (R135): the bank's open state ends at once. -/
def bankSeal (o : OwnOrder) (c : Ctl) : Ctl :=
  if c.start.phase ≠ .running then refuseOrder o 45 .survey [] c
  else match orderBank o.payload with
    | some (bk, []) =>
      (match writeTests c bk (decide ((bankRec c bk).header.state = .filling)) with
       | some r => refuseOrder o 45 r [] c
       | none =>
         (match sealTests c bk with
          | some (r, d) => refuseOrder o 45 r d c
          | none => setChange bk .seal (acceptRequest o 45 (.header bk .seal (some (orderRef o))) (closeBank c))))
    | _ => refuseOrder o 45 .badRecord (u8 0) c

/-- The first page with failure count 2. -/
def spentPage (r : BankRec) (pages : List Nat) : Option Nat := pages.find? (fun p => (pageAt r p).failures == 2)

/-- BANK_CLEAR's tests (R136). -/
def clearTests (c : Ctl) (bk : Bank) : Option (Reason × List Byte) :=
  if !clearable c bk then some (.isProtected, [])
  else if (bankRec c bk).fault then some (.storeFault, [])
  else if (spentPage (bankRec c bk) (upTo 16)).isSome then some (.storeFault, [])
  else if (bankRec c bk).change ≠ .none then some (.busy, [])
  else if !storeRoom c.store then some (.busy, [])
  else none

/-- BANK_CLEAR (R136): the open state ends at once, and the bank's burst is abandoned. A close pending on the bank is answered
before the order: the model's choice (log entry 38). -/
def bankClear (o : OwnOrder) (c : Ctl) : Ctl :=
  if c.start.phase ≠ .running then refuseOrder o 46 .survey [] c
  else match orderBank o.payload with
    | some (bk, []) =>
      (match clearTests c bk with
       | some (r, d) => refuseOrder o 46 r d c
       | none =>
         let c := if c.store.openBank = some bk then closeBank c else c
         setChange bk .clear (acceptRequest o 46 (.clear bk (orderRef o)) (abandonOn bk .notOpen c)))
    | _ => refuseOrder o 46 .badRecord (u8 0) c

/-- ENTRY_APPEND's own tests (R128). -/
def appendTests (c : Ctl) (bk : Bank) (e : EntryRec) : Option (Reason × List Byte) :=
  match structureFault e with
  | some n => some (.badRecord, u8 n)
  | none =>
    match entryTests c bk e (idHeld c bk e.id) with
    | some r => some (r, [])
    | none => if storeRoom c.store then none else some (.busy, [])

/-- ENTRY_APPEND (R128). -/
def entryAppend (o : OwnOrder) (c : Ctl) : Ctl :=
  if c.start.phase ≠ .running then refuseOrder o 47 .survey [] c
  else match (orderBank o.payload).bind (fun x => (parseEntry x.2).map (fun e => (x.1, e))) with
    | some (bk, e) =>
      (match writeTests c bk (acceptsWrites c bk) with
       | some r => refuseOrder o 47 r [] c
       | none =>
         (match appendTests c bk e with
          | some (r, d) => refuseOrder o 47 r d c
          | none => acceptRequest o 47 (.append bk e (orderRef o)) c))
    | none => refuseOrder o 47 .badRecord (u8 0) c

/-- ENTRY_VOID's own tests (R130). -/
def voidTests (c : Ctl) (bk : Bank) (id : Nat) : Option (Reason × List Byte) :=
  match (if voidWaits c.store bk id then none else findValid (bankRec c bk) id) with
  | none => if (openRecords c bk).any (fun w => w.2.id == id) then some (.burstActive, []) else some (.badRecord, u8 0)
  | some w =>
    if pageOfKey w.1 ∈ selectedPages c.store bk then some (.erasing, [])
    else if storeRoom c.store then none else some (.busy, [])

/-- ENTRY_VOID (R130). -/
def entryVoid (o : OwnOrder) (c : Ctl) : Ctl :=
  if c.start.phase ≠ .running then refuseOrder o 48 .survey [] c
  else match orderBank o.payload with
    | some (bk, [i1, i2]) =>
      (match writeTests c bk (acceptsWrites c bk) with
       | some r => refuseOrder o 48 r [] c
       | none =>
         (match voidTests c bk (rd2 i1 i2) with
          | some (r, d) => refuseOrder o 48 r d c
          | none => acceptRequest o 48 (.void bk (rd2 i1 i2) (orderRef o)) c))
    | _ => refuseOrder o 48 .badRecord (u8 0) c

/-- The pages of a mask, page 1 in the least significant bit (R41). -/
def maskPages (m : Nat) : List Nat := (upTo 16).filter (fun p => m.testBit (p - 1))

/-- The erase window open for a bank. -/
def windowOpenFor (s : Store) (bk : Bank) : Bool :=
  s.queue.any (fun r => match r with
    | .erase k _ _ true => decide (k = bk)
    | _ => false)

/-- PAGE_ERASE's own tests (R132). -/
def eraseTests (c : Ctl) (bk : Bank) (pages : List Nat) : Option (Reason × List Byte) :=
  if c.load.openOn bk then some (.burstActive, [])
  else match spentPage (bankRec c bk) pages with
    | some p => some (.storeFault, u8 p)
    | none => if windowOpenFor c.store bk || storeRoom c.store then none else some (.busy, [])

/-- An accepted PAGE_ERASE acts on the erase window (R132). -/
def selectPages (bk : Bank) (pages : List Nat) (ref : Ref) (c : Ctl) : Ctl :=
  if windowOpenFor c.store bk then
    c.onStore (fun s => { s with
      window := some c.clock
      queue := s.queue.map (fun r =>
        match r with
        | .erase k ps refs true => .erase k (pages.foldl (fun l p => nins p l) ps) (refs ++ [ref]) true
        | r => r) })
  else (queueRequest (.erase bk pages [ref] true) c).onStore (fun s => { s with window := some c.clock })

/-- PAGE_ERASE (R132). -/
def pageErase (o : OwnOrder) (c : Ctl) : Ctl :=
  if c.start.phase ≠ .running then refuseOrder o 49 .survey [] c
  else match orderBank o.payload with
    | some (bk, [m1, m2]) =>
      let pages := maskPages (rd2 m1 m2)
      if pages.isEmpty then refuseOrder o 49 .badRecord (u8 0) c
      else
        (match writeTests c bk (decide ((bankRec c bk).header.state = .filling)) with
         | some r => refuseOrder o 49 r [] c
         | none =>
           (match eraseTests c bk pages with
            | some (r, d) => refuseOrder o 49 r d c
            | none => selectPages bk pages (orderRef o) (answerAccepted o.src o.tag 49 c)))
    | _ => refuseOrder o 49 .badRecord (u8 0) c

/-- STORE_FAULT_CLEAR (R124). -/
def storeFaultClear (o : OwnOrder) (c : Ctl) : Ctl :=
  if c.start.phase ≠ .running then refuseOrder o 51 .survey [] c
  else match orderBank o.payload with
    | some (bk, []) => modBank bk (fun r => { r with fault := false }) (answerDone o.src o.tag 51 [] c)
    | _ => refuseOrder o 51 .badRecord (u8 0) c

/-- SITE_SAVE (R13). -/
def siteSave (o : OwnOrder) (c : Ctl) : Ctl :=
  if c.start.phase ≠ .running then refuseOrder o 41 .survey [] c
  else if storeRoom c.store then acceptRequest o 41 (.siteSave (orderRef o)) c
  else refuseOrder o 41 .busy [] c

/-! ## Reading the store (R131, R137) -/

def SlotState.code : SlotState → Nat
  | .empty => 1 | .written => 2 | .void => 3

/-- The standing of a slot, by R120: VALID 1, PROVISIONAL 2, ABSENT 3. A WRITTEN record whose burst is neither committed
nor open, which R120 calls provisional and counts as absent, is given as ABSENT: the model's choice (log entry 6). -/
def standingCode (c : Ctl) (bk : Bank) (k : Nat) : Nat :=
  match writtenAt (bankRec c bk) k with
  | some (_, n) =>
    if validBurst (bankRec c bk) n then 1 else if c.load.openOn bk ∧ c.load.number = n then 2 else 3
  | none => 3

/-- A slot as ENTRY_READ returns it. An EMPTY slot carries no burst number (R119), and its octet is all ones (R39): the
model's reading (log entry 6). The burst number and octets of a VOID slot that holds nothing, in a page whose erase failed,
are free values. -/
def slotOctets (c : Ctl) (bk : Bank) (k : Nat) : List Byte :=
  let st := slotState (bankRec c bk) k
  let x := tget k (bankRec c bk).slots
  let burst := match x with
    | some s => s.burst
    | none => freeBelow 256 c.free
  let record := match x with
    | some s => contentOctets s.content
    | none => if st = .empty then [] else contentOctets (.garbled c.free)
  u8 st.code ++ opt1 (if st = .empty then none else some burst) ++ u8 (standingCode c bk k) ++ record

/-- The slot of the record holding an id: the valid one, or failing that the open burst's provisional one (R131). -/
def slotOfId (c : Ctl) (bk : Bank) (id : Nat) : Option Nat :=
  match findValid (bankRec c bk) id with
  | some w => some w.1
  | none => ((openRecords c bk).find? (fun w => w.2.id == id)).map (·.1)

/-- ENTRY_READ (R131): bank, id, page and slot; page and slot all ones for a read by id (log entry 14). A bank code that is
neither A 1 nor B 2 is refused BAD_RECORD, check 0, as R131 has it for a position: the model's choice (log entry 5). -/
def entryRead (o : OwnOrder) (c : Ctl) : Ctl :=
  if !c.store.checked then refuseOrder o 52 .survey [] c
  else match orderBank o.payload with
    | some (bk, [i1, i2, pg, sl]) =>
      if pg.toNat = 0xFF ∧ sl.toNat = 0xFF then
        (match slotOfId c bk (rd2 i1 i2) with
         | some k => answerDone o.src o.tag 52 (slotOctets c bk k) c
         | none => refuseOrder o 52 .badRecord (u8 0) c)
      else if 1 ≤ pg.toNat ∧ pg.toNat ≤ 16 ∧ 1 ≤ sl.toNat ∧ sl.toNat ≤ 128 then
        drawFree 22 (answerDone o.src o.tag 52 (slotOctets c bk (slotKey pg.toNat sl.toNat)) c)
      else refuseOrder o 52 .badRecord (u8 0) c
    | _ => refuseOrder o 52 .badRecord (u8 0) c

def BankState.code : BankState → Nat
  | .blank => 1 | .filling => 2 | .standby => 3 | .active => 4 | .retired => 5
def Pending.code : Pending → Nat
  | .none => 1 | .create => 2 | .seal => 3 | .clear => 4 | .activate => 5
def PageCond.code : PageCond → Nat
  | .erased => 1 | .inUse => 2 | .incomplete => 3 | .failed => 4

/-- The engine phase: IDLE 1, WINDOW 2, ERASING 3 with n, k, bank and page, WRITING 4; those four are absent in the other
phases (R39). -/
def enginePhase (s : Store) : List Byte :=
  match s.op with
  | some (.erasePage bk page) =>
    let j := s.eraseJob
    u8 3 ++ opt1 (j.map (fun j => j.done + 1)) ++ opt1 (j.map (fun j => j.done + j.pages.length)) ++
    u8 (bankCode bk) ++ u8 page
  | some _ => u8 4 ++ opt1 none ++ opt1 none ++ opt1 none ++ opt1 none
  | none => u8 (if s.window.isSome then 2 else 1) ++ opt1 none ++ opt1 none ++ opt1 none ++ opt1 none

/-- The slots of a bank in a state: by page, then slot. -/
def countSlots (r : BankRec) (st : SlotState) : Nat :=
  ((List.range 2048).filter (fun k => decide (slotState r k = st))).length

/-- One bank's items of STORE_STATUS. -/
def bankOctets (c : Ctl) (bk : Bank) : List Byte :=
  let r := bankRec c bk
  u8 r.header.state.code ++ opt2 r.header.season ++ timeOctets r.header.epoch ++ u8 r.header.commits.length ++
  yesNo r.fault ++ u8 r.change.code ++
  (match appendPoint c.store bk with
   | some k => u8 (pageOfKey k) ++ u8 (slotOfKey k)
   | none => u8 0xFF ++ u8 0xFF) ++
  be2 (freeCount c.store bk) ++ be2 (validRecords r).length ++
  be2 ((writtenRecords r).length - (validRecords r).length) ++ be2 (countSlots r .void) ++ be2 (countSlots r .empty)

def pageOctets (c : Ctl) (bk : Bank) : List Byte :=
  (upTo 16).flatMap (fun p =>
    u8 (pageAt (bankRec c bk) p).cond.code ++ u8 (pageAt (bankRec c bk) p).failures ++
    yesNo (decide (p ∈ selectedPages c.store bk)))

/-- The payload of STORE_STATUS (R137). With no burst open its number is absent, and all ones (R39): the model's reading
(log entry 6). -/
def statusOctets (c : Ctl) : List Byte :=
  enginePhase c.store ++ u8 c.store.queue.length ++
  u8 (match c.store.openBank with | some bk => bankCode bk | none => 3) ++
  yesNo c.load.isOpen ++ opt1 (if c.load.isOpen then some c.load.number else none) ++
  bankOctets c .a ++ bankOctets c .b ++ pageOctets c .a ++ pageOctets c .b ++ u8 (if c.store.checked then 2 else 1)

/-- STORE_STATUS (R137). -/
def storeStatus (o : OwnOrder) (c : Ctl) : Ctl := answerDone o.src o.tag 50 (statusOctets c) c

/-! ## The erase window's end -/

/-- The 2 s of an erase window run out (R132). -/
def windowExpired (c : Ctl) : Ctl :=
  match c.store.window with
  | some t => pushOnce .engine ((clockReaches (t + Config.eraseWindow) c).onStore endWindow)
  | none => c

/-! ## Activation (R117, R122) -/

/-- The working headers change at once, and the header writes go into the activation place. -/
def activateHeaders (bk : Bank) (c : Ctl) : Ctl :=
  let old := otherBank bk
  let retires := decide ((bankRec c old).header.state = .active)
  let c := if retires then
      modBank old (fun r => { r with header := { r.header with state := .retired }, change := .activate }) c
    else c
  let c := modBank bk (fun r => { r with header := { r.header with state := .active }, change := .activate }) c
  pushOnce .engine (c.onStore (fun s => { endWindow s with
    activation := s.activation ++ (if retires then [(old, .retire), (bk, .activate)] else [(bk, .activate)]) }))

/-! ## Resets (R138, R139) -/

/-- The store as an interrupted operation leaves it (R139); what a mark holds is a free value. -/
def interruptOp (c : Ctl) : Ctl :=
  match c.store.op with
  | some (.slotWrite bk k e n _) =>
    drawFree 24 (modBank bk (writeSlot k
      (if Config.freeBit c.free then
        { content := .record e, burst := n, written := true, voidMark := false, workVoid := false }
      else { content := .garbled (c.free + 1), burst := spoiledBurst (c.free + 23), written := false, voidMark := false, workVoid := false })) c)
  | some (.void bk k _ _) => drawFree 1 (modBank bk (modSlot k (fun x => { x with voidMark := Config.freeBit c.free })) c)
  | some (.erasePage bk page) => cutErase bk page c
  | some (.header bk _ _) => modBank bk spoilHeader c
  | _ => c

/-- Every page's failure count is 0 (R118). -/
def withoutFailures (r : BankRec) : BankRec :=
  (upTo 16).foldl (fun r p => setPage p { pageAt r p with failures := 0 } r) r

/-- The working fields of a bank after a reset, before the store check. R138 says what the check makes of the slots and
pages, not what STORE_STATUS shows of them until then: that the working page conditions and VOID slots, and with them the
append point and the free count, stand as they were, after POWER_UP too, is the model's choice (log entry 12). -/
def resetBank (r : BankRec) : BankRec :=
  withoutFailures { r with
    header := (match latestHeader r with | some i => i.header | none => Header.blank), fault := false, change := .none,
    highest := 0 }

/-- A reset ends all store work in flight (R139). -/
def resetStore (c : Ctl) : Ctl :=
  let c := modBank .b resetBank (modBank .a resetBank (interruptOp c))
  c.onStore (fun s => { s with
    openBank := none, queue := [], activation := [], window := none, op := none, opStart := 0, eraseJob := none,
    checked := false })

/-- A page as the store check finds it (R138). -/
def scanPage (r : BankRec) (page : Nat) : Page :=
  let mark := (pageAt r page).eraseMark
  { cond := if !mark then .incomplete
      else if r.slots.any (fun p => pageOfKey p.1 == page) then .inUse else .erased,
    failures := 0, eraseMark := mark, allVoid := !mark }

/-- A bank as the store check finds it (R138). The slots of an INCOMPLETE page that hold no content are VOID and bear no burst
number that counts for the highest: the model's choice (log entry 17). -/
def scanBank (r : BankRec) : BankRec :=
  let slots := r.slots.map (fun p => (p.1, { p.2 with workVoid := false }))
  let r := { r with slots := slots }
  let r := (upTo 16).foldl (fun x p => setPage p (scanPage r p) x) r
  { r with
    header := (match latestHeader r with | some i => i.header | none => Header.blank)
    highest := (r.header.commits ++ r.slots.map (fun p => p.2.burst)).foldl max 0 }

/-- The bank to be taken as RETIRED where both headers show ACTIVE: that of the earlier epoch (R138). With equal epochs it is
bank B, and a header without an epoch counts as the earlier: the model's choice (log entry 18). -/
def staleBank (c : Ctl) : Option Bank :=
  if (bankRec c .a).header.state = .active ∧ (bankRec c .b).header.state = .active then
    match (bankRec c .a).header.epoch, (bankRec c .b).header.epoch with
    | some x, some y => if x < y then some .a else some .b
    | none, _ => some .a
    | _, none => some .b
  else none

/-- The epoch of the STANDBY bank. -/
def standbyEpoch (c : Ctl) : Option SiteTime :=
  if (bankRec c .a).header.state = .standby then (bankRec c .a).header.epoch
  else if (bankRec c .b).header.state = .standby then (bankRec c .b).header.epoch
  else none

/-- The store check ends its scan (R138). -/
def storeScan (c : Ctl) : Ctl :=
  let c := modBank .b scanBank (modBank .a scanBank c)
  let stale := staleBank c
  let c := match stale with
    | some bk => modBank bk (fun r => { r with header := { r.header with state := .retired } }) c
    | none => c
  let c := { c with start := { c.start with retire := stale }, store := { c.store with checked := true } }
  c.onPlan (fun p => { p with watch := standbyEpoch c })

/-- The working copy of the latest valid image, or the erased values (R16). -/
def loadedTables (s : Site) : Tables :=
  match latestSite s with
  | some i => i.tables
  | none => Tables.erased

end Sys2Proof.Machine
end

