-- ==== Sys2Proof/Machine/Load.lean ====
section
/-! DEFINITION. The Load Intake's frames and its handing of records to the store (R141, R142, R144 to R148, R150). -/

namespace Sys2Proof.Machine

/-- The tests of LOAD OPEN behind the start-up check and the payload, in their order (R141). -/
def openTests (c : Ctl) (bk : Bank) : Option Reason :=
  match writeTests c bk (decide ((bankRec c bk).header.state = .filling)) with
  | some r => some r
  | none =>
    if c.load.isOpen then some .burstActive
    else if 16 ≤ (bankRec c bk).header.commits.length ∨ 255 ≤ (bankRec c bk).highest then some .commitsFull
    else none

/-- The burst record of an accepted open (R141). -/
def openedBurst (bk : Bank) (number : Nat) (opener : Ref) (expected : Nat) (now : Millis) : Load :=
  { state := .open_, bank := bk, number := number, opener := opener, expected := expected, received := 0, written := 0,
    check := 0xFFFF#16, firstError := none, paused := false, told := false, flow := none, buffer := [], hand := .none,
    idleFrom := some now, close := none, commit := .none }

/-- LOAD OPEN (R141). -/
def loadOpen (o : OwnOrder) (c : Ctl) : Ctl :=
  if c.start.phase ≠ .running then refuseOrder o 1 .survey [] c
  else match orderBank o.payload with
    | some (bk, [n1, n2]) =>
      if 1 ≤ rd2 n1 n2 ∧ rd2 n1 n2 ≤ 2048 then
        (match openTests c bk with
         | some r => refuseOrder o 1 r [] c
         | none =>
           let number := (bankRec c bk).highest + 1
           let c := modBank bk (fun r => { r with highest := number }) (answerDone o.src o.tag 1 (u8 number) c)
           c.onLoad (fun _ => openedBurst bk number (orderRef o) (rd2 n1 n2) c.clock))
      else refuseOrder o 1 .badRecord (u8 0) c
    | _ => refuseOrder o 1 .badRecord (u8 0) c

/-- The received count, 0 to 65535 (R140), goes up by one; past 65535 the specification states no value, and it is a free one
of that range (log entry 24). -/
def countReceived (free : Nat) (n : Nat) : Nat := if n < 65535 then n + 1 else freeBelow 65536 free

/-- A record of the burst is counted, checked and buffered, or becomes an error (R142). Of a payload of another length that
finds all 8 places held, R142 makes both errors: that BAD_RECORD check 0 is the one kept is the model's choice (log
entry 38). -/
def takeRecord (now : Millis) (free : Nat) (p : List Byte) (l : Load) : Load :=
  let n := countReceived free l.received
  let l := { l with received := n, check := crcFrom l.check p, idleFrom := l.idleFrom.map (fun _ => now) }
  if p.length ≠ 22 then l.keepError .badRecord n 0
  else if 8 ≤ l.buffer.length then l.keepError .overrun n 0
  else { l with buffer := l.buffer ++ [(n, p)] }.levelFlow now

/-- LOAD DATA (R142): it receives no answer, and its place is released. -/
def loadData (o : OwnOrder) (c : Ctl) : Ctl :=
  let c := releasePlace c
  if c.load.state = .open_ ∧ o.src = c.load.opener.station then
    pushOnce .intake (drawFree 1 (c.onLoad (takeRecord c.clock c.free o.payload)))
  else c

/-- LOAD CLOSE (R146). That its length is tested before the burst's state and the close's source is the model's choice (log entry
38). -/
def loadClose (o : OwnOrder) (c : Ctl) : Ctl :=
  match o.payload with
  | [n1, n2, k1, k2] =>
    (match c.load.state with
     | .none => refuseOrder o 3 .notOpen [] c
     | .closing => refuseOrder o 3 .burstActive [] c
     | .open_ =>
       if o.src = c.load.opener.station then
         pushOnce .intake (c.onLoad (fun l => { l with
           state := .closing, idleFrom := none
           close := some { station := o.src, tag := o.tag, count := rd2 n1 n2, check := k1 ++ k2 } }))
       else refuseOrder o 3 .burstActive [] c)
  | _ => refuseOrder o 3 .badRecord (u8 0) c

/-- A LOAD frame with a sub-verb that is none of OPEN, DATA and CLOSE (R150). -/
def loadBadSubverb (verb : Nat) (o : OwnOrder) (c : Ctl) : Ctl := refuseOrder o verb .badRecord (u8 0) c

/-- The test a record of the burst fails when it is taken from the buffer: reason and check number (R144). -/
def recordFault (c : Ctl) (bk : Bank) (e : EntryRec) : Option (Reason × Nat) :=
  match structureFault e with
  | some n => some (.badRecord, n)
  | none =>
    match entryTests c bk e (burstIdHeld c bk e.id) with
    | some r => some (r, 0)
    | none => if (bankRec c bk).fault then some (.storeFault, 0) else none

/-- A record that passed is given to the store, or waits for a place (R144). -/
def giveRecord (e : EntryRec) (c : Ctl) : Ctl :=
  if storeRoom c.store then
    (queueRequest (.loadWrite c.load.bank e c.load.number) c).onLoad (fun l => { l with hand := .queued })
  else c.onLoad (fun l => { l with hand := .waiting })

/-- The outcome on which a drained burst is judged (R147). -/
def burstOutcome (l : Load) (p : PendingClose) : Option Reason :=
  match l.firstError with
  | some e => some e.reason
  | none =>
    if l.received ≠ p.count ∨ l.received ≠ l.expected then some .countMismatch
    else if l.check ≠ p.check then some .checkMismatch
    else none

/-- A drained CLOSING burst is judged: it is committed or refused (R146 to R148). -/
def judgeBurst (c : Ctl) : Ctl :=
  match c.load.close with
  | none => c
  | some p =>
    match burstOutcome c.load p with
    | some r => endBurst (some r) c
    | none => giveCommit c

/-- The Load Intake takes its next step: a waiting write or commit takes a freed place; with no write in hand the oldest
record is tested and given to the store, or fails; and an empty buffer lets a CLOSING burst be judged. -/
def intake (c : Ctl) : Ctl :=
  match c.load.state, c.load.hand, c.load.buffer with
  | .none, _, _ => c
  | _, .queued, _ => c
  | _, .waiting, (_, p) :: _ =>
    (match parseEntry p with
     | some e => giveRecord e c
     | none => c)
  | _, .none, (n, p) :: _ =>
    (match parseEntry p with
     | none => c
     | some e =>
       match recordFault c c.load.bank e with
       | some (r, check) => pushOnce .intake (c.onLoad (fun l => (l.keepError r n check).dropRecord c.clock))
       | none => giveRecord e c)
  | .closing, _, [] =>
    (match c.load.commit with
     | .none => judgeBurst c
     | .waiting => giveCommit c
     | .queued => c)
  | _, _, _ => c

/-- The idle timer expires (R145). -/
def idleExpired (c : Ctl) : Ctl :=
  match c.load.idleFrom with
  | some t => abandonBurst .idleTimeout (clockReaches (t + Config.idleLimit) c)
  | none => c

end Sys2Proof.Machine
end

