-- ==== Sys2Proof/Machine/Lead.lean ====
section
/-! DEFINITION. The lead-time arithmetic: candidates and predicted state (R106, R107), the stages (R108 to R110), lead,
fence, begin and predicted RF time (R111 to R113), and the run-time figures (R115). -/

namespace Sys2Proof.Machine

/-! ## Occurrences (R156) -/

/-- The entry of an occurrence, in its bank. -/
def entryOf (c : Ctl) (bk : Bank) (id : Nat) : Option EntryRec := (findValid (bankRec c bk) id).map (·.2)

/-- Start and end of an entry's occurrence on a day. -/
def occStart (e : EntryRec) (day : Nat) : SiteTime := siteTime day (e.start * 60)
def occEnd (e : EntryRec) (day : Nat) : SiteTime := addTime (occStart e day) (e.duration * 60)

/-! ## Candidates (R106) -/

/-- A candidate of the prediction. -/
structure Candidate where
  tx : Nat
  id : Nat
  priority : Nat
  start : SiteTime
  finish : SiteTime
  freq : Nat
  ant : Nat
  bearing : Option Nat
  deriving DecidableEq, Repr

/-- The candidate that an occurrence is, with the entry fields of its bank; an entry that has left its bank gives none
(log entry 26). -/
def candidateOf (c : Ctl) (occ : Occ) (tx : Nat) : Option Candidate :=
  (entryOf c occ.bank occ.id).map (fun e =>
    { tx := tx, id := occ.id, priority := e.priority, start := occStart e occ.day, finish := occEnd e occ.day,
      freq := e.freq, ant := e.ant, bearing := e.bearing })

/-- Running occurrences, occurrences of BUSY START contexts, and START events of the plan. -/
def candidates (c : Ctl) : List Candidate :=
  (c.gate.tx.filterMap (fun p => p.2.running.bind (fun r => candidateOf c r.occ p.1))) ++
  ((busyCtxs c).filter (fun p => !p.2.isEnd)).filterMap (fun p => candidateOf c p.2.occ p.2.tx) ++
  (c.plan.events.filter (fun v => decide (v.kind = .start))).filterMap (fun v => candidateOf c v.occ v.tx)

/-- The later start; of equals the higher priority, then the lower id. -/
def precedes (a d : Candidate) : Bool :=
  decide (d.start < a.start ∨ (a.start = d.start ∧ (d.priority < a.priority ∨ (a.priority = d.priority ∧ a.id < d.id))))

/-- The candidate with the latest start earlier than S (R106). Of two that agree in start, priority and id, as one id in
either bank can around an activation, the first in the order of `candidates` is kept: the model's choice (log entry 26). -/
def latestBefore (s : SiteTime) (l : List Candidate) : Option Candidate :=
  (l.filter (fun a => decide (a.start < s))).foldl
    (fun best a => match best with
      | none => some a
      | some d => if precedes a d then some a else some d) none

def txPredecessor (l : List Candidate) (tx : Nat) (s : SiteTime) : Option Candidate :=
  latestBefore s (l.filter (fun a => a.tx == tx))
def antPredecessor (l : List Candidate) (ant : Nat) (s : SiteTime) : Option Candidate :=
  latestBefore s (l.filter (fun a => a.ant == ant))

/-! ## The stages (R108 to R110) -/

/-- The retune stage Tr. -/
def retuneStage (t : Tables) (x : TxStatic) (predicted : Option Nat) (f : Nat) : Nat :=
  match predicted with
  | none => x.tb
  | some p =>
    if p = f then 0
    else match bandOf t p, bandOf t f with
      | some i, some j => if i = j then x.ti else x.tb
      | _, _ => x.tb

/-- The positioning stage Tw. -/
def positionStage (a : AntStatic) (predicted target : Target) : Nat :=
  match a.kind, target with
  | .rotatable, .bearing b =>
    let d := match predicted with
      | .bearing b0 => travelDistance (a.stopBearing.getD 0) b0 b
      | _ => 3600 - 2 * a.margin.getD 0
    if d = 0 then 0 else ceilDiv d (a.slewRate.getD 1) + a.settle.getD 0
  | .steerable, .index i => if predicted = .index i then 0 else a.phasing.getD 0
  | _, _ => 0

/-- The switching stage: Topen and Tclose. -/
def switchStage (sx : Nat) (pathAnt : Option Nat) (otherPath columnHeld : Bool) (ant : Nat) : Nat × Nat :=
  if pathAnt = some ant then (0, 0) else (if otherPath || columnHeld then sx else 0, sx)

/-! ## Lead, fence, begin (R111 to R113) -/

/-- The figures of a START event; `clampedFrom` is the unclamped lead where it exceeds 900. -/
structure Figures where
  lead : Nat
  clampedFrom : Option Nat
  begin_ : SiteTime
  rf : SiteTime
  late : Bool
  deriving DecidableEq, Repr

/-- The unclamped lead of an entry with its target position, for a start S (R107 to R111). -/
def unclampedLead (c : Ctl) (x : TxStatic) (a : AntStatic) (e : EntryRec) (target : Target) (s : SiteTime) : Nat :=
  let l := candidates c
  let t := c.site.work
  let tp := txPredecessor l e.tx s
  let ap := antPredecessor l e.ant s
  let freq := match tp with
    | some p => some p.freq
    | none => (txDyn c e.tx).bind ratableFreq
  let pathAnt := match tp with
    | some p => some p.ant
    | none => (claimPath c e.tx).map (·.ant)
  let otherPath := match tp with
    | some p => decide (p.ant ≠ e.ant)
    | none => c.matrix.paths.any (fun p => p.tx == e.tx && p.ant != e.ant)
  let columnHeld := match ap with
    | some p => decide (p.tx ≠ e.tx)
    | none => c.matrix.paths.any (fun p => p.ant == e.ant && p.tx != e.tx)
  let position := match ap with
    | some p => (mapBearing t a p.bearing).getD .none
    | none => expectedPosition c e.ant
  let tw := positionStage a position target
  let sw := switchStage t.site.sx pathAnt otherPath columnHeld e.ant
  x.tm + max (retuneStage t x freq e.freq) (sw.1 + max sw.2 tw) + x.tu

/-- The fence: the latest qualifying end after S − lead and not after S (R112). -/
def fence (l : List Candidate) (tx ant : Nat) (s lead : Nat) : Option SiteTime :=
  let ends := ((txPredecessor l tx s).toList.map (·.finish)) ++
    ((l.filter (fun a => a.tx != tx && a.ant == ant)).map (·.finish))
  (ends.filter (fun x => decide (s - lead < x ∧ x ≤ s))).foldl
    (fun best x => match best with
      | none => some x
      | some y => some (max x y)) none

/-- The figures of a START event inserted at site time `now` (R111 to R113). -/
def figuresOf (c : Ctl) (x : TxStatic) (a : AntStatic) (e : EntryRec) (target : Target) (s now : SiteTime) : Figures :=
  let full := unclampedLead c x a e target s
  let lead := min full Config.maxLead
  let f := fence (candidates c) e.tx e.ant s lead
  let begin_ := max (max (s - lead) (f.getD 0)) now
  { lead := lead, clampedFrom := if Config.maxLead < full then some full else none, begin_ := begin_,
    rf := addTime begin_ lead, late := decide (s - lead < now ∧ f.getD 0 < now) }

end Sys2Proof.Machine
end

