-- ==== Sys2Proof/Machine/Plan.lean ====
section
/-! DEFINITION. The Plan Unit's plan: plan order (R157), the dispatch log and H (R155), occurrences (R156), insertion and
absorption (R158 to R160), the refill (R158), the rebuild (R161), dropping (R159, R164), and the end of a running occurrence
of a retired bank (R165). -/

namespace Sys2Proof.Machine

/-! ## Site time -/

/-- Site time as the Plan Unit acts on it: valid, and start-up has reached RUNNING (R151). -/
def actingTime (c : Ctl) : Option SiteTime := if c.start.phase = .running then c.plan.time else none

/-- The present site time where a rule of work under way compares with it; while site time is INVALID no value is stated
and it is a free value (log entry 25). -/
def presentTime (c : Ctl) : SiteTime := c.plan.time.getD (freeBelow (Config.lastSiteTime + 1) c.free)

/-! ## The dispatch log and H (R155) -/

def logRec (c : Ctl) (occ : Occ) : Option LogRec := c.plan.log.find? (fun r => decide (r.occ = occ))

/-- Change the log; where records have left it, a START waiting for the log is offered again. -/
def setLog (log : List LogRec) (c : Ctl) : Ctl :=
  let c' := c.onPlan (fun p => { p with log := log })
  if log.length < c.plan.log.length then pushOnce .offerLog c' else c'

/-- Records that H has reached or passed leave the log, unless RETURNED. -/
def pruneLog (c : Ctl) : Ctl :=
  match c.plan.high with
  | some h => setLog (c.plan.log.filter (fun r => r.returned || decide (h < r.start))) c
  | none => c

/-- H rises to a time, never back. -/
def raiseHigh (t : SiteTime) (c : Ctl) : Ctl :=
  pruneLog (c.onPlan (fun p => { p with high := some (match p.high with | some h => max h t | none => t) }))

/-- A log record is made, or set to a standing. -/
def recordOcc (r : LogRec) (c : Ctl) : Ctl :=
  if (logRec c r.occ).isSome then
    c.onPlan (fun p => { p with log := p.log.map (fun x => if x.occ = r.occ then { x with returned := r.returned } else x) })
  else c.onPlan (fun p => { p with log := p.log ++ [r] })

/-- The RETURNED record of an occurrence whose START is dropped leaves the log (R164). -/
def dropReturned (occ : Occ) (c : Ctl) : Ctl :=
  setLog (c.plan.log.filter (fun r => !(decide (r.occ = occ) && r.returned))) c

/-- The end of a TAKEN record's occurrence has passed: the record leaves, and H becomes its start if that is later. That H
becomes it also where H is unset, a case that R155 names for takings only, is the model's choice (log entry 39). -/
def endLogRec (occ : Occ) (now : SiteTime) (c : Ctl) : Ctl :=
  match logRec c occ with
  | some r =>
    if !r.returned ∧ r.occEnd ≤ now then
      raiseHigh r.start (setLog (c.plan.log.filter (fun x => decide (x.occ ≠ occ))) c)
    else c
  | none => c

/-! ## The plan (R157) -/

/-- Plan order: begin, priority, entry id, END before START. -/
def eventBefore (a d : Event) : Bool :=
  decide (a.begin_ < d.begin_ ∨ (a.begin_ = d.begin_ ∧
    (d.priority < a.priority ∨ (a.priority = d.priority ∧
      (a.occ.id < d.occ.id ∨ (a.occ.id = d.occ.id ∧ a.kind = .finish ∧ d.kind = .start))))))

/-- Insertion behind the events it does not precede. That of two events which the order of R157 leaves equal, such as those of
one id in banks A and B, the one inserted later stands behind is the model's choice (log entry 39). -/
def insertEvent (v : Event) : List Event → List Event
  | [] => [v]
  | w :: t => if eventBefore v w then v :: w :: t else w :: insertEvent v t

def addEvent (v : Event) (c : Ctl) : Ctl := c.onPlan (fun p => { p with events := insertEvent v p.events })

def sameEvent (kind : EventKind) (occ : Occ) (v : Event) : Bool := decide (v.kind = kind) && decide (v.occ = occ)

def inPlan (c : Ctl) (kind : EventKind) (occ : Occ) : Bool := c.plan.events.any (sameEvent kind occ)

def removeEvents (p : Event → Bool) (c : Ctl) : Ctl :=
  c.onPlan (fun q => { q with events := q.events.filter (fun v => !p v) })

def mapEvent (v : Event) (f : Event → Event) (c : Ctl) : Ctl :=
  c.onPlan (fun q => { q with events := q.events.map (fun w => if sameEvent v.kind v.occ w then f w else w) })

def planFull (c : Ctl) : Bool := decide (Config.planSize ≤ c.plan.events.length)

/-! ## The ACTIVE bank and its occurrences (R156) -/

def activeBank (c : Ctl) : Option Bank :=
  if (bankRec c .a).header.state = .active then some .a
  else if (bankRec c .b).header.state = .active then some .b
  else none

/-- ALARM PLAN_FULL, once until the latch clears (R160). -/
def planFullAlarm (c : Ctl) : Ctl :=
  if c.plan.fullLatch then c
  else
    let c' := c.onPlan (fun p => { p with fullLatch := true })
    match activeBank c with
    | some bk => raise .planFull (bankSubject c bk) 0 0 none none c'
    | none => c'

/-- The entries of a bank: its valid records, of two with one id the lower slot position (R130). -/
def scheduleEntries (r : BankRec) : List EntryRec :=
  (validRecords r).foldl (fun l w => if l.any (fun e => e.id == w.2.id) then l else l ++ [w.2]) []

/-- An entry of a bank occurs on a day. -/
def occursOn (r : BankRec) (e : EntryRec) (day : Nat) : Bool :=
  e.days.testBit (day % 7) &&
  (match e.validFrom with | some f => decide (f ≤ day) | none => true) &&
  (match e.validTo with | some t => decide (day ≤ t) | none => true) &&
  (match r.header.epoch with | some t => decide (t ≤ occStart e day) | none => true)

/-- The order of considering: by event time, then priority, id, day, END before START. Events of one event time go in
plan order (R158), which begins with their begins, and these are not computed yet: that they are left out, and that the start
day comes before END and START, is the model's choice (log entry 39). -/
def keyBefore (a d : ScanKey) : Bool :=
  decide (a.time < d.time ∨ (a.time = d.time ∧
    (d.priority < a.priority ∨ (a.priority = d.priority ∧
      (a.id < d.id ∨ (a.id = d.id ∧
        (a.day < d.day ∨ (a.day = d.day ∧ !a.isStart ∧ d.isStart))))))))

/-- START and END of an entry's occurrence on a day. -/
def bothEvents (bk : Bank) (e : EntryRec) (day : Nat) : List Consider :=
  let occ : Occ := { bank := bk, id := e.id, day := day }
  [{ key := { time := occStart e day, priority := e.priority, id := e.id, day := day, isStart := true }, occ := occ,
     tx := e.tx, start := occStart e day, finish := occEnd e day, entry := some e },
   { key := { time := occEnd e day, priority := e.priority, id := e.id, day := day, isStart := false }, occ := occ,
     tx := e.tx, start := occStart e day, finish := occEnd e day, entry := some e }]

/-- The days on which occurrences with an event in a range can start. -/
def daysOf (low high : SiteTime) : List Nat :=
  let first := dayOf low - 1
  (List.range (min (dayOf high) 65535 + 1 - first)).map (fun i => first + i)

/-- The events of an entry in a range of event times, both bounds included. -/
def eventsOf (r : BankRec) (bk : Bank) (e : EntryRec) (low high : SiteTime) : List Consider :=
  ((daysOf low high).filter (occursOn r e)).flatMap (fun d =>
    (bothEvents bk e d).filter (fun x => decide (low ≤ x.key.time ∧ x.key.time ≤ high)))

def sortConsider (l : List Consider) : List Consider := insertSort (fun a d => keyBefore a.key d.key) l

/-- The event lies behind the scan mark (R158). -/
def afterMark (m : ScanMark) (k : ScanKey) : Bool :=
  match m.resume with
  | some r => decide (m.time < k.time) || !keyBefore k r && decide (k.time = m.time)
  | none => decide (m.time < k.time)

/-! ## Absorption (R159) -/

/-- The END event of an occurrence. -/
def endEvent (occ : Occ) (tx priority : Nat) (start finish at_ : SiteTime) : Event :=
  { kind := .finish, occ := occ, tx := tx, priority := priority, time := at_, occStart := start, occEnd := finish, lead := 0, begin_ := at_,
    rf := at_, leadClamped := false, late := false, masked := false, wait := none, absorbed := none, returnEnd := none }

/-- A START of the plan absorbs an END: same transmitter, begin at the END's time, not MASKED; a START that has absorbed
the END of one occurrence takes no second (log entry 27). -/
def absorbs (tx : Nat) (occ : Occ) (at_ : SiteTime) (v : Event) : Bool :=
  decide (v.kind = .start) && decide (v.tx = tx) && decide (v.begin_ = at_) && !v.masked &&
  v.absorbed.all (fun a => decide (a.occ = occ)) && decide (v.occ ≠ occ)

/-- A START of the transmitter in the plan has absorbed the END of an occurrence. -/
def absorbedBy (tx : Nat) (occ : Occ) (v : Event) : Bool :=
  decide (v.kind = .start) && decide (v.tx = tx) && v.absorbed.any (fun a => decide (a.occ = occ))

/-- An END is inserted, or absorbed; false where the plan is full. That of several STARTs which could absorb it the first in
plan order does is the model's choice (R159, log entry 27). -/
def insertEnd (occ : Occ) (tx priority : Nat) (start finish at_ : SiteTime) (c : Ctl) : Ctl × Bool :=
  if inPlan c .finish occ then (c, true)
  else match c.plan.events.find? (absorbs tx occ at_) with
    | some v =>
      (mapEvent v (fun w => { w with absorbed := some { occ := occ, priority := priority, start := start, finish := finish } })
        c, true)
    | none =>
      if planFull c then (c, false) else (addEvent (endEvent occ tx priority start finish at_) c, true)

/-- Events at which a full plan stopped an insertion outside a refill: the scan mark stands before them (R160). -/
def leaveOver (l : List Consider) (c : Ctl) : Ctl :=
  c.onPlan (fun p => { p with scan := { p.scan with left := p.scan.left ++ l } })

/-- The END of an occurrence as an event to be considered at a time, whether its entry still stands or not. -/
def endToConsider (occ : Occ) (tx priority : Nat) (start finish at_ : SiteTime) : Consider :=
  { key := { time := at_, priority := priority, id := occ.id, day := occ.day, isStart := false },
    occ := occ, tx := tx, start := start, finish := finish, entry := none }

/-- An END that must not be lost is inserted at the present site time. A full plan raises its alarm, and the scan mark then
stands before this END (R160, log entry 28). -/
def insertEndNow (occ : Occ) (tx priority : Nat) (start finish : SiteTime) (c : Ctl) : Ctl :=
  match actingTime c with
  | none => c
  | some now =>
    let r := insertEnd occ tx priority start finish now c
    pushOnce .dispatch (if r.2 then r.1
      else leaveOver [endToConsider occ tx priority start finish now] (planFullAlarm r.1))

/-- An absorbing START leaves the plan untaken, or becomes MASKED: its END is inserted again (R159). -/
def reinstate (v : Event) (c : Ctl) : Ctl :=
  match v.absorbed with
  | some a => insertEndNow a.occ v.tx a.priority a.start a.finish c
  | none => c

/-! ## Dropping (R158, R163, R164) -/

/-- NOTICE MISSED of an occurrence. -/
def missed (occ : Occ) (detail : Failure) (c : Ctl) : Ctl :=
  raise .missed (.entry occ.bank occ.id) detail.code 0 (some occ.day) none c

/-- An untaken START is dropped: it leaves the plan with its RETURNED record, and reinstates its absorbed END. -/
def dropStart (v : Event) (detail : Failure) (c : Ctl) : Ctl :=
  reinstate v (dropReturned v.occ (missed v.occ detail (removeEvents (sameEvent .start v.occ) c)))

/-- The detail of a START whose occurrence has ended. -/
def endedDetail (v : Event) : Failure := if v.masked then .masked else .ended

/-! ## Insertion of a START (R158, R161) -/

/-- A START excluded by H (R155, R158). -/
def excludedByHigh (c : Ctl) (returned : Bool) (begin_ now : SiteTime) : Bool :=
  if returned then false
  else match c.plan.high with
    | none => false
    | some h => if begin_ = now then decide (now < h) else decide (begin_ ≤ h)

/-- The START event with its figures. -/
def startEvent (c : Ctl) (x : Consider) (f : Figures) (late : Bool) : Event :=
  { kind := .start, occ := x.occ, tx := x.tx, priority := x.key.priority, time := x.key.time, occStart := x.start, occEnd := x.finish,
    lead := f.lead, begin_ := f.begin_, rf := f.rf, leadClamped := f.clampedFrom.isSome, late := f.late || late,
    masked := decide (x.key.priority < c.plan.holdLevel), wait := none, absorbed := none, returnEnd := none }

/-- The reports of a START's insertion: LEAD_CLAMPED, then LATE_START PREDICTED (R111, R113). -/
def insertionReports (v : Event) (f : Figures) (c : Ctl) : Ctl :=
  let subject := Subject.entry v.occ.bank v.occ.id
  let c := match f.clampedFrom with
    | some full => raise .leadClamped subject 0 0 (some full) none c
    | none => c
  if v.time < v.rf then raise .lateStart subject 0 1 (some (figure32 ((v.rf : Int) - v.time))) none c else c

/-- A START enters the plan, absorbing an END of its transmitter whose time is its begin: of several the first in plan order,
the model's choice (R159, log entry 27). -/
def placeStart (v : Event) (c : Ctl) : Ctl :=
  match (if v.masked then none else c.plan.events.find? (fun w =>
      decide (w.kind = .finish) && decide (w.tx = v.tx) && decide (w.time = v.begin_) && decide (w.occ ≠ v.occ))) with
  | some w =>
    addEvent { v with absorbed := some { occ := w.occ, priority := w.priority, start := w.occStart, finish := w.occEnd } }
      (removeEvents (sameEvent .finish w.occ) c)
  | none => addEvent v c

/-- A START that is not excluded is re-checked, computed and inserted at site time `now`; `fix` fixes its begin at `now`
with flag LATE, and `high` lets H exclude it. False where the plan is full. -/
def insertStart (x : Consider) (e : EntryRec) (fix high : Bool) (now : SiteTime) (c : Ctl) : Ctl × Bool :=
  let returned := (logRec c x.occ).isSome
  match siteTests c.site.work e, tget e.tx c.site.work.tx, tget e.ant c.site.work.ant with
  | none, some s, some a =>
    (match mapBearing c.site.work a e.bearing with
     | none => (c, true)
     | some target =>
       let f := figuresOf c s a e target x.key.time now
       let f := if fix then { f with begin_ := now, rf := addTime now f.lead } else f
       if high && excludedByHigh c returned f.begin_ now then (c, true)
       else if planFull c then (c, false)
       else
         let v := startEvent c x f fix
         (placeStart v (insertionReports v f c), true))
  | _, _, _ => (dropReturned x.occ (missed x.occ .unusable c), true)

/-- Some transmitter runs an occurrence. -/
def isRunning (c : Ctl) (occ : Occ) : Bool :=
  c.gate.tx.any (fun p => match p.2.running with
    | some r => decide (r.occ = occ)
    | none => false)

/-- A BUSY context works an occurrence. -/
def isWorked (c : Ctl) (occ : Occ) : Bool := (busyCtxs c).any (fun p => decide (p.2.occ = occ))

/-- The conditions of catch-up (R161). -/
def catchesUp (c : Ctl) (now : SiteTime) (x : Consider) : Bool :=
  x.key.isStart && decide (x.key.time ≤ now) && decide (now < x.finish) &&
  !isRunning c x.occ && !isWorked c x.occ &&
  (match logRec c x.occ with
   | some r => r.returned
   | none => (match c.plan.high with
     | some h => decide (h < x.key.time)
     | none => true))

/-- One event is considered by a refill (R158). A START whose start is the present site time exactly does not count as already
started, and is LATE by R113 alone: the model's choice (log entry 39). An END that a START of the plan has absorbed is not
inserted (R159), though the scan comes to it again (R160). False where the plan is full. -/
def considerEvent (x : Consider) (now : SiteTime) (c : Ctl) : Ctl × Bool :=
  match x.key.isStart, x.entry with
  | true, some e =>
    if inPlan c .start x.occ then (c, true)
    else if (logRec c x.occ).any (fun r => !r.returned) then (c, true)
    else if x.finish ≤ now then (dropReturned x.occ (missed x.occ .ended c), true)
    else insertStart x e (decide (x.key.time < now)) true now c
  | _, _ =>
    if c.plan.events.any (absorbedBy x.tx x.occ) then (c, true)
    else insertEnd x.occ x.tx x.key.priority x.start x.finish (max x.finish now) c

/-- An event at which a full plan stopped an insertion outside a refill is considered again (R160), unless its entry has left
the ACTIVE bank. Its END was not absorbed then, and is inserted. False where the plan is full. -/
def considerLeft (x : Consider) (now : SiteTime) (c : Ctl) : Ctl × Bool :=
  if x.entry.all (fun e => (activeBank c).any (fun bk => decide (bk = x.occ.bank ∧ e ∈ scheduleEntries (bankRec c bk)))) then
    (if x.key.isStart then considerEvent x now c
     else insertEnd x.occ x.tx x.key.priority x.start x.finish (max x.key.time now) c)
  else (c, true)

/-- A START of the catch-up, with its begin at the present site time (R161). False where the plan is full. -/
def considerCatchUp (x : Consider) (now : SiteTime) (c : Ctl) : Ctl × Bool :=
  match inPlan c .start x.occ, x.entry with
  | false, some e => insertStart x e true false now c
  | _, _ => (c, true)

/-- Events are inserted in order until the plan is full; then the insertion stops with its alarm (R160), and the events from
the first that could not be inserted are answered. -/
def insertAll (consider : Consider → SiteTime → Ctl → Ctl × Bool) : List Consider → SiteTime → Ctl → Ctl × List Consider
  | [], _, c => (c, [])
  | x :: t, now, c =>
    let r := consider x now c
    if r.2 then insertAll consider t now r.1 else (planFullAlarm r.1, x :: t)

def setScan (m : ScanMark) (c : Ctl) : Ctl := c.onPlan (fun p => { p with scan := m })

/-- The ENDs of the running occurrences, each at the end it keeps, whether its entry still stands or not (R154). -/
def runningEnds (c : Ctl) : List Consider :=
  c.gate.tx.filterMap (fun p => p.2.running.map (fun r =>
    endToConsider r.occ p.1 r.priority r.start r.endTime r.endTime))

/-- Every event of the ACTIVE bank, and every END of a running occurrence, behind the scan mark and not later than
`high`. -/
def scanRange (c : Ctl) (high : SiteTime) : List Consider :=
  let scheduled := match activeBank c with
    | none => []
    | some bk => (scheduleEntries (bankRec c bk)).flatMap (fun e =>
        eventsOf (bankRec c bk) bk e c.plan.scan.time high)
  sortConsider ((scheduled.filter (fun x => x.key.isStart || !isRunning c x.occ) ++ runningEnds c).filter (fun x =>
    decide (x.key.time ≤ high) && afterMark c.plan.scan x.key))

/-- The refill (R158): first the events that a full plan left over, then those behind the scan mark. Where the plan is full
again, the scan mark is set just before the event that could not be inserted (R160). -/
def refill (now : SiteTime) (c : Ctl) : Ctl :=
  let high := addTime now Config.horizon
  let o := insertAll considerLeft c.plan.scan.left now c
  match o.2 with
  | _ :: _ => setScan { o.1.plan.scan with left := o.2 } o.1
  | [] =>
    let r := insertAll considerEvent (scanRange o.1 high) now o.1
    match r.2 with
    | x :: _ => setScan { time := x.key.time, resume := some x.key, left := [] } r.1
    | [] => (setScan { time := high, resume := none, left := [] } r.1).onPlan (fun p => { p with fullLatch := false })

/-! ## The rebuild (R161) -/

/-- Late ENDs: transmitters whose running occurrence has an end at or before the present site time. -/
def lateEnds (now : SiteTime) (c : Ctl) : Ctl :=
  forEach c.gate.tx (fun p c =>
    match p.2.running with
    | some r => if r.endTime ≤ now then (insertEnd r.occ p.1 r.priority r.start r.endTime now c).1 else c
    | none => c) c

/-- The events of entries whose occurrence's window can contain a time. -/
def startsBefore (c : Ctl) (bk : Bank) (l : List EntryRec) (now : SiteTime) : List Consider :=
  l.flatMap (fun e => eventsOf (bankRec c bk) bk e (now - 86400) now)

/-- Catch-up events in plan order: priority, then id. -/
def catchUpList (c : Ctl) (bk : Bank) (l : List EntryRec) (now : SiteTime) : List Consider :=
  insertSort (fun a d => keyBefore { a.key with time := 0 } { d.key with time := 0 })
    ((startsBefore c bk l now).filter (catchesUp c now))

/-- The catch-up of the ACTIVE bank, if there is one, and what a full plan left of it. -/
def catchUp (now : SiteTime) (c : Ctl) : Ctl × List Consider :=
  match activeBank c with
  | some bk => insertAll considerCatchUp (catchUpList c bk (scheduleEntries (bankRec c bk)) now) now c
  | none => (c, [])

/-- The rebuild (R161), followed by the dispatch of what is due. The ENDs that the removed STARTs had absorbed are considered
afresh and not reinserted, as R161 says, where R159 has them inserted again: the model's choice between the two (log entry
27). -/
def rebuild (c : Ctl) : Ctl :=
  match actingTime c with
  | none => c
  | some now =>
    let c := lateEnds now (c.onPlan (fun p => { p with events := [] }))
    let r := catchUp now (setScan { time := now, resume := none, left := [] } c)
    push [.dispatch] (if r.2.isEmpty then refill now r.1 else leaveOver r.2 r.1)

/-! ## Live correction (R166, R167): the plan's part -/

/-- The events of a new entry that come after the present time and that the scan has passed, in its order. -/
def passedEvents (bk : Bank) (e : EntryRec) (now : SiteTime) (c : Ctl) : List Consider :=
  sortConsider ((eventsOf (bankRec c bk) bk e now c.plan.scan.time).filter (fun x =>
    decide (now < x.key.time) && !afterMark c.plan.scan x.key))

/-- Further events, where a full plan has not stopped the insertion before them. -/
def goOn (r : Ctl × List Consider) (l : List Consider) (now : SiteTime) : Ctl × List Consider :=
  if r.2.isEmpty then insertAll considerEvent l now r.1 else (r.1, r.2 ++ l)

/-- The events of a new entry: its catch-up, then those that the scan has passed; and what a full plan left of them. -/
def insertEntry (bk : Bank) (e : EntryRec) (now : SiteTime) (c : Ctl) : Ctl × List Consider :=
  goOn (insertAll considerCatchUp (catchUpList c bk [e] now) now c) (passedEvents bk e now c) now

/-- A new entry of the ACTIVE bank is considered at once (R167). -/
def appendedEntry (bk : Bank) (e : EntryRec) (c : Ctl) : Ctl :=
  match actingTime c with
  | none => c
  | some now =>
    if activeBank c = some bk ∧ e ∈ scheduleEntries (bankRec c bk) then
      let r := insertEntry bk e now c
      push [.dispatch] (leaveOver r.2 r.1)
    else c

/-! ## Activation (R165): the end of a retired bank's occurrences -/

/-- A bank has an occurrence on a transmitter whose window contains a time. -/
def covers (c : Ctl) (bk : Bank) (tx : Nat) (now : SiteTime) : Bool :=
  (startsBefore c bk ((scheduleEntries (bankRec c bk)).filter (fun e => e.tx == tx)) now).any (fun x =>
    x.key.isStart && decide (now < x.finish))

/-- Step 4 for one transmitter: the end of a running occurrence of another bank becomes the present site time, and
unless the ACTIVE bank covers the transmitter an END is inserted. -/
def endOldRunning (now : SiteTime) (tx : Nat) (c : Ctl) : Ctl :=
  match activeBank c, (txDyn c tx).bind (·.running) with
  | some bk, some r =>
    if r.occ.bank = bk then c
    else
      let c := modTx tx (fun d => { d with running := some { r with endTime := now } }) c
      if covers c bk tx now then c else insertEndNow r.occ tx r.priority r.start now c
  | _, _ => c

/-- The Plan Unit is told of a new running occurrence: step 4 for its transmitter where the occurrence is of a bank no longer
ACTIVE (R165, R183). -/
def nowRunning (tx : Nat) (c : Ctl) : Ctl :=
  match actingTime c with
  | some now => endOldRunning now tx c
  | none => c

end Sys2Proof.Machine
end

