-- ==== Sys2Proof/Machine/Changeover.lean ====
section
/-! DEFINITION. The Changeover Unit: contexts (R169, R170), their phases (R171 to R185), failure, cleanup and aborts
(R186 to R189) and CONTEXT_READ (R190). -/

namespace Sys2Proof.Machine

/-! ## Contexts -/

def modCtx (n : Nat) (f : Ctx → Ctx) (c : Ctl) : Ctl := c.onCu (tmod n f)

def ctxWork (x : Ctx) : Work := { occ := x.occ, isEnd := x.isEnd }

/-- The BUSY context whose work in hand is the given one (R170). -/
def ctxAt (c : Ctl) (n : Nat) (w : Work) : Option Ctx := (busyCtx c n).filter (fun x => decide (ctxWork x = w))

/-- The lowest-numbered FREE context. -/
def freeContext (c : Ctl) : Option Nat := (upTo Config.contexts).find? (fun n => (busyCtx c n).isNone)

/-- A frame was made by context `n`. -/
def madeByCtx (n : Nat) (f : PFrame) : Bool :=
  match f.origin with
  | .ctx m _ => m == n
  | _ => false

/-- A context frees with an outcome, and keeps its fields; its frames that still wait for a slot leave the line (R28). -/
def freeCtx (n : Nat) (outcome : CtxOutcome) (c : Ctl) : Ctl :=
  pushOnce .ctxFreed (modCtx n (fun x => { x with busy := false, outcome := outcome })
    (c.onLink (fun k => { k with
      urgentWaiters := k.urgentWaiters.filter (fun f => !madeByCtx n f)
      internalWaiters := k.internalWaiters.filter (fun f => !madeByCtx n f) })))

/-- Seconds by which the present site time lies after a time, or 0 if it does not. -/
def secondsAfter (c : Ctl) (t : SiteTime) : Int := max 0 ((presentTime c : Int) - t)

/-- A deadline of whole seconds from now on the controller's clock. -/
def afterSeconds (c : Ctl) (s : Nat) : Millis := c.clock + s * 1000

/-- A context's order to its transmitter, offered in the INTERNAL class. -/
def offerTx (n : Nat) (x : Ctx) (v : PlantVerb) (c : Ctl) : Ctl :=
  match txStatic c x.tx with
  | some st => offer { dest := st.station, verb := v, cls := .internal, origin := .ctx n (ctxWork x) } c
  | none => c

/-- NOTICE CHANGEOVER_DONE with qualifier END for an occurrence that ended at `finish` (R173, R185). -/
def endReport (occ : Occ) (finish : SiteTime) (c : Ctl) : Ctl :=
  raise .changeoverDone (.entry occ.bank occ.id) 0 2 (some (figure32 (secondsAfter c finish))) none c

/-! ## Failure and cleanup (R186, R187) -/

/-- A CARRIER_OFF that spares a cleanup its own: the interlock's, the hall stop's, or an operator's (R187). -/
def sparesCleanup (station : Nat) (f : PFrame) : Bool :=
  f.dest == station && f.verb == .carrierOff &&
  (f.origin == .gate .interlock || f.origin == .hallStop || !ownOrigin f.origin)

/-- Step 1: a CARRIER_OFF on the gate's behalf, unless one of those that spare it is already under way. -/
def cleanupCarrier (x : Ctx) (c : Ctl) : Ctl :=
  match txStatic c x.tx with
  | some st =>
    if txLive c x.tx ∧ !framePending c.link (sparesCleanup st.station) then
      offer { dest := st.station, verb := .carrierOff, cls := .internal, origin := .gate .cleanup } c
    else c
  | none => c

/-- Step 2: frames of the context waiting for a slot or held are removed, and its job is withdrawn. -/
def cleanupFrames (n : Nat) (x : Ctx) (c : Ctl) : Ctl :=
  let other := fun (f : PFrame) => decide (f.origin ≠ .ctx n (ctxWork x))
  withdrawJob n (ctxWork x) ((c.onLink (fun k => { k with
    urgentWaiters := k.urgentWaiters.filter other
    internalWaiters := k.internalWaiters.filter other })).onGate (fun g => { g with
      held := g.held.filter (fun h => other h.frame) }))

/-- At the deadline of PROVING a proof still in progress runs on (R181): its path stands UNPROVEN with it (R80, R187), and
passes to OPERATIONS (log entry 35). -/
def proofRunsOn (n : Nat) (c : Ctl) : Ctl :=
  forEach ((c.matrix.paths.filter (fun p => decide (p.owner = .ctx n) && decide (p.proof ≠ .none))).map (·.pid))
    (fun pid c =>
      match pathOf c pid with
      | none => c
      | some p =>
        let c := setPathRec { p.enter c .unproven with stage := none, reference := none, owner := .operations } c
        tableChanged (if p.state = .setting then failPathHolds p.tx c else c)) c

/-- Steps 3 and 4 for one path of the context: its setting or proof ends, and it passes to OPERATIONS. -/
def cleanupPath (code pid : Nat) (c : Ctl) : Ctl :=
  match pathOf c pid with
  | none => c
  | some p =>
    let q := { p with owner := .idle, reference := none }
    let c := if p.proof ≠ .none then failProof q code c else if p.state = .setting then failSetting q code c else c
    c.onMatrix (fun m => { m with paths := m.paths.map (fun q =>
      if q.pid = pid then { q with owner := .operations } else q) })

def cleanupPaths (n code : Nat) (c : Ctl) : Ctl :=
  tableChanged (forEach ((c.matrix.paths.filter (fun p => decide (p.owner = .ctx n))).map (·.pid)) (cleanupPath code) c)

/-- The owner field becomes NONE, if it names the context. -/
def releaseOwner (n tx : Nat) (c : Ctl) : Ctl :=
  match txDyn c tx with
  | some d => if d.owner = .ctx n then setOwner tx .none c else c
  | none => c

/-- Step 5: a running occurrence whose end has passed is cleared, and the owner field becomes NONE. -/
def cleanupTx (n : Nat) (x : Ctx) (c : Ctl) : Ctl :=
  let c := match (txDyn c x.tx).bind (·.running) with
    | some r => if r.endTime ≤ presentTime c then clearRunning x.tx c else c
    | none => c
  releaseOwner n x.tx c

/-- Steps 1 to 6 of the cleanup. -/
def cleanup (n : Nat) (x : Ctx) (code : Nat) (c : Ctl) : Ctl :=
  push [.occFailed x.occ] (cleanupTx n x (cleanupPaths n code (cleanupFrames n x (cleanupCarrier x c))))

/-- ALARM CHANGEOVER_FAILED. -/
def failedReport (n : Nat) (x : Ctx) (reason : Failure) (c : Ctl) : Ctl :=
  raise .changeoverFailed (.entry x.occ.bank x.occ.id) reason.code x.phase.code (some n) none c

/-- An END context clears the running occurrence, if it is still its own (R185). -/
def clearOwnRunning (x : Ctx) (c : Ctl) : Ctl :=
  match (txDyn c x.tx).bind (·.running) with
  | some r => if r.occ = x.occ then clearRunning x.tx c else c
  | none => c

def setRowOwner (tx : Nat) (o : PathOwner) (c : Ctl) : Ctl :=
  match claimPath c tx with
  | some p => tableChanged (setPathRec { p with owner := o } c)
  | none => c

/-- A context fails or is aborted with a reason and cause: a START with the cleanup of R187, an END as R185 gives. -/
def failCtx (n : Nat) (x : Ctx) (reason : Failure) (cause : Nat) (c : Ctl) : Ctl :=
  let c :=
    if x.isEnd then
      releaseOwner n x.tx (setRowOwner x.tx .operations (clearOwnRunning x (cleanupFrames n x c)))
    else cleanup n x reason.code c
  freeCtx n .failed (modCtx n (fun y => { y with reason := some reason, cause := cause }) (failedReport n x reason c))

def subOf (s : SubStep) (x : Ctx) : Sub :=
  match s with
  | .retune => x.retune
  | .path => x.path
  | .position => x.position

def subReason : SubStep → Failure
  | .retune => .retuneFailed
  | .path => .pathFailed
  | .position => .positionFailed

def setSub (s : SubStep) (v : Sub) (x : Ctx) : Ctx :=
  match s with
  | .retune => { x with retune := v }
  | .path => { x with path := v }
  | .position => { x with position := v }

/-- The sub-step is PENDING or RUNNING. -/
def Sub.open_ (s : Sub) : Bool := decide (s.status = .pending) || decide (s.status = .running)

/-- A sub-step becomes FAILED, and with it the context fails (R177 to R180). -/
def failSub (n : Nat) (s : SubStep) (x : Ctx) (cause : Nat) (c : Ctl) : Ctl :=
  failCtx n x (subReason s) cause (modCtx n (setSub s { subOf s x with status := .failed }) c)

/-- The end of a START context's occurrence has passed (R184). -/
def missCtx (n : Nat) (x : Ctx) (c : Ctl) : Ctl :=
  let detail : Failure := if x.phase = .awaitAntenna then .antennaHeld else .ended
  freeCtx n .missed (missed x.occ detail (cleanup n x detail.code c))

/-! ## RAISING (R182, R183) -/

def enterRaising (n : Nat) (c : Ctl) : Ctl :=
  match busyCtx c n with
  | none => c
  | some x =>
    let tu := match txStatic c x.tx with | some s => s.tu | none => 0
    offerTx n x (.feed x.tFeed) (modCtx n (fun y =>
      { y with phase := .raising, deadline := some (afterSeconds c (tu + 10)), raised := false }) c)

/-- The START changeover is done, and the Plan Unit is told. Where the bank has been retired meanwhile it ends the occurrence at
once, before a held START of the transmitter is offered again (R165, R183). -/
def raiseDone (n : Nat) (x : Ctx) (c : Ctl) : Ctl :=
  let now := presentTime c
  let late := figure32 (secondsAfter c x.startTime)
  let subject := Subject.entry x.occ.bank x.occ.id
  let c := modCtx n (fun y => { y with actual := some now }) c
  let c := modTx x.tx (fun d =>
    { d with running := some { occ := x.occ, start := x.startTime, endTime := x.endTime, priority := x.priority } }) c
  let c := c.onMatrix (fun m => { m with paths := m.paths.map (fun p =>
    if p.owner = .ctx n then { p with owner := .operations } else p) })
  let c := raise .changeoverDone subject 0 1 (some late) none (releaseOwner n x.tx (tableChanged c))
  let c := if 0 < late then raise .lateStart subject 0 2 (some late) none c else c
  nowRunning x.tx (freeCtx n .done c)

/-! ## PROVING (R181) -/

/-- A SETTING path that stands at its CLOSED crosspoint but has not settled yet: its proof is begun when its stage becomes
CLOSED (R81). -/
def notSettled (c : Ctl) (p : Path) : Bool :=
  decide (p.state = .setting) && decide (p.stage ≠ some .closed) && decide ((xpAt c p.row p.col).state = .closed)

/-- The context asks for the proof of its path (R81). -/
def askProof (p : Path) (c : Ctl) : Ctl := if p.proof ≠ .none ∨ notSettled c p then c else beginProof p c

def enterProving (n : Nat) (c : Ctl) : Ctl :=
  match busyCtx c n with
  | none => c
  | some x =>
    match claimPath c x.tx with
    | some p =>
      if p.state = .proven then enterRaising n c
      else askProof p (modCtx n (fun y => { y with phase := .proving, deadline := some (afterSeconds c 5) }) c)
    | none => failCtx n { x with phase := .proving } .proveFailed 0 (modCtx n (fun y => { y with phase := .proving }) c)

/-! ## SETTING (R177 to R180) -/

def Sub.over (s : Sub) : Bool := decide (s.status = .notNeeded) || decide (s.status = .done)

/-- SETTING completes when every sub-step is DONE or NOT_NEEDED. -/
def settingCheck (n : Nat) (c : Ctl) : Ctl :=
  match busyCtx c n with
  | some x =>
    if x.phase = .setting ∧ x.retune.over ∧ x.path.over ∧ x.position.over then enterProving n c else c
  | none => c

/-- The context asks for its path (R179). A path that returns to SETTING has no movement granted in its new setting: the
model's reading of R80 (log entry 34). -/
def requestPath (n : Nat) (x : Ctx) (c : Ctl) : Ctl :=
  match claimPath c x.tx, txStatic c x.tx, antStatic c x.tAnt with
  | some p, _, _ =>
    if p.state = .setting then
      if p.stage = some .moving then modCtx n (fun y => { y with path := { y.path with status := .running } }) c else c
    else
      actPath p.pid (invokeInterlock x.tx (tableChanged (setPathRec { p.enter c .setting with
        stage := some .waiting, proof := .none, priority := x.priority, granted := false, awaits := [] } c)))
  | none, some s, some a => setPath x.tx x.tAnt s.row a.column (.ctx n) x.priority none [] c
  | none, _, _ => c

def neededSub (needed : Bool) (deadline : Millis) : Sub :=
  if needed then { status := .pending, deadline := some deadline } else { status := .notNeeded, deadline := none }

/-- On entering SETTING each sub-step is decided and every needed one started. -/
def enterSetting (n : Nat) (c : Ctl) : Ctl :=
  match busyCtx c n with
  | none => c
  | some x =>
    match txStatic c x.tx, txDyn c x.tx, antStatic c x.tAnt with
    | some s, some d, some a =>
      let tr := retuneStage c.site.work s (ratableFreq d) x.tFreq
      let tw := positionStage a (expectedPosition c x.tAnt) x.tPos
      let closed := (claimPath c x.tx).any (fun p =>
        p.ant == x.tAnt && decide ((xpAt c p.row p.col).state = .closed))
      let moves := positionNeeded c x.tAnt x.tPos
      let x := { x with
        phase := .setting, deadline := none, tuned := false, preempting := none
        retune := neededSub (decide (tr ≠ 0)) (afterSeconds c (2 * tr + 10))
        path := neededSub (!closed) (afterSeconds c (4 * c.site.work.site.sx + 10))
        position := neededSub moves (afterSeconds c (2 * tw + 10)) }
      let c := modCtx n (fun _ => x) c
      let c := if tr ≠ 0 then offerTx n x (.tune x.tFreq) c else c
      let c := if closed then c else requestPath n x c
      let c := if moves then openJob n (ctxWork x) x.tAnt x.tPos c else c
      settingCheck n c
    | _, _, _ => c

/-! ## AWAIT_ANTENNA (R175, R176) -/

/-- The holder's priority; none for a holder whose running occurrence has ended, which is not preempted. The manual priority
is the one that now stands, by R175, for holds made before its write too, where the table of R9 speaks of those made after it:
the model's choice between the two (log entry 29). -/
def holderPriority (c : Ctl) (d : TxDyn) : Option Nat :=
  match d.running with
  | some r => if presentTime c < r.endTime then some r.priority else none
  | none => some c.site.work.site.manualPriority

/-- NOTICE PREEMPTED, and the Plan Unit is told (R172, R176). -/
def preemptRunning (tx : Nat) (by_ : Nat) (c : Ctl) : Ctl :=
  match (txDyn c tx).bind (·.running) with
  | some r =>
    push [.occFailed r.occ]
      (raise .preempted (.entry r.occ.bank r.occ.id) 0 0 (some by_) none (clearRunning tx c))
  | none => c

/-- The context's CARRIER_OFF to a live holder is offered; at most one of them is under way (R176). -/
def silenceHolder (n : Nat) (x : Ctx) (holder : Nat) (c : Ctl) : Ctl :=
  match txStatic c holder with
  | none => c
  | some st =>
    if framePending c.link (fun f => f.dest == st.station && f.verb == .carrierOff && f.origin == .ctx n (ctxWork x)) then c
    else offerCarrierOff holder .urgent (.ctx n (ctxWork x)) c

/-- A live holder is preempted (R176). -/
def preemptHolder (n : Nat) (x : Ctx) (holder : Nat) (c : Ctl) : Ctl :=
  let c := preemptRunning holder x.occ.id c
  let c := match txDyn c holder with
    | some d => if d.owner = .operations then setOwner holder .none c else c
    | none => c
  silenceHolder n x holder (modCtx n (fun y => { y with preempting := some holder }) c)

/-- The preemption of a holder is over: it has been taken by a context, its carrier is off, or the CARRIER_OFF is answered DONE
(R176). -/
def preemptionOver (n : Nat) (c : Ctl) : Ctl := modCtx n (fun y => { y with preempting := none }) c

/-- A frame is the CARRIER_OFF by which a context preempts a holder. -/
def silencesHolder (c : Ctl) (x : Ctx) (f : PFrame) : Bool :=
  decide (f.verb = .carrierOff ∧ x.phase = .awaitAntenna) &&
  x.preempting.any (fun h => decide (txOfStation c.site.work f.dest = some h))

/-- A standing or live path of another row that claims the column is judged (R175). A holder whose CARRIER_OFF was refused or
timed out and that is still live, without a running occurrence, is sent another whatever the manual priority has become
(R176); after a DONE it is judged by its priority again. -/
def judgeClaim (n : Nat) (x : Ctx) (p : Path) (c : Ctl) : Ctl :=
  match txDyn c p.tx with
  | none => releasePath p.pid x.priority c
  | some d =>
    if p.ctxOwned || ownedByCtx d then preemptionOver n c
    else if p.busy then c
    else if !d.live then releasePath p.pid x.priority (preemptionOver n c)
    else match holderPriority c d with
      | some k =>
        if k < x.priority then preemptHolder n x p.tx c
        else if x.preempting = some p.tx ∧ d.running = none then silenceHolder n x p.tx c
        else c
      | none => c

/-- The context judges the target antenna's column (R175). -/
def judgeColumn (n : Nat) (c : Ctl) : Ctl :=
  match busyCtx c n with
  | none => c
  | some x =>
    if x.phase ≠ .awaitAntenna then c
    else
      let held := columnPaths c x.tAnt
      if held.isEmpty || held.any (fun p => p.tx == x.tx && p.claims) then enterSetting n c
      else if held.any (fun p => decide (p.state = .releasing)) then c
      else match held with
        | p :: _ => judgeClaim n x p c
        | [] => c

/-- The antenna waited for is judged on entry and again on each change; a release that ends at once is followed by a
further judgement when the table's change is dealt with. -/
def enterAwait (n : Nat) (c : Ctl) : Ctl :=
  judgeColumn n (modCtx n (fun y => { y with phase := .awaitAntenna, deadline := none, preempting := none }) c)

/-! ## RELEASING (R174) -/

/-- RELEASING completes when the row holds no path to any antenna other than the target. -/
def releasingCheck (n : Nat) (c : Ctl) : Ctl :=
  match busyCtx c n with
  | some x =>
    if x.phase = .releasing ∧ !c.matrix.paths.any (fun p => p.tx == x.tx && p.ant != x.tAnt) then enterAwait n c else c
  | none => c

def enterReleasing (n : Nat) (c : Ctl) : Ctl :=
  match busyCtx c n with
  | none => c
  | some x =>
    let c := modCtx n (fun y =>
      { y with phase := .releasing, deadline := some (afterSeconds c (3 * c.site.work.site.sx + 5)) }) c
    let c := match claimPath c x.tx with
      | some p => if p.ant = x.tAnt then c else releasePath p.pid x.priority c
      | none => c
    releasingCheck n c

/-! ## MUTING (R173, R185) -/

/-- MUTING of an END context completes (R185). -/
def endDone (n : Nat) (x : Ctx) (c : Ctl) : Ctl :=
  freeCtx n .done (endReport x.occ x.endTime
    (releaseOwner n x.tx (setRowOwner x.tx .idle (clearOwnRunning x c))))

/-- MUTING of a START context completes (R173). -/
def startMuted (n : Nat) (x : Ctx) (c : Ctl) : Ctl :=
  enterReleasing n (match (txDyn c x.tx).bind (·.running) with
    | some r => endReport r.occ r.endTime (clearRunning x.tx c)
    | none => c)

def muteDone (n : Nat) (x : Ctx) (c : Ctl) : Ctl := if x.isEnd then endDone n x c else startMuted n x c

def enterMuting (n : Nat) (c : Ctl) : Ctl :=
  match busyCtx c n with
  | none => c
  | some x =>
    let x := { x with phase := .muting }
    if txLive c x.tx then
      let tm := match txStatic c x.tx with | some s => s.tm | none => 0
      offerTx n x .carrierOff (modCtx n (fun _ => { x with deadline := some (afterSeconds c (tm + 10)) }) c)
    else muteDone n x (modCtx n (fun _ => x) c)

/-! ## CLAIM (R171, R172) -/

/-- A running occurrence that neither stops the claim of a START nor is preempted by it (R171): its end is at or before the
present site time, the START has absorbed its END (R159), or its END is still waiting for a context, which is read as its flag
WAITING with cause CONTEXT (R163, log entry 27). -/
def overForClaim (c : Ctl) (v : Event) (r : Running) : Bool :=
  decide (r.endTime ≤ presentTime c) || v.absorbed.any (fun a => decide (a.occ = r.occ)) ||
  c.plan.events.any (fun w => sameEvent .finish r.occ w && decide (w.wait = some .context))

/-- The owner field names another context. -/
def otherCtxOwns (n : Nat) (d : TxDyn) : Bool :=
  match d.owner with
  | .ctx m => decide (m ≠ n)
  | _ => false

/-- The outcome of CLAIM's tests. -/
inductive ClaimOutcome where
  | returned (named : Option SiteTime)
  | hold
  | preempt
  | free
  deriving DecidableEq, Repr

/-- The tests of CLAIM in order, for a START `v`. The manual priority is the one that now stands, by R171, for holds made before
its write too, where the table of R9 speaks of holds made after it: the model's choice between the two (log entry 29). -/
def claimTests (c : Ctl) (n : Nat) (priority : Nat) (v : Event) (d : TxDyn) : ClaimOutcome :=
  let manual := c.site.work.site.manualPriority
  let live := d.running.filter (fun r => !overForClaim c v r)
  if otherCtxOwns n d then .returned none
  else if d.owner = .operations ∧ priority ≤ manual then .returned none
  else match live with
    | some r =>
      if priority ≤ r.priority then .returned (some r.endTime)
      else if d.owner = .operations then .hold
      else .preempt
    | none => if d.owner = .operations then .hold else .free

/-- The context takes its transmitter (R171). -/
def takeTx (n : Nat) (x : Ctx) (c : Ctl) : Ctl :=
  let prior := (claimPath c x.tx).map (·.ant)
  let c := modCtx n (fun y => { y with prior := prior }) (setOwner x.tx (.ctx n) c)
  let c := forEach (c.matrix.paths.filter (fun p => p.tx == x.tx && p.claims)) (fun p c =>
    let c := if p.reference.isSome then pathResult p Reason.owned.code c else c
    setPathRec { p with owner := .ctx n, reference := none } c) c
  enterMuting n (tableChanged c)

/-- The event is returned to the plan (R164, R171). R164 makes its log record RETURNED: that a new RETURNED record is made for
a START whose record has left the log at its taking, H being past its start, is the model's choice (log entry 39). -/
def returnEvent (n : Nat) (v : Event) (named : Option SiteTime) (c : Ctl) : Ctl :=
  let c := recordOcc { occ := v.occ, start := v.time, occEnd := v.occEnd, returned := true } c
  freeCtx n .returned (addEvent { v with wait := some .transmitter, returnEnd := named } c)

def claim (n : Nat) (x : Ctx) (v : Event) (c : Ctl) : Ctl :=
  match txDyn c x.tx with
  | none => returnEvent n v none c
  | some d =>
    match claimTests c n x.priority v d with
    | .returned named => returnEvent n v named c
    | .hold => takeTx n x c
    | .preempt => takeTx n x (preemptRunning x.tx x.occ.id c)
    | .free => takeTx n x c

/-! ## Taking an event (R163, R170, R185) -/

def Sub.idle : Sub := { status := .notNeeded, deadline := none }

/-- The fields of a context as it is taken: a START with its entry and target, in CLAIM; an END, which has no target, in
MUTING, its only phase. R169 gives the sub-steps no value before SETTING decides them (R177): they are NOT_NEEDED without a
deadline, the model's choice (log entry 40). -/
def takenCtx (v : Event) (e : Option EntryRec) (position : Target) : Ctx :=
  { busy := true, isEnd := decide (v.kind = .finish), occ := v.occ,
    startTime := (match e with | some e => occStart e v.occ.day | none => v.occStart), endTime := v.occEnd, tx := v.tx,
    priority := v.priority,
    tFreq := (match e with | some e => e.freq | none => 0), tAnt := (match e with | some e => e.ant | none => 0),
    tPos := position, tPower := (match e with | some e => e.power | none => 0),
    tFeed := (match e with | some e => e.feed | none => 0),
    phase := (match v.kind with | .start => .claim | .finish => .muting), deadline := none, retune := Sub.idle,
    path := Sub.idle, position := Sub.idle, prior := none, begin_ := v.begin_, rf := v.rf, actual := none,
    outcome := .none, reason := none, cause := 0, tuned := false, raised := false, preempting := none }

/-- A START event is given to a context with its entry and target position. -/
def takeStart (n : Nat) (v : Event) (e : EntryRec) (position : Target) (c : Ctl) : Ctl :=
  let x := takenCtx v (some e) position
  claim n x v (c.onCu (tset n x))

/-- An END event is given to a context (R185). -/
def takeEnd (n : Nat) (v : Event) (c : Ctl) : Ctl :=
  let x := takenCtx v none .none
  let c := c.onCu (tset n x)
  match txDyn c x.tx with
  | none => freeCtx n .discarded c
  | some d =>
    if ownedByCtx d then freeCtx n .discarded c else enterMuting n (setOwner x.tx (.ctx n) c)

/-! ## What reaches a context -/

/-- An abort (R188), for the work in hand. -/
def abortCtx (n : Nat) (w : Work) (reason : Failure) (c : Ctl) : Ctl :=
  match ctxAt c n w with
  | some x => failCtx n x reason 0 c
  | none => c

/-- The gate refused an order of a context (R178, R180, R182); for its CARRIER_OFF in MUTING, R173. The end of a preempting
CARRIER_OFF without DONE is an occasion on which the context judges the column (R176). -/
def ctxRefused (f : PFrame) (n : Nat) (w : Work) (code : Nat) (c : Ctl) : Ctl :=
  match ctxAt c n w, f.verb with
  | some x, .tune _ => if x.phase = .setting ∧ x.retune.open_ then failSub n .retune x code c else c
  | some x, .carrierOff =>
    if x.phase = .muting then failCtx n x .muteTimeout code c
    else if silencesHolder c x f then judgeColumn n c
    else c
  | some x, .feed _ => if x.phase = .raising then failCtx n x .raiseTimeout code c else c
  | some x, .power _ => if x.phase = .raising then failCtx n x .raiseTimeout code c else c
  | some x, .carrierOn => if x.phase = .raising then failCtx n x .raiseTimeout code c else c
  | _, _ => c

/-- In RAISING the next order follows the DONE of the one before (R182). -/
def nextOrder (n : Nat) (x : Ctx) (v : PlantVerb) (c : Ctl) : Ctl :=
  match v with
  | .feed _ => offerTx n x (.power x.tPower) c
  | .power _ => offerTx n x .carrierOn c
  | _ => c

/-- An exchange of a context ended by an ANSWER or by timeout. -/
def ctxEnded (e : Entry) (n : Nat) (w : Work) (outcome : Option Outcome) (code : Nat) (c : Ctl) : Ctl :=
  match outcome with
  | some .refused => ctxRefused (entryFrame e) n w code c
  | none => ctxRefused (entryFrame e) n w Reason.noAnswer.code c
  | _ =>
    match ctxAt c n w with
    | some x =>
      if x.phase = .raising then nextOrder n x e.verb c
      else if silencesHolder c x (entryFrame e) then preemptionOver n c
      else c
    | none => c

/-- The retune sub-step reads a report: tune state FAILED fails it, and once the TUNE has been admitted IDLE at the target
ends it DONE (R178). -/
def retuneReport (n : Nat) (x : Ctx) (d : TxDyn) (c : Ctl) : Ctl :=
  if x.retune.open_ then
    if d.tune = .failed then failSub n .retune x 0 c
    else if x.tuned ∧ d.tune = .idle ∧ d.freq = some x.tFreq then
      settingCheck n (modCtx n (fun y => { y with retune := { y.retune with status := .done } }) c)
    else c
  else c

/-- The record of a transmitter has been set: its context is advanced (R173, R178, R182). -/
def ctxRecord (tx : Nat) (report : Bool) (c : Ctl) : Ctl :=
  match txDyn c tx with
  | none => c
  | some d =>
    match d.owner with
    | .ctx n =>
      (match busyCtx c n with
       | none => c
       | some x =>
         match x.phase with
         | .muting => if d.live then c else muteDone n x c
         | .setting => if report then retuneReport n x d c else c
         | .raising => if d.carrier = .on ∧ x.raised then raiseDone n x c else c
         | _ => c)
    | _ => c

/-- The context's path has lost its crosspoint's CLOSED or its antenna to a lockout (R179, R188). -/
def pathGone (c : Ctl) (x : Ctx) : Bool :=
  match claimPath c x.tx with
  | some p => decide ((xpAt c p.row p.col).state ≠ .closed) || lockedOut c p.ant
  | none => true

/-- What the Matrix Interlocking tells a context (R179, R181, R189). In SETTING the failure of its path fails the path
sub-step, whatever it stands at; the failure of a proof begun before the context took the path does so where the path has
lost its crosspoint or its antenna, and otherwise PROVING proves the path afresh. A lockout of the target antenna while the
sub-step is NOT_NEEDED, the path kept PROVEN or UNPROVEN with no proof in progress, does nothing here, by R90 and R189, where
R188 has a lockout in SETTING fail the path sub-step: a lockout that lasts fails the proof in PROVING, the model's choice
between the two (log entry 34). In PROVING a path that has settled is proved. -/
def ctxPathNews (n : Nat) (w : Work) (news : PathNews) (c : Ctl) : Ctl :=
  match ctxAt c n w with
  | none => c
  | some x =>
    match x.phase, news with
    | .setting, .closed =>
      if x.path.open_ then
        settingCheck n (modCtx n (fun y => { y with path := { y.path with status := .done } }) c)
      else c
    | .setting, .failed code => failSub n .path x code c
    | .setting, .proofFailed code => if pathGone c x then failSub n .path x code c else c
    | .proving, .closed =>
      (match claimPath c x.tx with
       | some p => askProof p c
       | none => c)
    | .proving, .proven => enterRaising n c
    | .proving, .failed code => failCtx n x .proveFailed code c
    | .proving, .proofFailed code => failCtx n x .proveFailed code c
    | .raising, .lost live => if live then c else failCtx n x .proveFailed Reason.pathUnproven.code c
    | _, _ => c

/-- The Antenna Unit tells a context the end of its job (R101, R180). -/
def ctxJobEnded (n : Nat) (w : Work) (ok : Bool) (code : Nat) (c : Ctl) : Ctl :=
  match ctxAt c n w with
  | none => c
  | some x =>
    if x.phase = .setting ∧ x.position.open_ then
      if ok then settingCheck n (modCtx n (fun y => { y with position := { y.position with status := .done } }) c)
      else failSub n .position x code c
    else c

/-- A path record without the fields that are the model's own. -/
def Path.view (p : Path) : Path := { p with granted := false, settleFrom := 0, awaits := [] }

/-- A transmitter's carrier, carrier-on outstanding, owner field and running occurrence, with the other fields blank. -/
def TxDyn.view (d : TxDyn) : TxDyn :=
  { d with outRestore := none, tune := .unknown, tuneRestore := none, freq := none, power := none, reportedLocal := false,
           interlockSent := false }

/-- Two states agree in what the contexts judge columns by, and are to judge them again when it changes: the path table, and of
each transmitter the carrier, carrier-on outstanding, the owner field and the running occurrence (R175). -/
def sameColumns (c c' : Ctl) : Bool :=
  decide (c.matrix.paths.map Path.view = c'.matrix.paths.map Path.view) &&
  (c.gate.tx ++ c'.gate.tx).all (fun p => decide ((txDyn c p.1).map TxDyn.view = (txDyn c' p.1).map TxDyn.view))

/-- Where that has changed from one state to the next, the contexts look again. -/
def noteColumns (before c : Ctl) : Ctl := if sameColumns before c then c else pushOnce .columns c

/-- Something the judgement of columns reads has changed: contexts in RELEASING and AWAIT_ANTENNA look again. Of two that judge
one free column at one instant either may be taken first (R175): that the context of lower number is, is the model's choice
(log entry 16). -/
def lookAgain (c : Ctl) : Ctl :=
  forEach (upTo Config.contexts) (fun n c =>
    match busyCtx c n with
    | some x =>
      (match x.phase with
       | .releasing => if x.isEnd then c else releasingCheck n c
       | .awaitAntenna => judgeColumn n c
       | _ => c)
    | none => c) c

/-! ## Deadlines -/

/-- The phase deadline of a context expires. -/
def phaseDeadline (n : Nat) (phase : CtxPhase) (reason : Failure) (c : Ctl) : Ctl :=
  match busyCtx c n with
  | some x =>
    (match x.deadline with
     | some t =>
       if x.phase = phase then
         let c := clockReaches t c
         failCtx n x reason 0 (if phase = .proving then proofRunsOn n c else c)
       else c
     | none => c)
  | none => c

/-- The deadline of a sub-step expires while it is PENDING or RUNNING (R177). -/
def subDeadline (n : Nat) (s : SubStep) (c : Ctl) : Ctl :=
  match busyCtx c n with
  | some x =>
    (match (subOf s x).deadline with
     | some t =>
       if x.phase = .setting ∧ (subOf s x).open_ then failSub n s x 0 (clockReaches t c) else c
     | none => c)
  | none => c

/-- The end of a START context's occurrence passes (R184). -/
def contextMissed (n : Nat) (c : Ctl) : Ctl :=
  match busyCtx c n, c.plan.time with
  | some x, some now => if !x.isEnd ∧ x.endTime ≤ now then missCtx n x c else c
  | _, _ => c

/-! ## CONTEXT_READ (R190) -/

def SubStatus.code : SubStatus → Nat
  | .notNeeded => 1 | .pending => 2 | .running => 3 | .done => 4 | .failed => 5
/-- The code of an outcome; absent while the context is BUSY. -/
def CtxOutcome.code : CtxOutcome → Option Nat
  | .none => Option.none | .done => some 1 | .failed => some 2 | .returned => some 3 | .missed => some 4
  | .discarded => some 5

/-- A position: a bearing 0 to 3599, a steer index 1 to 7, or none. Whether the name NONE carries a number, and how wide it is,
R39 and R169 do not say: that it carries the two octets of a bearing, all ones, is the model's choice (log entry 6). -/
def targetOctets : Target → List Byte
  | .bearing n => u8 1 ++ be2 n
  | .index i => u8 2 ++ u8 i
  | .none => u8 3 ++ opt2 none

/-- The time remaining to a deadline, in whole seconds rounded upward: R190 gives neither unit nor rounding, and both are the
model's choice (log entry 40). -/
def remaining (c : Ctl) (t : Option Millis) : Option Nat := t.map (fun t => ceilDiv (t - c.clock) 1000)

/-- A sub-step with the time remaining, at most 610 s for the retuning and 90 s for the path (R39, R177). -/
def subOctets (c : Ctl) (k : SubStep) (s : Sub) : List Byte :=
  u8 s.status.code ++ (match k with
    | .path => opt1 (remaining c s.deadline)
    | _ => opt2 (remaining c s.deadline))

/-- The START-only target; absent for an END (R39). -/
def aimOctets (x : Ctx) : List Byte :=
  if x.isEnd then opt2 none ++ opt1 none ++ opt1 none ++ opt2 none ++ opt2 none ++ opt1 none
  else be2 x.tFreq ++ u8 x.tAnt ++ targetOctets x.tPos ++ be2 x.tPower ++ u8 x.tFeed

/-- The START-only sub-steps; absent for an END (R39). -/
def subsOctets (c : Ctl) (x : Ctx) : List Byte :=
  if x.isEnd then opt1 none ++ opt2 none ++ opt1 none ++ opt1 none ++ opt1 none ++ opt2 none
  else subOctets c .retune x.retune ++ subOctets c .path x.path ++ subOctets c .position x.position

/-- Every field of R169; what is absent is all ones, the cause zero where it is zero (R39). R169 has reason and cause optional
'or zero' and R170 clears both: that a cleared reason is sent as absent, all ones, and a cleared cause as zero is the model's
choice (log entry 6). -/
def ctxOctets (c : Ctl) (x : Ctx) : List Byte :=
  u8 (if x.busy then 2 else 1) ++ u8 (if x.isEnd then 2 else 1) ++ u8 (bankCode x.occ.bank) ++ be2 x.occ.id ++
  be2 x.occ.day ++ timeOctets (some x.startTime) ++ timeOctets (some x.endTime) ++ u8 x.tx ++ u8 x.priority ++
  aimOctets x ++ u8 x.phase.code ++ opt1 (remaining c x.deadline) ++ subsOctets c x ++ opt1 x.prior ++
  timeOctets (some x.begin_) ++ timeOctets (if x.isEnd then none else some x.rf) ++ timeOctets x.actual ++
  opt1 x.outcome.code ++ opt1 (x.reason.map Failure.code) ++ u8 x.cause

/-- CONTEXT_READ (R190). -/
def contextRead (o : OwnOrder) (c : Ctl) : Ctl :=
  match o.payload with
  | [k] =>
    if 1 ≤ k.toNat ∧ k.toNat ≤ Config.contexts then
      answerDone o.src o.tag 54 (match tget k.toNat c.cu with
        | some x => ctxOctets c x
        | none => u8 1) c
    else answerRefused o.src o.tag 54 Reason.badRecord.code (u8 0) c
  | _ => answerRefused o.src o.tag 54 Reason.badRecord.code (u8 0) c

end Sys2Proof.Machine
end

