-- ==== Sys2Proof/Machine/Site.lean ====
section
/-! DEFINITION. The Site Tables: SITE_WRITE with its tests (R2 to R8) and what an accepted write does to the rest of the
controller (R1, R7, R9, R10), and SITE_READ (R11). -/

namespace Sys2Proof.Machine

/-! ## Records by kind and key -/

/-- The key is one of the kind's (section 1.1); SITE has no key, carried as all ones. -/
def keyValid (k : RecordKind) (key : Nat) : Bool :=
  match k with
  | .transmitter => decide (1 ≤ key ∧ key ≤ 24)
  | .antenna => decide (1 ≤ key ∧ key ≤ 40)
  | .ratings => decide (1 ≤ key ∧ key ≤ 40)
  | .band => decide (1 ≤ key ∧ key ≤ 16)
  | .site => decide (key = 0xFF)
  | .auxiliary => decide (1 ≤ key ∧ key ≤ 119)

/-- The record a copy of the tables holds. -/
def recordAt (t : Tables) (k : RecordKind) (key : Nat) : Option SiteRec :=
  match k with
  | .transmitter => (tget key t.tx).map .transmitter
  | .antenna => (tget key t.ant).map .antenna
  | .ratings => (tget key t.ratings).map .ratings
  | .band => (tget key t.bands).map .band
  | .site => some (.site t.site)
  | .auxiliary => if key ∈ t.aux then some .auxiliary else none

/-- The ratings of a created antenna: 0 in every place (R1). -/
def zeroRatings : List Nat := List.replicate 16 0

/-- The tables with a record written. -/
def writeRecord (t : Tables) (key : Nat) : SiteRec → Tables
  | .transmitter r => { t with tx := tset key r t.tx }
  | .antenna r =>
    { t with ant := tset key r t.ant,
             ratings := if (tget key t.ratings).isSome then t.ratings else tset key zeroRatings t.ratings }
  | .ratings l => { t with ratings := tset key l t.ratings }
  | .band b => { t with bands := tset key b t.bands }
  | .site r => { t with site := r }
  | .auxiliary => { t with aux := nins key t.aux }

/-- The tables with a record removed; RATINGS leave with their antenna (R1). -/
def eraseRecord (t : Tables) (k : RecordKind) (key : Nat) : Tables :=
  match k with
  | .transmitter => { t with tx := terase key t.tx }
  | .antenna => { t with ant := terase key t.ant, ratings := terase key t.ratings }
  | .band => { t with bands := terase key t.bands }
  | .auxiliary => { t with aux := ndel key t.aux }
  | _ => t

/-! ## Step 3: the record checks (R3) -/

/-- The first check of a list that fails. -/
def firstFailed (l : List (Nat × Bool)) : Option Nat := (l.find? (fun p => !p.2)).map (·.1)

def within (low high : Nat) (n : Nat) : Bool := decide (low ≤ n) && decide (n ≤ high)

/-- An optional field is present within its range. -/
def presentWithin (low high : Nat) (o : Option Nat) : Bool := o.any (within low high)

/-- Checks 2 to 6. -/
def txChecks (t : Tables) (r : TxStatic) : List (Nat × Bool) :=
  [(2, within 1 119 r.station),
   (3, within 1 24 r.row && (match t.site.geometry with | some g => decide (r.row ≤ g.rows) | none => false)),
   (4, within 1 999 r.maxPower),
   (5, within 1 30 r.tm && within 1 30 r.tu),
   (6, within 1 60 r.ti && within 10 300 r.tb && decide (r.ti ≤ r.tb))]

/-- Strictly ascending. -/
def ascending : List Int → Bool
  | [] => true
  | [_] => true
  | a :: b :: t => decide (a < b) && ascending (b :: t)

/-- Checks 7 to 12. -/
def antChecks (t : Tables) (r : AntStatic) : List (Nat × Bool) :=
  let rot := decide (r.kind = .rotatable)
  let steer := decide (r.kind = .steerable)
  [(8, within 1 40 r.column && (match t.site.geometry with | some g => decide (r.column ≤ g.cols) | none => false)),
   (9, if rot || steer then presentWithin 1 119 r.drive else r.drive.isNone),
   (10, if steer || decide (r.kind = .fixed) then presentWithin 0 3599 r.boresight else r.boresight.isNone),
   (11, if rot then presentWithin 0 3599 r.stopBearing && presentWithin 0 300 r.margin &&
          presentWithin 1 60 r.slewRate && presentWithin 0 30 r.settle
        else r.stopBearing.isNone && r.margin.isNone && r.slewRate.isNone && r.settle.isNone),
   (12, if steer then presentWithin 1 20 r.phasing &&
          r.offsets.any (fun l => within 1 7 l.length && l.all (fun o => decide (-600 ≤ o) && decide (o ≤ 600)) &&
            ascending l && l.contains 0)
        else r.offsets.isNone && r.phasing.isNone)]

/-- Check 15. -/
def siteCheck (r : SiteRecord) : Bool :=
  (match r.geometry with
   | some g => within 1 24 g.rows && within 1 40 g.cols && within 1 119 g.station
   | none => true) &&
  within 1 20 r.sx && decide (r.tolerance ≤ 150) && decide (r.manualPriority ≤ 15)

/-- The checks of a carried record, in order. -/
def recordChecks (t : Tables) (key : Nat) : SiteRec → List (Nat × Bool)
  | .transmitter r => txChecks t r
  | .antenna r => antChecks t r
  | .ratings l => [(13, l.all (fun v => decide (v ≤ 999)))]
  | .band b => [(14, within 2300 26100 b.low && within 2300 26100 b.high && decide (b.low ≤ b.high))]
  | .site r => [(15, siteCheck r)]
  | .auxiliary => [(16, decide (key ∈ t.aux) || decide (t.aux.length < 32))]

/-! ## Step 4: the consistency checks (R4) -/

/-- No value twice. -/
def distinctNats : List Nat → Bool
  | [] => true
  | x :: t => !t.contains x && distinctNats t

/-- Every plant address held, with repeats. -/
def heldAddresses (t : Tables) : List Nat :=
  t.tx.map (fun p => p.2.station) ++ t.ant.filterMap (fun p => p.2.drive) ++ (matrixStation t).toList ++ t.aux

/-- For every two bands i below j, the high limit of i lies below the low limit of j. -/
def bandsRising : Table Band → Bool
  | [] => true
  | (_, b) :: t => t.all (fun p => decide (b.high < p.2.low)) && bandsRising t

/-- Checks 17 to 22 on the tables as they would stand. -/
def consistencyChecks (t : Tables) : List (Nat × Bool) :=
  [(17, distinctNats (t.tx.map (fun p => p.2.row))),
   (18, distinctNats (t.ant.map (fun p => p.2.column))),
   (19, distinctNats (heldAddresses t)),
   (20, bandsRising t.bands),
   (21, match t.site.geometry with
     | some g => t.tx.all (fun p => decide (p.2.row ≤ g.rows)) && t.ant.all (fun p => decide (p.2.column ≤ g.cols))
     | none => true),
   (22, t.site.geometry.isSome || (t.tx.isEmpty && t.ant.isEmpty))]

/-! ## Step 5: records in use (R5 to R8) -/

/-- Some value of one list of ratings compares with its counterpart. -/
def anyRating (p : Nat → Nat → Bool) (new old : List Nat) : Bool := (List.zipWith p new old).any (fun b => b)

/-- A RATINGS write to an antenna (R6). -/
def ratingsRefusal (c : Ctl) (a : Nat) (new : List Nat) : Option Reason :=
  let old := (tget a c.site.work.ratings).getD zeroRatings
  if !antInUse c a then none
  else if anyRating (fun n o => decide (o < n)) new old then some .inUse
  else if anyRating (fun n o => decide (n < o)) new old &&
      (columnPaths c a).any (fun p => txLive c p.tx &&
        (match (txDyn c p.tx).bind (recordedBand c) with
         | some k => decide (new.getD (k - 1) 0 = 0)
         | none => true)) then some .antennaLive
  else none

/-- A frequency lies within a band. -/
def Band.holds (b : Band) (f : Nat) : Bool := decide (b.low ≤ f) && decide (f ≤ b.high)

/-- A BAND write is refused where a transmitter in use or a BUSY START context has its frequency within the old or the
new limits (R8). -/
def bandRefusal (c : Ctl) (old new : Option Band) : Option Reason :=
  let touched := fun f => old.any (fun b => Band.holds b f) || new.any (fun b => Band.holds b f)
  if c.gate.tx.any (fun p => txInUse c p.1 && p.2.freq.any touched) ||
      (busyCtxs c).any (fun p => !p.2.isEnd && touched p.2.tFreq) then some .inUse
  else none

/-- A SITE write that changes the geometry is refused while the matrix is in use (R8). -/
def geometryRefusal (c : Ctl) : Option Reason :=
  if !c.matrix.paths.isEmpty || !c.matrix.queue.isEmpty || !c.matrix.slots.isEmpty ||
      (allXps c.site.work).any (fun p => decide ((xpAt c p.1 p.2).state = .closed ∨ (xpAt c p.1 p.2).state = .closing ∨
        (xpAt c p.1 p.2).state = .opening ∨ (xpAt c p.1 p.2).state = .stuck)) then some .inUse
  else none

/-- Step 5 for a write that changes the working copy from `t` to `t'`. -/
def useRefusal (c : Ctl) (t' : Tables) (k : RecordKind) (key : Nat) : Option Reason :=
  match k with
  | .transmitter => if txInUse c key then some .inUse else none
  | .antenna => if antInUse c key then some .inUse else none
  | .ratings => ratingsRefusal c key ((tget key t'.ratings).getD zeroRatings)
  | .band => bandRefusal c (tget key c.site.work.bands) (tget key t'.bands)
  | .site => if t'.site.geometry = c.site.work.site.geometry then none else geometryRefusal c
  | .auxiliary => none

/-! ## The write's tests in order (R2) -/

/-- The tables a SITE_WRITE asks for, or its refusal with the detail. The mark ABSENT with further octets behind it fails
check 1: the model's choice (log entry 13). -/
def siteWriteTests (p : List Byte) (c : Ctl) : Except (Reason × List Byte) (RecordKind × Nat × Tables) :=
  let t := c.site.work
  let bad := fun (n : Nat) => Except.error (Reason.badRecord, u8 n)
  let settle := fun (k : RecordKind) (key : Nat) (t' : Tables) =>
    match firstFailed (consistencyChecks t') with
    | some n => bad n
    | none =>
      if t' = t then .ok (k, key, t')
      else match useRefusal c t' k key with
        | some r => .error (r, [])
        | none => .ok (k, key, t')
  if c.start.phase ≠ .running then .error (.survey, [])
  else match p with
    | kind :: key :: mark :: body =>
      match recordKindOf kind.toNat with
      | none => bad 1
      | some k =>
        if !keyValid k key.toNat then bad 1
        else if k = .ratings ∧ (tget key.toNat t.ant).isNone then bad 1
        else if mark = 0#8 then
          if k = .site ∨ k = .ratings ∨ body ≠ [] then bad 1 else settle k key.toNat (eraseRecord t k key.toNat)
        else if mark = 1#8 then
          match parseSiteRec k body with
          | .bad n => bad n
          | .ok r =>
            match firstFailed (recordChecks t key.toNat r) with
            | some n => bad n
            | none => settle k key.toNat (writeRecord t key.toNat r)
        else bad 1
    | _ => bad 1

/-! ## What an accepted write does (R7, R10) -/

/-- The dynamic part of a created transmitter record (R10, R42). -/
def TxDyn.initial : TxDyn :=
  { carrier := .unknown, outstanding := false, outRestore := none, tune := .unknown, tuneRestore := none, freq := none,
    power := none, reportedLocal := false, owner := .none, running := none, interlockSent := false }

/-- A QUERY of the gate to a new transmitter station (R10). -/
def queryTx (n : Nat) (c : Ctl) : Ctl :=
  match txStatic c n with
  | some st => offer { dest := st.station, verb := .query, cls := .internal, origin := .gate .query } c
  | none => c

/-- A transmitter record was written, changed or removed. Where its dynamic record begins or ends its carrier changes, for
the arbiter (R77). -/
def txWritten (n : Nat) (old new : Option TxStatic) (c : Ctl) : Ctl :=
  match old, new with
  | some x, none =>
    carrierChanged (refuseHeld (fun h => h.frame.dest == x.station) Reason.unknownStation.code []
      (c.onGate (fun g => { g with tx := terase n g.tx })))
  | o, some y =>
    if o.map (·.station) = some y.station then c
    else carrierChanged (queryTx n (c.onGate (fun g => { g with tx := tset n TxDyn.initial g.tx })))
  | none, none => c

/-- An antenna is created, or its kind or drive station changed: its record starts afresh and its drive is asked (R10,
R104). -/
def antCreated (a : Nat) (y : AntStatic) (c : Ctl) : Ctl :=
  queryDrive a (c.onAerial (tset a (AntDyn.initial y.kind)))

/-- A steer index beyond the offset list becomes absent (R104). -/
def offsetsWritten (y : AntStatic) (d : AntDyn) : AntDyn :=
  { d with steer := d.steer.filter (fun i => decide (1 ≤ i ∧ i ≤ (y.offsets.getD []).length)) }

/-- An antenna record was written, changed or removed (R10, R104). A changed boresight needs nothing: bearings are derived
from it. -/
def antWritten (a : Nat) (old new : Option AntStatic) (c : Ctl) : Ctl :=
  match old, new with
  | _, none => c.onAerial (terase a)
  | none, some y => antCreated a y c
  | some x, some y =>
    if x.kind ≠ y.kind ∨ x.drive ≠ y.drive then antCreated a y c else c.onAerial (tmod a (offsetsWritten y))

/-- A POWER above a value is outstanding to a station. -/
def powerOutstanding (k : Link) (station limit : Nat) : Bool :=
  k.table.any (fun e => e.station == station && (match e.verb with | .power p => decide (limit < p) | _ => false))

/-- The power of a live path's transmitter is brought within the new rating (R7). POWER_CLAMPED is raised also where the gate
refuses the clamping POWER at once: the model's choice (log entry 15). -/
def lowerPower (a : Nat) (p : Path) (c : Ctl) : Ctl :=
  let c := fillSlots c
  match txStatic c p.tx, txDyn c p.tx with
  | some st, some d =>
    match recordedBand c d with
    | none => c
    | some k =>
      let r := ratingOf c.site.work a k
      let queued := c.link.plantQueue.any (powerAbove st.station r)
      let exceeds := d.power.any (fun kW => decide (r < kW)) || powerOutstanding c.link st.station r
      let c := rewritePowers st.station r c
      let c := if exceeds then offerClamp st.station r c else c
      if queued || exceeds then raise .powerClamped (.pair p.tx a) 0 0 (some r) none c else c
  | _, _ => c

/-- A lowering RATINGS write was accepted (R7); a queued CARRIER_ON whose ground the lowering took is withdrawn (R54). -/
def ratingsWritten (a : Nat) (c : Ctl) : Ctl :=
  push ((columnPaths c a).map (fun p => .withdraw p.tx))
    (forEach ((columnPaths c a).filter (fun p => txLive c p.tx)) (lowerPower a) c)

/-- Matrix geometry or matrix station changed: crosspoints newly within the geometry, or with a new station all of them,
are UNKNOWN (R10), and the arbiter makes its round (R77). -/
def geometryWritten (old : Tables) (c : Ctl) : Ctl :=
  let kept := fun (t : Table Xp) =>
    if matrixStation old = matrixStation c.site.work then
      t.filter (fun p => inGeometry c.site.work (xpRow p.1) (xpCol p.1))
    else []
  let c' := c.onMatrix (fun m => { m with xps := kept m.xps })
  if old.site.geometry = c.site.work.site.geometry then c' else pushOnce .arbiter c'

/-- The answer state of a station that becomes known is ANSWERING (R32). -/
def answerStatesWritten (old : Tables) (c : Ctl) : Ctl :=
  c.onLink (fun k => { k with silent := k.silent.filter (fun a =>
    (stationClass old a).isSome && (stationClass c.site.work a).isSome) })

/-- An accepted write that changes the working copy replaces it and acts on the dynamic records. A write that changes no
dynamic record, a new manual priority among them, is no occasion on which a context judges its column (R175). -/
def siteWritten (k : RecordKind) (key : Nat) (t' : Tables) (c : Ctl) : Ctl :=
  let old := c.site.work
  let c := answerStatesWritten old (c.onSite (fun s => { s with work := t', unsaved := true }))
  match k with
  | .transmitter => txWritten key (tget key old.tx) (tget key t'.tx) c
  | .antenna => antWritten key (tget key old.ant) (tget key t'.ant) c
  | .ratings => ratingsWritten key c
  | .band => c
  | .site => geometryWritten old c
  | .auxiliary => c

/-- SITE_WRITE (R2). -/
def siteWrite (o : OwnOrder) (c : Ctl) : Ctl :=
  match siteWriteTests o.payload c with
  | .error (r, detail) => refuseOrder o 39 r detail c
  | .ok (k, key, t') =>
    let c := answerDone o.src o.tag 39 [] c
    if t' = c.site.work then c else siteWritten k key t' c

/-! ## SITE_READ (R11) -/

def Carrier.code : Carrier → Nat
  | .off => 1 | .on => 2 | .unknown => 3
def Tune.code : Tune → Nat
  | .idle => 1 | .tuning => 2 | .failed => 3 | .unknown => 4
def Motion.code : Motion → Nat
  | .still => 1 | .moving => 2 | .fault => 3 | .unknown => 4

/-- Owner: NONE 1, context 2, OPERATIONS 3, and the context's number. -/
def ownerOctets : TxOwner → List Byte
  | .none => u8 1 ++ opt1 none
  | .ctx n => u8 2 ++ u8 n
  | .operations => u8 3 ++ opt1 none

/-- The dynamic fields of a present transmitter, in the order of R11. -/
def txDynOctets (c : Ctl) (n : Nat) : List Byte :=
  match txStatic c n, txDyn c n with
  | some st, some d =>
    u8 d.carrier.code ++ yesNo d.outstanding ++ u8 d.tune.code ++ opt2 d.freq ++ opt1 (recordedBand c d) ++
    opt2 d.power ++ yesNo (localFlag c n d) ++ u8 (if st.station ∈ c.link.silent then 2 else 1) ++ ownerOctets d.owner
  | _, _ => []

/-- The dynamic fields of a present antenna. Where a claiming path and a RELEASING one hold the column at once, the
transmitter is the claiming path's, else the first RELEASING path's: the model's choice, after R78 (log entry 6). -/
def antDynOctets (c : Ctl) (a : Nat) : List Byte :=
  match antStatic c a, antDyn c a with
  | some s, some d =>
    opt2 (antBearing s d) ++ opt1 d.steer ++ u8 d.motion.code ++ yesNo (lockedOut c a) ++
    opt1 (match (columnPaths c a).find? Path.claims with
      | some p => some p.tx
      | none => (columnPaths c a).head?.map (·.tx))
  | _, _ => []

/-- The result of SITE_READ: the record or ABSENT, the unsaved-changes flag, the latest save number, and with source
WORKING the dynamic fields of a transmitter or antenna. -/
def siteReadOctets (c : Ctl) (k : RecordKind) (key : Nat) (saved : Bool) : List Byte :=
  let image := latestSite c.site
  let source := if saved then image.map (·.tables) else some c.site.work
  (match source.bind (fun t => recordAt t k key) with
   | some r => u8 1 ++ siteRecOctets r
   | none => u8 0) ++
  yesNo c.site.unsaved ++ be2 ((image.map (·.saveNumber)).getD 0) ++
  (if saved then []
   else match k with
     | .transmitter => txDynOctets c key
     | .antenna => antDynOctets c key
     | _ => [])

/-- SITE_READ (R11). A source octet that is neither WORKING nor SAVED is refused BAD_RECORD, check 0: the model's choice (log
entry 5). -/
def siteRead (o : OwnOrder) (c : Ctl) : Ctl :=
  match o.payload with
  | [kind, key, source] =>
    match recordKindOf kind.toNat with
    | some k =>
      if !keyValid k key.toNat then refuseOrder o 40 .badRecord (u8 1) c
      else if source = 1#8 then answerDone o.src o.tag 40 (siteReadOctets c k key.toNat false) c
      else if source = 2#8 then answerDone o.src o.tag 40 (siteReadOctets c k key.toNat true) c
      else refuseOrder o 40 .badRecord (u8 0) c
    | none => refuseOrder o 40 .badRecord (u8 1) c
  | _ => refuseOrder o 40 .badRecord (u8 0) c

end Sys2Proof.Machine
end

