-- ==== Sys2Proof/Machine/Season.lean ====
section
/-! DEFINITION. The Plan Unit at work: dispatch (R163, R164), hold level (R162), activation (R165), live correction (R166),
site time and TIME_SET (R151 to R154) and PLAN_READ (R168). -/

namespace Sys2Proof.Machine

/-! ## Dispatch (R163) -/

/-- The event of the plan with a kind and an occurrence. -/
def eventOf (c : Ctl) (kind : EventKind) (occ : Occ) : Option Event := c.plan.events.find? (sameEvent kind occ)

/-- A due event stays in the plan, flagged WAITING with a cause. -/
def flagWaiting (v : Event) (cause : WaitCause) (c : Ctl) : Ctl := mapEvent v (fun w => { w with wait := some cause }) c

/-- The event leaves the plan and H is raised. -/
def leavePlan (v : Event) (c : Ctl) : Ctl := raiseHigh v.begin_ (removeEvents (sameEvent v.kind v.occ) c)

/-- A due END: dropped unless it is of its transmitter's running occurrence, then taken into a free context (R163). That one
not of the running occurrence is dropped at once where no context is free either, and not kept WAITING, is the model's choice
(log entry 39). -/
def takeDueEnd (v : Event) (c : Ctl) : Ctl :=
  if ((txDyn c v.tx).bind (·.running)).any (fun r => decide (r.occ = v.occ)) then
    match freeContext c with
    | none => flagWaiting v .context c
    | some n => takeEnd n { v with wait := none } (leavePlan v c)
  else removeEvents (sameEvent .finish v.occ) c

/-- The entry of a START with its mapped position, if it passes the site-table re-check. -/
def startTarget (c : Ctl) (v : Event) : Option (EntryRec × Target) :=
  match entryOf c v.occ.bank v.occ.id with
  | none => none
  | some e =>
    match siteTests c.site.work e, antStatic c e.ant with
    | none, some a => (mapBearing c.site.work a e.bearing).map (fun t => (e, t))
    | _, _ => none

/-- A due START that is not MASKED: dropped UNUSABLE, left WAITING, or taken (R163). That one which finds the log full and no
context free waits with cause LOG is the model's choice (log entry 39). -/
def takeDueStart (v : Event) (c : Ctl) : Ctl :=
  match startTarget c v with
  | none => dropStart v .unusable c
  | some (e, target) =>
    if Config.logSize ≤ c.plan.log.length then flagWaiting v .log c
    else match freeContext c with
      | none => flagWaiting v .context c
      | some n =>
        let v := { v with wait := none, returnEnd := none }
        takeStart n v e target
          (leavePlan v (recordOcc { occ := v.occ, start := v.time, occEnd := v.occEnd, returned := false } c))

/-- An event is offered for dispatch. -/
def tryTake (v : Event) (c : Ctl) : Ctl :=
  match actingTime c with
  | none => c
  | some now =>
    if c.hall.inForce ∨ now < v.begin_ ∨ v.masked then c
    else match v.kind with
      | .finish => takeDueEnd v c
      | .start => takeDueStart v c

/-- An event, as it now stands in the plan, is offered if `p` holds of it. -/
def offerEvent (p : Event → Bool) (v : Event) (c : Ctl) : Ctl :=
  match eventOf c v.kind v.occ with
  | some w => if p w then tryTake w c else c
  | none => c

/-- The events of the plan that `p` holds of are offered, in plan order, each against what those before it left. -/
def offerWhere (p : Event → Bool) (c : Ctl) : Ctl := forEach (c.plan.events.filter p) (offerEvent p) c

/-- Every due event but a returned START, which has its own occasions (R164). -/
def dispatch (c : Ctl) : Ctl := offerWhere (fun v => decide (v.wait ≠ some .transmitter)) c

/-- A context has freed: events waiting for one are offered. -/
def ctxFreed (c : Ctl) : Ctl := offerWhere (fun v => decide (v.wait = some .context)) c

/-- A log record has left: events waiting for the log are offered. -/
def offerLog (c : Ctl) : Ctl := offerWhere (fun v => decide (v.wait = some .log)) c

/-- A transmitter's running occurrence is cleared, or its owner becomes NONE: returned STARTs are offered (R164). -/
def offerReturned (tx : Nat) (c : Ctl) : Ctl :=
  offerWhere (fun v => decide (v.wait = some .transmitter) && decide (v.tx = tx)) c

/-- Site time reaches an event's begin: the first due event not yet dealt with is taken or flagged. -/
def eventDue (c : Ctl) : Ctl :=
  match actingTime c with
  | none => c
  | some now =>
    if c.hall.inForce then c
    else match c.plan.events.find? (fun v => decide (v.begin_ ≤ now) && !v.masked && v.wait.isNone) with
      | some v => tryTake v c
      | none => c

/-- The end named at a return is reached (R164). -/
def returnEndReached (occ : Occ) (c : Ctl) : Ctl :=
  match actingTime c, eventOf c .start occ with
  | some now, some v =>
    (match v.wait, v.returnEnd with
     | some .transmitter, some t => if t ≤ now then tryTake v c else c
     | _, _ => c)
  | _, _ => c

/-- An occurrence's end passes: an untaken START is dropped, and a TAKEN log record leaves (R155, R162, R164). R155 does not say
when a record leaves whose end passes during start-up, in which the Plan Unit does not act (R151): that it stays until the
command comes in RUNNING, behind the rebuild of R200, is the model's choice (log entry 39). -/
def occurrenceEndPassed (occ : Occ) (c : Ctl) : Ctl :=
  match actingTime c with
  | none => c
  | some now =>
    let c := match eventOf c .start occ with
      | some v => if v.occEnd ≤ now then dropStart v (endedDetail v) c else c
      | none => c
    endLogRec occ now c

/-- The Plan Unit is told that an occurrence has failed for its day or been preempted: its END leaves the plan (R163). -/
def occFailed (occ : Occ) (c : Ctl) : Ctl := removeEvents (sameEvent .finish occ) c

/-! ## Hold level (R162) -/

/-- A START that a level newly masks. -/
def newlyMasked (level : Nat) (v : Event) : Bool :=
  decide (v.kind = .start) && decide (v.priority < level) && !v.masked

/-- Every START is re-examined: one below the level is MASKED and clears its absorbed END (R159), one no longer below it
loses the flag. -/
def remask (level : Nat) (v : Event) : Event :=
  if newlyMasked level v then { v with masked := true, absorbed := none }
  else if level ≤ v.priority then { v with masked := false } else v

/-- The hold level becomes a new value: the STARTs newly MASKED reinstate their absorbed ENDs, and those that lose the flag
are offered. -/
def setHoldLevel (level : Nat) (c : Ctl) : Ctl :=
  if level = c.plan.holdLevel then c
  else
    let masked := c.plan.events.filter (newlyMasked level)
    let freed := c.plan.events.filter (fun v => v.masked && decide (level ≤ v.priority))
    let c := c.onPlan (fun p => { p with holdLevel := level, events := p.events.map (remask level) })
    forEach freed (offerEvent (fun _ => true)) (forEach masked reinstate c)

/-- HOLD_LEVEL (R162). -/
def holdLevel (o : OwnOrder) (c : Ctl) : Ctl :=
  match o.payload with
  | [v] =>
    let level := min v.toNat 15
    setHoldLevel level (answerDone o.src o.tag 35 (u8 level) c)
  | _ => refuseOrder o 35 .badRecord (u8 0) c

/-! ## Activation (R165) -/

/-- Step 3: START contexts of the retiring bank that have not reached RAISING are aborted. -/
def abortSeason (old : Bank) (c : Ctl) : Ctl :=
  forEach (busyCtxs c) (fun p c =>
    if !p.2.isEnd && decide (p.2.occ.bank = old) && decide (p.2.phase ≠ .raising) then
      abortCtx p.1 (ctxWork p.2) .season c
    else c) c

/-- The STANDBY bank is activated (R165). No END that a removed START had absorbed is reinserted, as R165 says, where R159 has it
inserted again: the model's choice between the two (log entry 27). -/
def activate (bk : Bank) (now : SiteTime) (c : Ctl) : Ctl :=
  let old := otherBank bk
  let c := (activateHeaders bk c).onPlan (fun p => { p with watch := none })
  let c := removeEvents (fun v => decide (v.occ.bank = old)) c
  let c := setLog (c.plan.log.filter (fun r => decide (r.occ.bank ≠ old))) c
  let c := abortSeason old c
  let c := forEach (c.gate.tx.map (·.1)) (endOldRunning now) c
  rebuild (raise .bankActivated (bankSubject c bk) 0 0 none none c)

/-- The STANDBY bank whose epoch the activation watch holds, when site time has reached it. -/
def activationDue (c : Ctl) : Option (Bank × SiteTime) :=
  match actingTime c, c.plan.watch with
  | some now, some t =>
    if t ≤ now then
      (if (bankRec c .a).header.state = .standby then some (.a, now)
       else if (bankRec c .b).header.state = .standby then some (.b, now)
       else none)
    else none
  | _, _ => none

/-- The activation watch is tested. -/
def activation (c : Ctl) : Ctl :=
  match activationDue c with
  | some (bk, now) => activate bk now c
  | none => c

/-- The watch is tested; without an activation the plan is rebuilt. -/
def activateOrRebuild (c : Ctl) : Ctl :=
  match activationDue c with
  | some (bk, now) => activate bk now c
  | none => rebuild c

/-! ## A successful void (R166) -/

/-- An event belongs to an entry. -/
def ofEntry (bk : Bank) (id : Nat) (occ : Occ) : Bool := decide (occ.bank = bk) && occ.id == id

/-- A transmitter running the entry receives its END at once. -/
def endVoided (bk : Bank) (id tx : Nat) (c : Ctl) : Ctl :=
  match (txDyn c tx).bind (·.running) with
  | some r => if ofEntry bk id r.occ then insertEndNow r.occ tx r.priority r.start r.endTime c else c
  | none => c

/-- The Plan Unit acts on the void of a record of the ACTIVE bank. -/
def voidedEntry (bk : Bank) (id : Nat) (c : Ctl) : Ctl :=
  if activeBank c = some bk then
    let gone := c.plan.events.filter (fun v => ofEntry bk id v.occ)
    let c := forEach gone reinstate (removeEvents (fun v => ofEntry bk id v.occ) c)
    let c := forEach (c.gate.tx.map (·.1)) (endVoided bk id) c
    forEach (busyCtxs c) (fun p c =>
      if !p.2.isEnd && ofEntry bk id p.2.occ then abortCtx p.1 (ctxWork p.2) .voided c else c) c
  else c

/-! ## Site time (R151 to R154) -/

/-- Site time advances by one second; past the last second it becomes INVALID and the plan is emptied. -/
def siteSecond (c : Ctl) : Ctl :=
  match c.plan.time with
  | none => c
  | some t =>
    let c := clockReaches (c.plan.secondFrom + 1000) c
    if t < Config.lastSiteTime then
      c.onPlan (fun p => { p with time := some (t + 1), secondFrom := p.secondFrom + 1000 })
    else c.onPlan (fun p => { p with time := none, events := [] })

/-- The refill at a minute boundary, followed by the dispatch of what it made due. -/
def minuteBoundary (c : Ctl) : Ctl :=
  match actingTime c with
  | some now => if now % 60 = 0 then push [.dispatch] (refill now c) else c
  | none => c

/-- Site time takes a value. That a whole second begins with it, whatever part of one had passed, is the model's choice: R152
does not say (log entry 39). -/
def setTime (t : SiteTime) (c : Ctl) : Ctl :=
  { c with plan := { c.plan with time := some t, secondFrom := c.clock },
           start := { c.start with timeSet := if c.start.phase = .running then c.start.timeSet else true } }

/-- A forward step (R153). R155 does not say when the TAKEN records whose ends it overtakes leave the log: that the plan is
rebuilt first, and that they leave, raising H, as their ends' commands come, is the model's choice (log entry 39). -/
def stepForward (now : SiteTime) (c : Ctl) : Ctl :=
  let c := offerWhere (fun v => decide (v.kind = .finish) && decide (v.time ≤ now)) c
  let c := forEach (c.plan.events.filter (fun v => decide (v.kind = .start) && decide (v.occEnd ≤ now)))
    (fun v c => dropStart v (endedDetail v) c) c
  activateOrRebuild c

/-- What a change of site time causes in RUNNING. -/
def timeStepped (old : Option SiteTime) (t : SiteTime) (c : Ctl) : Ctl :=
  match old with
  | none => if c.start.phase = .running then activateOrRebuild c else c
  | some was =>
    let c := raise .timeStep .none 0 0 (some (figure32 ((t : Int) - was))) none c
    if c.start.phase ≠ .running then c
    else if was < t then stepForward t c
    else rebuild c

/-- TIME_SET (R152). -/
def timeSet (o : OwnOrder) (c : Ctl) : Ctl :=
  match o.payload with
  | [d1, d2, s1, s2, s3] =>
    if 86400 ≤ rd3 s1 s2 s3 then refuseOrder o 38 .timeInvalid [] c
    else
      let t := siteTime (rd2 d1 d2) (rd3 s1 s2 s3)
      let c' := answerDone o.src o.tag 38 [] c
      if c.plan.time = some t then c' else timeStepped c.plan.time t (setTime t c')
  | _ => refuseOrder o 38 .badRecord (u8 0) c

/-! ## PLAN_READ (R168) -/

def WaitCause.code : WaitCause → Nat
  | .context => 1 | .log => 2 | .transmitter => 3

def occOctets (o : Occ) : List Byte := u8 (bankCode o.bank) ++ be2 o.id ++ be2 o.day

/-- Every field of an event (R157). -/
def eventOctets (v : Event) : List Byte :=
  u8 (match v.kind with | .start => 1 | .finish => 2) ++ occOctets v.occ ++ u8 v.tx ++ u8 v.priority ++
  timeOctets (some v.time) ++
  (match v.kind with
   | .start => be2 v.lead ++ timeOctets (some v.begin_) ++ timeOctets (some v.rf)
   | .finish => opt2 none ++ timeOctets (some v.begin_) ++ timeOctets none) ++
  yesNo v.leadClamped ++ yesNo v.late ++ yesNo v.masked ++ yesNo v.wait.isSome ++ opt1 (v.wait.map WaitCause.code) ++
  (match v.absorbed with
   | some a => occOctets a.occ
   | none => opt1 none ++ opt2 none ++ opt2 none)

/-- The answer of PLAN_READ from a starting index: 0 is the first event, for an index equal to their number has none (R168). -/
def planOctets (c : Ctl) (index : Nat) : List Byte :=
  let events := (c.plan.events.drop index).take 2
  u8 (if c.plan.time.isSome then 2 else 1) ++ timeOctets c.plan.time ++ timeOctets c.plan.high ++
  u8 c.plan.holdLevel ++ be2 c.plan.events.length ++ be2 c.plan.log.length ++ timeOctets c.plan.watch ++
  u8 events.length ++ events.flatMap eventOctets

/-- PLAN_READ (R168). -/
def planRead (o : OwnOrder) (c : Ctl) : Ctl :=
  match o.payload with
  | [i] => answerDone o.src o.tag 53 (planOctets c i.toNat) c
  | _ => refuseOrder o 53 .badRecord (u8 0) c

end Sys2Proof.Machine
end

