-- ==== Sys2Proof/Machine/Panel.lean ====
section
/-! DEFINITION. The Panel Interface: conditioning (R192), the conditioned inputs' effects (R63, R90, R126), the hall stop
(R194, R195) and PART_STATUS (R201). -/

namespace Sys2Proof.Machine

/-! ## Levels -/

def Levels.get (l : Levels) : PanelInput → Bool
  | .localKey n => decide (n ∈ l.locals)
  | .lockout n => decide (n ∈ l.lockouts)
  | .maintenance => l.maintenance
  | .push => l.push

/-- A number is in a set, or not. -/
def setMember (n : Nat) (on : Bool) (l : List Nat) : List Nat := if on then nins n l else ndel n l

def Levels.set (l : Levels) (i : PanelInput) (on : Bool) : Levels :=
  match i with
  | .localKey n => { l with locals := setMember n on l.locals }
  | .lockout n => { l with lockouts := setMember n on l.lockouts }
  | .maintenance => { l with maintenance := on }
  | .push => { l with push := on }

/-- The panel has 24 LOCAL keys and 40 LOCKOUT switches. -/
def inputExists : PanelInput → Bool
  | .localKey n => decide (1 ≤ n ∧ n ≤ 24)
  | .lockout n => decide (1 ≤ n ∧ n ≤ 40)
  | _ => true

/-! ## Conditioning (R192) -/

/-- A panel input changes level: its 50 ms start afresh; a level back at the conditioned one leaves nothing to take. -/
def inputEdge (i : PanelInput) (level : Bool) (c : Ctl) : Ctl :=
  if inputExists i ∧ c.panel.raw.get i ≠ level then
    c.onPanel (fun p => { p with
      raw := p.raw.set i level
      edges := p.edges.filter (fun e => decide (e.1 ≠ i)) ++
        (if p.cond.get i = level then [] else [(i, c.clock)]) })
  else c

/-- The instant at which an input has held its level for 50 ms, if its level is not yet the conditioned one. -/
def settlesAt (i : PanelInput) (c : Ctl) : Option Millis :=
  if c.panel.raw.get i = c.panel.cond.get i then none
  else (c.panel.edges.find? (fun e => decide (e.1 = i))).map (fun e => e.2 + Config.panelSettle)

/-- An input's level is taken: its conditioned level becomes the level held, and `act` hands the change to its block. -/
def conditioned (i : PanelInput) (act : Ctl → Ctl) (c : Ctl) : Ctl :=
  match settlesAt i c with
  | none => c
  | some t =>
    act ((clockReaches t c).onPanel (fun p => { p with
      cond := p.cond.set i (p.raw.get i)
      edges := p.edges.filter (fun e => decide (e.1 ≠ i)) }))

/-- A conditioned change of an input to one level. -/
def conditionedTo (i : PanelInput) (level : Bool) (act : Ctl → Ctl) (c : Ctl) : Ctl :=
  if c.panel.raw.get i = level then conditioned i act c else c

/-! ## What the conditioned inputs do -/

/-- A LOCAL key has changed: the local flag is recomputed (R63). `was` is the flag before. -/
def localRecomputed (n : Nat) (was : Bool) (c : Ctl) : Ctl :=
  match txDyn c n with
  | some d => if localFlag c n d && !was then push [.recheckTx n, .withdraw n] c else c
  | none => c

def localKeyChange (n : Nat) (c : Ctl) : Ctl :=
  let was := match txDyn c n with
    | some d => localFlag c n d
    | none => false
  conditioned (.localKey n) (localRecomputed n was) c

def lockoutOn (n : Nat) (c : Ctl) : Ctl := conditionedTo (.lockout n) true (actLockout n) c
def lockoutOff (n : Nat) (c : Ctl) : Ctl := conditionedTo (.lockout n) false (pushOnce .arbiter) c
def maintenanceChange (c : Ctl) : Ctl := conditioned .maintenance (fun c => c) c

/-! ## The hall stop (R194, R195) -/

/-- A CARRIER_ON for a transmitter is in the plant queue. -/
def awaitsCarrier (c : Ctl) (n : Nat) : Bool := (txStatic c n).any (fun st => carrierOnQueued c.link st.station)

/-- Step 1: a CARRIER_OFF to every live transmitter, and to one with a CARRIER_ON in the plant queue, which loses its ground
to the hall stop (R54, log entry 36). -/
def stopCarriers (c : Ctl) : Ctl :=
  forEach (c.gate.tx.map (·.1)) (fun n c =>
    if txLive c n || awaitsCarrier c n then offerCarrierOff n .urgent .hallStop c else c) c

/-- Step 2: every BUSY context is aborted. -/
def stopContexts (c : Ctl) : Ctl := forEach (busyCtxs c) (fun p c => abortCtx p.1 (ctxWork p.2) .hallStop c) c

/-- Step 3: every running occurrence is cleared. -/
def stopRunning (c : Ctl) : Ctl := forEach (c.gate.tx.map (·.1)) failRunning c

def stopSubject : StopSource → Subject
  | .push => .none
  | .station n => .station n

/-- A source brings the hall stop into force, or is added to its sources. -/
def hallStopOn (src : StopSource) (c : Ctl) : Ctl :=
  if c.hall.inForce then
    c.onHall (fun h => { h with sources := if src ∈ h.sources then h.sources else h.sources ++ [src] })
  else
    raise .hallStop (stopSubject src) 0 0 none none
      (recheckWhere (fun _ => true) (stopRunning (stopContexts (stopCarriers
        (c.onHall (fun _ => { inForce := true, sources := [src] }))))))

/-- HALL_STOP. -/
def hallStop (o : OwnOrder) (c : Ctl) : Ctl := hallStopOn (.station o.src) (answerDone o.src o.tag 36 [] c)

/-- HALL_RESUME. -/
def hallResume (o : OwnOrder) (c : Ctl) : Ctl :=
  if c.start.phase ≠ .running then refuseOrder o 37 .survey [] c
  else if c.panel.cond.push then refuseOrder o 37 .hallStopped [] c
  else
    let c' := answerDone o.src o.tag 37 [] c
    if c.hall.inForce then rebuild (c'.onHall (fun _ => { inForce := false, sources := [] })) else c'

def pushOn (c : Ctl) : Ctl := conditionedTo .push true (hallStopOn .push) c
def pushOff (c : Ctl) : Ctl := conditionedTo .push false (fun c => c) c

/-! ## PART_STATUS (R201) -/

def Phase.code : Phase → Nat
  | .storeCheck => 1 | .survey => 2 | .adopt => 3 | .running => 4
def LastStart.code : LastStart → Nat
  | .powerUp => 1 | .restart => 2
def XpState.code : XpState → Nat
  | .opened => 1 | .closed => 2 | .closing => 3 | .opening => 4 | .stuck => 5 | .unknown => 6
def Position.code : Position → Nat
  | .closed => 1 | .opened => 2 | .transit => 3 | .fault => 4 | .unknown => 5
def PathState.code : PathState → Nat
  | .setting => 1 | .proven => 2 | .unproven => 3 | .releasing => 4
def PathStage.code : PathStage → Nat
  | .waiting => 1 | .moving => 2 | .settling => 3 | .closed => 4
def StationClass.code : StationClass → Nat
  | .transmitter => 1 | .drive => 2 | .matrix => 3 | .auxiliary => 4

/-- How many of a list are of each class, URGENT, INTERNAL, PASSED. -/
def classCounts (l : List Cls) : List Byte :=
  u8 (l.filter (· == .urgent)).length ++ u8 (l.filter (· == .internal)).length ++ u8 (l.filter (· == .passed)).length

/-- A source of the hall stop: PUSH, the first name of its list, or the address of the station (R39, section 11.2). -/
def sourceCode : StopSource → Nat
  | .push => 1
  | .station n => n

/-- Section SUMMARY. R201 gives each section a total count: that of this one, which holds no list, is 1, for its one set of
fields: the model's choice (log entry 6). -/
def summaryOctets (c : Ctl) : List Byte :=
  u8 1 ++ u8 c.start.phase.code ++ u8 c.start.last.code ++ yesNo c.hall.inForce ++ yesNo c.panel.cond.maintenance ++
  yesNo c.link.reportsLost ++ yesNo c.site.unsaved ++ classCounts (c.link.plantQueue.map (·.frame.cls)) ++
  classCounts (c.link.table.map (·.cls)) ++ u8 c.gate.held.length ++ u8 c.matrix.queue.length ++
  u8 c.matrix.slots.length ++ u8 c.link.reports.length ++ u8 c.store.queue.length ++ u8 (busyCtxs c).length ++
  u8 c.hall.sources.length ++ c.hall.sources.flatMap (fun x => u8 (sourceCode x))

/-- Items of a list from an index, at most `most`: their number, and the items. Index 0 is the first item, as in R168,
where R201 is silent: the model's choice (log entry 6). -/
def itemOctets {α : Type} (l : List α) (index most : Nat) (f : α → List Byte) : List Byte :=
  u8 ((l.drop index).take most).length ++ ((l.drop index).take most).flatMap f

def stationOctets (c : Ctl) (a : Nat) : List Byte :=
  u8 a ++ u8 (match stationClass c.site.work a with | some k => k.code | none => 0) ++
  u8 (if a ∈ c.link.silent then 2 else 1)

/-- Owner of a path: context 1, OPERATIONS 2, IDLE 3, and the context's number. -/
def pathOwnerOctets : PathOwner → List Byte
  | .ctx n => u8 1 ++ u8 n
  | .operations => u8 2 ++ opt1 none
  | .idle => u8 3 ++ opt1 none

/-- A proof: NONE, or IN_PROGRESS with the tag of its READ, absent while the READ has none (R39, R78). -/
def proofOctets : Proof → List Byte
  | .none => u8 1 ++ opt1 none
  | .inProgress t => u8 2 ++ opt1 t

/-- Every field of R78. The time takes three octets, with which three records fit one answer (R201): the model's choice (log
entry 6). -/
def pathOctets (p : Path) : List Byte :=
  u8 p.tx ++ u8 p.ant ++ u8 p.state.code ++ pathOwnerOctets p.owner ++ opt1 (p.stage.map PathStage.code) ++
  proofOctets p.proof ++ u8 p.priority ++ be3 (p.since / 1000) ++
  (match p.reference with
   | some r => u8 r.station ++ u8 r.tag
   | none => opt2 none)

def xpOctets (c : Ctl) (q : Nat × Nat) : List Byte :=
  u8 q.1 ++ u8 q.2 ++ u8 (xpAt c q.1 q.2).state.code ++ u8 (xpAt c q.1 q.2).position.code

/-- Octets holding one bit for each number from 1, the first in the least significant place. -/
def maskOctets (octets : Nat) (l : List Nat) : List Byte :=
  (List.range octets).reverse.map (fun k =>
    BitVec.ofNat 8 ((List.range 8).foldl (fun s i => s + if 8 * k + i + 1 ∈ l then 2 ^ i else 0) 0))

/-- Section PANEL, with the total count 1 as in SUMMARY: the model's choice (R201, log entry 6). -/
def panelOctets (p : Panel) : List Byte :=
  u8 1 ++ maskOctets 3 p.cond.locals ++ maskOctets 5 p.cond.lockouts ++ yesNo p.cond.maintenance ++ yesNo p.cond.push

/-- The crosspoints of the present geometry that are not OPEN. -/
def notOpen (c : Ctl) : List (Nat × Nat) :=
  (allXps c.site.work).filter (fun q => decide ((xpAt c q.1 q.2).state ≠ .opened))

/-- PART_STATUS. Only a SUMMARY answer clears the reports-lost flag, which it shows as it stood (R37). The index
is not looked at for SUMMARY and PANEL, which hold no items: the model's choice (R201, log entry 6). So is the order in which
the index counts: stations by ascending address, paths in order of creation, crosspoints by row, then column. -/
def partStatus (o : OwnOrder) (c : Ctl) : Ctl :=
  match o.payload with
  | [sec, i1, i2] =>
    let i := rd2 i1 i2
    let answer := fun (l : List Byte) => answerDone o.src o.tag 55 l c
    if sec = 1#8 then (answer (summaryOctets c)).onLink (fun k => { k with reportsLost := false })
    else if sec = 2#8 then
      answer (u8 (knownStations c.site.work).length ++ itemOctets (knownStations c.site.work) i 14 (stationOctets c))
    else if sec = 3#8 then answer (u8 c.matrix.paths.length ++ itemOctets c.matrix.paths i 3 pathOctets)
    else if sec = 4#8 then answer (be2 (notOpen c).length ++ itemOctets (notOpen c) i 8 (xpOctets c))
    else if sec = 5#8 then answer (panelOctets c.panel)
    else refuseOrder o 55 .badRecord (u8 0) c
  | _ => refuseOrder o 55 .badRecord (u8 0) c

end Sys2Proof.Machine
end

