-- ==== Sys2Proof/Machine/StartUp.lean ====
section
/-! DEFINITION. Start-up: power-up and RESTART (R16, R38, R75, R139, R155, R191, R192, R194, R196), STORE_CHECK (R138),
SURVEY (R197), ADOPT (R198, R199) and the entry to RUNNING (R200). -/

namespace Sys2Proof.Machine

/-! ## What both resets do -/

/-- The dynamic records of the loaded transmitters and antennas start as created ones do (R16). -/
def freshTx (t : Tables) : Table TxDyn := t.tx.map (fun p => (p.1, TxDyn.initial))
def freshAnt (t : Tables) : Table AntDyn := t.ant.map (fun p => (p.1, AntDyn.initial p.2.kind))

/-- Every panel input is sampled as it stands (R192). -/
def samplePanel (p : Panel) : Panel := { p with cond := p.raw, edges := [] }

/-- A push newly found on brings the hall stop into force (R192, R194). -/
def pushSampled (was : Bool) (c : Ctl) : Ctl := if c.panel.cond.push && !was then hallStopOn .push c else c

/-- The working copy is loaded from the latest valid image of the site area, the flag of unsaved changes clear (R15,
R16), and the dynamic records start afresh. -/
def loadSite (c : Ctl) : Ctl :=
  let t := loadedTables c.site
  { c with site := { c.site with work := t, unsaved := false }, aerial := freshAnt t,
           gate := { c.gate with tx := freshTx t, held := [] } }

/-! ## Power-up -/

/-- Power-up: only the non-volatile store, the contacts of the panel and what the other stations hold survive. -/
def powerUp (c : Ctl) : Ctl :=
  let s := resetStore c
  let c' : Ctl :=
    { Ctl.reset with
      clock := s.clock
      free := s.free
      link := { Link.initial with opsHeldOff := c.link.opsHeldOff, opsInput := c.link.opsInput }
      site := { Ctl.reset.site with image1 := c.site.image1, image2 := c.site.image2 }
      store := s.store
      panel := samplePanel c.panel }
  pushSampled false (pushOnce .opsTake (loadSite c'))

/-! ## RESTART (R196) -/

/-- ANSWER REFUSED RESTARTING, where an operations station is owed the answer of a frame. -/
def refuseOwed (f : PFrame) (c : Ctl) : Ctl :=
  match f.origin with
  | .ops station tag => answerRefused station tag f.verb.code Reason.restarting.code [] c
  | _ => c

/-- The refusals of R38, and that of a pending LOAD CLOSE. -/
def refuseRestarting (c : Ctl) : Ctl :=
  let passed := (c.link.plantQueue.filter (fun q => q.frame.cls == .passed)).map (·.frame)
  let held := c.gate.held.map (·.frame)
  answerClose (some .restarting) (forEach (c.link.table.map entryFrame) refuseOwed
    (forEach held refuseOwed (forEach passed refuseOwed c)))

/-- A slot that holds a movement is kept, in stage RELEASING_COIL for its coil (R75). -/
def keptSlots (l : Table Movement) : Table Movement := l.map (fun p => (p.1, { p.2 with stage := .releasingCoil }))

/-- A BUSY context is freed FAILED, RESTART, in the phase it had reached (R191). -/
def restartedCtx (x : Ctx) : Ctx :=
  if x.busy then { x with busy := false, outcome := .failed, reason := some .restart, cause := 0 } else x

/-- What each block empties at RESTART. -/
def emptyBlocks (c : Ctl) : Ctl :=
  let s := resetStore c
  { s with
    agenda := []
    link := { s.link with plantQueue := [], urgentWaiters := [], internalWaiters := [], table := [], silent := [],
                          reports := [] }
    matrix := { s.matrix with xps := [], slots := keptSlots s.matrix.slots, queue := [], waiting := [], paths := [] }
    load := Load.initial
    plan := { s.plan with events := [], scan := { time := 0, resume := none, left := [] }, fullLatch := false,
                          watch := none }
    cu := s.cu.map (fun p => (p.1, restartedCtx p.2))
    start := { phase := .storeCheck, last := .restart, surveyAt := 0, heard := [], timeSet := false, retire := none } }

/-- RESTART: answered DONE first, then the refusals, the emptying, the load and the sampling. -/
def restart (o : OwnOrder) (c : Ctl) : Ctl :=
  let was := c.panel.cond.push
  let c := emptyBlocks (refuseRestarting (answerDone o.src o.tag 56 [] c))
  pushSampled was ((loadSite c).onPanel samplePanel)

/-! ## SURVEY (R197) -/

/-- A survey frame is offered in the INTERNAL class. -/
def offerSurvey (station : Nat) (v : PlantVerb) (c : Ctl) : Ctl :=
  offer { dest := station, verb := v, cls := .internal, origin := .survey } c

/-- The coil bits of every crosspoint within the geometry, close coil then open coil. R197 gives no order among the crosspoints:
by row, then column, is the model's choice (log entry 16). -/
def surveyCoils (t : Tables) : List Nat := (allXps t).flatMap (fun p => [xpBase p.1 p.2, xpBase p.1 p.2 + 1])

/-- The READs of a row: its 2C sensor bits, at most 16 each, ascending. -/
def rowReads (cols row : Nat) : List (Nat × Nat) :=
  (List.range (ceilDiv (2 * cols) 16)).map (fun i => (xpBase row 1 + 16 * i, min 16 (2 * cols - 16 * i)))

def surveyReads (g : Geometry) : List (Nat × Nat) := (upTo g.rows).flatMap (rowReads g.cols)

/-- The stations that get a QUERY: transmitters by number, then drives by antenna: the model's choice (R197, log entry 16). -/
def surveyQueries (t : Tables) : List Nat := t.tx.map (fun p => p.2.station) ++ t.ant.filterMap (fun p => p.2.drive)

/-- Every station the survey questions, the matrix station last. R197 gives no order, neither for the QUERYs nor for the alarms of
the stations that were not heard: this one is the model's choice (log entry 16). -/
def surveyed (t : Tables) : List Nat := surveyQueries t ++ (matrixStation t).toList

/-- A kept slot's coil of which the survey sends no CLEAR gets one from the Matrix Interlocking (R75). -/
def clearKept (p : Nat × Movement) (c : Ctl) : Ctl :=
  if coilBitInGeometry c.site.work (coilBit p.2.req) then c else offerClear p.1 p.2.req c

/-- SURVEY begins: coil CLEARs, sensor READs, QUERYs. -/
def beginSurvey (c : Ctl) : Ctl :=
  let t := c.site.work
  let c := c.onStart (fun s => { s with phase := .survey, surveyAt := c.clock, heard := [] })
  let c := match t.site.geometry with
    | some g =>
      forEach (surveyReads g) (fun r c => offerSurvey g.station (.latchRead r.1 r.2) c)
        (forEach (surveyCoils t) (fun b c => offerSurvey g.station (.latchClear b) c) c)
    | none => c
  push [.surveyCheck]
    (forEach c.matrix.slots clearKept (forEach (surveyQueries t) (fun st c => offerSurvey st .query c) c))

/-- The store scan ends (R138), and SURVEY begins. -/
def storeCheckEnd (c : Ctl) : Ctl := if c.start.phase = .storeCheck then beginSurvey (storeScan c) else c

/-- A survey frame. -/
def isSurvey (f : PFrame) : Bool := decide (f.origin = .survey)

/-- A survey CLEAR removed unsent: the Matrix Interlocking offers a further one for a kept slot (R75). -/
def surveyRemoved (f : PFrame) (c : Ctl) : Ctl :=
  match f.verb with
  | .latchClear bit => coilNotCleared bit c
  | _ => c

/-- Survey frames still waiting are removed. -/
def dropSurveyFrames (c : Ctl) : Ctl :=
  let gone := (c.link.plantQueue.map (·.frame) ++ c.link.internalWaiters).filter isSurvey
  forEach gone surveyRemoved (pushOnce .slot (c.onLink (fun k => { k with
    plantQueue := k.plantQueue.filter (fun q => !isSurvey q.frame)
    internalWaiters := k.internalWaiters.filter (fun f => !isSurvey f) })))

/-! ## ADOPT (R198) -/

/-- What ADOPT makes of a CLOSED crosspoint, against the table as SURVEY left it. -/
inductive Adoption where
  | path (tx ant : Nat)
  | leave
  | stuck
  deriving DecidableEq, Repr

def adoption (c : Ctl) (row col : Nat) : Adoption :=
  if (rowColOthers c.site.work row col).all (fun q => decide ((xpAt c q.1 q.2).state = .opened)) then
    match txOfRow c.site.work row, antOfCol c.site.work col with
    | some n, some a => .path n a
    | _, _ => .leave
  else .stuck

/-- The crosspoints found CLOSED, each with what becomes of it. R198 does not say in which order ADOPT takes them, and so raises
its alarms, makes its paths and begins their proofs: by row, then column, is the model's choice (log entry 16). -/
def adoptions (c : Ctl) : List ((Nat × Nat) × Adoption) :=
  ((allXps c.site.work).filter (fun q => decide ((xpAt c q.1 q.2).state = .closed))).map
    (fun q => (q, adoption c q.1 q.2))

/-- A path found closed: SETTING, stage CLOSED, owner IDLE. -/
def adoptPath (q : (Nat × Nat) × Adoption) (c : Ctl) : Ctl :=
  match q.2 with
  | .path n a => c.onMatrix (fun m => { m with
      nextPid := m.nextPid + 1
      paths := m.paths ++ [
        { pid := m.nextPid, tx := n, ant := a, row := q.1.1, col := q.1.2, state := .setting, owner := .idle,
          stage := some .closed, proof := .none, priority := c.site.work.site.manualPriority, since := c.clock,
          reference := none, granted := false, settleFrom := c.clock, awaits := [] }] })
  | .leave => c
  | .stuck => becomeStuck q.1.1 q.1.2 c

/-- The proof of an adopted path is begun (R81). -/
def proveAdopted (pid : Nat) (c : Ctl) : Ctl :=
  match pathOf c pid with
  | some p => beginProof p c
  | none => c

/-- The first part of ADOPT. -/
def beginAdopt (c : Ctl) : Ctl :=
  let c := forEach (adoptions c) adoptPath (c.onStart (fun s => { s with phase := .adopt }))
  push [.adoptCheck] (forEach (c.matrix.paths.map (·.pid)) proveAdopted c)

/-- SURVEY ends: leftover frames are removed and silent stations take NO_ANSWER, in the order of `surveyed`, which is the model's
choice (R197, log entry 16). -/
def endSurvey (c : Ctl) : Ctl :=
  let c := dropSurveyFrames c
  beginAdopt (forEach ((surveyed c.site.work).filter (fun a => !decide (a ∈ c.start.heard))) stationSilent c)

/-- SURVEY ends when its last frame has ended. -/
def surveyCheck (c : Ctl) : Ctl :=
  if c.start.phase = .survey ∧ !framePending c.link isSurvey then endSurvey c else c

/-- 10 s have passed since SURVEY began. -/
def surveyTimeout (c : Ctl) : Ctl :=
  if c.start.phase = .survey then endSurvey (clockReaches (c.start.surveyAt + Config.surveyLimit) c) else c

/-! ## The standing of each transmitter (R199) -/

/-- The occurrence a transmitter on the air is found to run: highest priority, then lowest id. -/
def adoptable (c : Ctl) (n : Nat) (d : TxDyn) (p : Path) : Option Consider :=
  match activeBank c, c.plan.time with
  | some bk, some now =>
    ((startsBefore c bk ((scheduleEntries (bankRec c bk)).filter (fun e =>
        e.tx == n && e.ant == p.ant && decide (d.freq = some e.freq))) now).filter (fun x =>
          x.key.isStart && decide (now < x.finish))).foldl
      (fun best x => match best with
        | none => some x
        | some y =>
          if x.key.priority > y.key.priority ∨ (x.key.priority = y.key.priority ∧ x.occ.id < y.occ.id) then some x
          else some y) none
  | _, _ => none

/-- A transmitter is adopted as running an occurrence. -/
def adoptRunning (n : Nat) (x : Consider) (c : Ctl) : Ctl :=
  setRowOwner n .operations
    (recordOcc { occ := x.occ, start := x.key.time, occEnd := x.finish, returned := false }
      (modTx n (fun d => { d with
        owner := .none, running := some { occ := x.occ, start := x.start, endTime := x.finish, priority := x.key.priority } }) c))

/-- One transmitter is given its standing. -/
def adoptTx (n : Nat) (c : Ctl) : Ctl :=
  match txDyn c n with
  | none => c
  | some d =>
    if !d.live then modTx n (fun d => { d with owner := .none }) c
    else match claimPath c n with
      | none => c
      | some p =>
        if p.state ≠ .proven then setRowOwner n .operations c
        else match (if d.carrier = .on then adoptable c n d p else none) with
          | some x => adoptRunning n x c
          | none => setRowOwner n .operations (modTx n (fun d => { d with owner := .operations }) c)

/-! ## RUNNING (R200) -/

/-- The entry to RUNNING. No request has been queued before, so the header write of a bank found RETIRED has its place in the
store queue. -/
def enterRunning (c : Ctl) : Ctl :=
  let c := raise .startupDone .none 0 c.start.last.code none none (c.onStart (fun s => { s with phase := .running }))
  let c := match c.start.retire with
    | some bk =>
      (if storeRoom c.store then queueRequest (.header bk .recordRetired none) c else c).onStart (fun s =>
        { s with retire := none })
    | none => c
  match activationDue c with
  | some (bk, now) => activate bk now c
  | none => if c.start.last = .restart ∨ c.start.timeSet then rebuild c else c

/-- ADOPT's first part ends when every proof it began has ended; then each transmitter is decided, the interlock is
evaluated once for each, and RUNNING is entered. -/
def adoptCheck (c : Ctl) : Ctl :=
  if c.start.phase = .adopt ∧ c.matrix.paths.all (fun p => decide (p.proof = .none)) then
    let txs := c.gate.tx.map (·.1)
    enterRunning (forEach txs interlockNow (forEach txs adoptTx c))
  else c

end Sys2Proof.Machine
end

