-- ==== Sys2Proof/Machine/Router.lean ====
section
/-! DEFINITION. Frames at the two ports: what the Link Interface takes and discards (R18, R19), where it routes a frame from
the operations side (R20) and a frame from the plant (R30, R33, R34), the answer timeout (R31) and the hold expiry
(R59). -/

namespace Sys2Proof.Machine

/-! ## The Matrix Interlocking's orders (R74, R87, R89) -/

/-- PATH_SET (R87). -/
def pathSet (o : OwnOrder) (c : Ctl) : Ctl :=
  match o.payload with
  | [n, a] =>
    match pathSetCheck n.toNat a.toNat c with
    | some (r, detail) => refuseOrder o 32 r detail c
    | none =>
      let r := pathSetAct n.toNat a.toNat (orderRef o) c
      if r.2 then answerAccepted o.src o.tag 32 r.1 else answerDone o.src o.tag 32 [] r.1
  | _ => refuseOrder o 32 .badRecord (u8 0) c

/-- PATH_FREE (R89). -/
def pathFree (o : OwnOrder) (c : Ctl) : Ctl :=
  match o.payload with
  | [n] =>
    match pathFreeCheck n.toNat c with
    | some (r, detail) => refuseOrder o 33 r detail c
    | none => answerDone o.src o.tag 33 [] (pathFreeAct n.toNat c)
  | _ => refuseOrder o 33 .badRecord (u8 0) c

/-- XP_CLEAR (R74). A payload of another length is refused BAD_RECORD before the check of the start-up phase, here and in
PATH_SET and PATH_FREE: the model's choice (log entry 5). -/
def xpClear (o : OwnOrder) (c : Ctl) : Ctl :=
  match o.payload with
  | [row, col] =>
    match xpClearOrder row.toNat col.toNat c with
    | .ok c => answerDone o.src o.tag 34 [] c
    | .error (code, detail) => answerRefused o.src o.tag 34 code detail c
  | _ => refuseOrder o 34 .badRecord (u8 0) c

/-! ## From the operations side (R18, R20) -/

def isOpsAddress (a : Nat) : Bool := decide (Config.opsLow ≤ a) && decide (a ≤ Config.opsHigh)

/-- A frame ending at the operations port whose check, length and kind are good is discarded without answer (R18). -/
def opsDiscards (f : Frame) : Bool :=
  !isOpsAddress f.src || decide (128 ≤ f.tag) || decide (Config.maxPayload < f.payload.length) ||
  (match f.kind with
   | .order => false
   | .latch => false
   | .load => decide (f.dest ≠ Config.ownStation)
   | _ => true)

/-- The Link Interface refuses a frame (R20, R21). -/
def refuseOps (f : Frame) (r : Reason) (detail : List Byte) (c : Ctl) : Ctl :=
  answerRefused f.src f.tag f.verb r.code detail c

/-- The owner of an order to the controller, by its verb (R20, section 2.11). -/
def ownerOf : Nat → Option (OwnOrder → Ctl → Ctl)
  | 32 => some pathSet
  | 33 => some pathFree
  | 34 => some xpClear
  | 35 => some holdLevel
  | 36 => some hallStop
  | 37 => some hallResume
  | 38 => some timeSet
  | 39 => some siteWrite
  | 40 => some siteRead
  | 41 => some siteSave
  | 42 => some storeOpen
  | 43 => some storeClose
  | 44 => some bankCreate
  | 45 => some bankSeal
  | 46 => some bankClear
  | 47 => some entryAppend
  | 48 => some entryVoid
  | 49 => some pageErase
  | 50 => some storeStatus
  | 51 => some storeFaultClear
  | 52 => some entryRead
  | 53 => some planRead
  | 54 => some contextRead
  | 55 => some partStatus
  | 56 => some restart
  | _ => none

def orderOf (f : Frame) : OwnOrder := { src := f.src, tag := f.tag, payload := f.payload }

/-- A frame addressed to the controller. -/
def routeOwn (f : Frame) (c : Ctl) : Ctl :=
  match f.kind with
  | .order =>
    (match ownerOf f.verb with
     | some act => act (orderOf f) c
     | none => refuseOps f .badRecord (u8 0) c)
  | .load =>
    (match f.verb with
     | 1 => loadOpen (orderOf f) c
     | 2 => loadData (orderOf f) c
     | 3 => loadClose (orderOf f) c
     | v => loadBadSubverb v (orderOf f) c)
  | _ => refuseOps f .badRecord (u8 0) c

/-- A frame of an operations station goes to the gate in the PASSED class. -/
def gatePassed (f : Frame) (v : PlantVerb) (c : Ctl) : Ctl :=
  offer { dest := f.dest, verb := v, cls := .passed, origin := .ops f.src f.tag } c

/-- A frame to a plant station, or to no station (R20). -/
def routePlant (f : Frame) (c : Ctl) : Ctl :=
  match stationClass c.site.work f.dest with
  | some .transmitter =>
    if f.kind = .order ∧ verbOfClass .transmitter f.verb then gatePassed f (parseTransmitterVerb f.verb f.payload) c
    else refuseOps f .badRecord (u8 0) c
  | some .drive =>
    if f.kind = .order ∧ verbOfClass .drive f.verb then gatePassed f (parseDriveVerb f.verb f.payload) c
    else refuseOps f .badRecord (u8 0) c
  | some .matrix => gatePassed f (.other f.kind f.verb f.payload) c
  | some .auxiliary => gatePassed f (.other f.kind f.verb f.payload) c
  | none => refuseOps f .unknownStation [] c

/-- A taken frame is routed by its destination (R20). -/
def routeOps (f : Frame) (c : Ctl) : Ctl :=
  if f.dest = Config.ownStation then routeOwn f c
  else if isOpsAddress f.dest then releasePlace c
  else routePlant f c

/-- A frame is taken: it reserves a place, and is routed. -/
def takeOps (f : Frame) (c : Ctl) : Ctl := routeOps f (c.onLink (fun k => { k with reserved := k.reserved + 1 }))

/-- A frame ends at the operations port: discarded, taken, or held by the operations side until a place frees (R18). -/
def opsFrameEnds (f : Frame) (c : Ctl) : Ctl :=
  if opsDiscards f then c
  else if opsRoom c.link ∧ c.link.opsInput.isEmpty then takeOps f c
  else c.onLink (fun k => { k with opsInput := k.opsInput ++ [f] })

/-- A place has freed: the frame held by the operations side is taken. -/
def opsTake (c : Ctl) : Ctl :=
  if opsRoom c.link then
    match c.link.opsInput with
    | f :: rest => pushOnce .opsTake (takeOps f (c.onLink (fun k => { k with opsInput := rest })))
    | [] => c
  else c

/-- Octets end at the operations port. -/
def opsOctets (raw : List Byte) (c : Ctl) : Ctl :=
  match parseFrame raw with
  | some f => opsFrameEnds f c
  | none => c

/-! ## From the plant (R19, R30 to R34) -/

/-- A STATUS goes to the block that keeps the state of the station's class (R34). A payload that is not the class's
leaves the records as they are. -/
def plantStatus (k : StationClass) (f : Frame) (c : Ctl) : Ctl :=
  match k with
  | .transmitter =>
    (match txOfStation c.site.work f.src, parseTxReport f.payload with
     | some n, some r => applyTxReport n r c
     | _, _ => c)
  | .drive =>
    (match antOfDrive c.site.work f.src, parseDriveReport f.payload with
     | some a, some r => applyDriveReport a r c
     | _, _ => c)
  | .matrix =>
    (match parseMatrixStatus f.payload with
     | some bits => takeBits bits none c
     | none => c)
  | .auxiliary => c

/-- The outcome is DONE, or ACCEPTED taken as DONE (R30, R62). -/
def Outcome.good : Outcome → Bool
  | .refused => false
  | _ => true

/-- A transmitter's ANSWER is read: to a QUERY as a STATUS, to another verb by R62. -/
def readTxAnswer (n : Nat) (f : Frame) (o : Outcome) (c : Ctl) : Ctl :=
  if f.verb = 6 then
    if o.good then
      match parseTxReport (f.payload.drop 2) with
      | some r => applyTxReport n r c
      | none => c
    else afterRecord n false c c
  else applyTxAnswer n f.verb o.good f.dest f.tag c

/-- The Traffic Gate and the Antenna Unit read an ANSWER for their record updates (R30, R61, R62, R93). -/
def readAnswer (k : StationClass) (f : Frame) (o : Outcome) (c : Ctl) : Ctl :=
  match k with
  | .transmitter =>
    (match txOfStation c.site.work f.src with
     | some n => readTxAnswer n f o c
     | none => c)
  | .drive =>
    if f.verb = 6 ∧ o.good then
      match antOfDrive c.site.work f.src, parseDriveReport (f.payload.drop 2) with
      | some a, some r => applyDriveReport a r c
      | _, _ => c
    else c
  | _ => c

/-- The entry an ANSWER matches (R30). -/
def matchEntry (f : Frame) (k : Link) : Option Entry := exchangeOf k f.src f.dest f.tag

def answerOfFrame (f : Frame) : Answer := { dest := f.dest, src := f.src, tag := f.tag, verb := f.verb, payload := f.payload }

/-- The ANSWER is forwarded unchanged into the place its order reserved. -/
def forwardAnswer (f : Frame) (c : Ctl) : Ctl :=
  c.onLink (fun k => { k with reserved := k.reserved - 1, answers := k.answers ++ [answerOfFrame f] })

/-- The matched entry ends and the ANSWER goes to its origin. -/
def matchedAnswer (e : Entry) (f : Frame) (o : Outcome) (c : Ctl) : Ctl :=
  let code := ((f.payload.drop 1).head?.map BitVec.toNat).getD 0
  let c := endEntry e c
  let c := match e.origin with
    | .ops _ _ => forwardAnswer f c
    | _ => c
  let c := match e.verb with
    | .latchRead _ _ => if o.good then readAnswered e ((parseRead (f.payload.drop 2)).getD []) c else c
    | _ => c
  push [.port, .ended e (some o) code] c

/-- An ANSWER that matches no entry (R33). -/
def strayAnswer (f : Frame) (c : Ctl) : Ctl :=
  if f.tag < 128 ∧ isOpsAddress f.dest then forwardStray (answerOfFrame f) c else c

/-- An ANSWER accepted at the plant port. -/
def plantAnswer (k : StationClass) (f : Frame) (c : Ctl) : Ctl :=
  match f.payload with
  | [] => c
  | first :: _ =>
    match outcomeOf first.toNat with
    | none => c
    | some o =>
      let c := readAnswer k f o c
      match matchEntry f c.link with
      | some e => matchedAnswer e f o c
      | none => strayAnswer f c

/-- A frame ends at the plant port (R19). -/
def plantFrameEnds (f : Frame) (c : Ctl) : Ctl :=
  match stationClass c.site.work f.src with
  | none => c
  | some k =>
    match f.kind with
    | .status => plantStatus k f (stationHeard f.src c)
    | .answer => plantAnswer k f (stationHeard f.src c)
    | _ => c

/-- Octets end at the plant port. -/
def plantOctets (raw : List Byte) (c : Ctl) : Ctl :=
  match parseFrame raw with
  | some f => plantFrameEnds f c
  | none => c

/-! ## Timers of the Link Interface and the gate (R31, R59) -/

/-- An entry's timer reaches 2 s: it ends with NO_ANSWER. So does one for a station that the site tables no longer know, with
the same answer state and alarm: the model's choice (log entry 10). -/
def entryTimedOut (e : Entry) (c : Ctl) : Ctl :=
  let c := applyTxTimeout e (stationSilent e.station (endEntry e c))
  let c := match e.origin with
    | .ops station tag => answerRefused station tag e.verb.code Reason.noAnswer.code [] c
    | _ => c
  push [.port, .ended e none Reason.noAnswer.code] c

/-- The oldest running answer timer expires. -/
def answerTimeout (c : Ctl) : Ctl :=
  match c.link.table.find? (fun e => e.sent.isSome) with
  | some e => entryTimedOut e (clockReaches (e.sent.getD 0 + Config.answerTimeout) c)
  | none => c

/-- 20 s have passed since the first frame of the hold queue was held. -/
def holdExpiry (c : Ctl) : Ctl :=
  match c.gate.held with
  | [] => c
  | h :: _ =>
    let r : Reason := match h.waits with
      | .path => .pathUnproven
      | .power => .plantBusy
    refuseBy h.frame r (dropHeld h (clockReaches (h.since + Config.holdLimit) c))

end Sys2Proof.Machine
end

