-- ==== Sys2Proof/Machine/Signals.lean ====
section
/-! DEFINITION. The consequences of a step: what each one does, and their settling within the instant, first in, first
out. -/

namespace Sys2Proof.Machine

/-- The clamping POWER did not go through: frames waiting on it are refused (R59). -/
def clampFailed (station code : Nat) (detail : List Byte) (c : Ctl) : Ctl :=
  refuseHeld (fun h => h.frame.dest == station && h.waits == .power) code detail c

/-- The gate's refusal of a frame of the controller's own reaches its producer (R57). -/
def ownRefused (f : PFrame) (code : Nat) (c : Ctl) : Ctl :=
  match f.origin with
  | .ops _ _ => c
  | .ctx n w => ctxRefused f n w code (jobRefused f code c)
  | .mi purpose => miRefused purpose code c
  | .gate .clamp => clampFailed f.dest code [] c
  | .gate _ => c
  | .au => c
  | .hallStop => c
  | .survey => pushOnce .surveyCheck (surveyRemoved f c)

/-- The exchange of a frame the gate made has ended (R54, R59, R65). -/
def gateEnded (e : Entry) (purpose : GatePurpose) (outcome : Option Outcome) (code : Nat) (c : Ctl) : Ctl :=
  match purpose, outcome, txOfStation c.site.work e.station with
  | .interlock, some .refused, some n => interlockAgain n c
  | .interlock, none, some n => interlockAgain n c
  | .clamp, some .refused, _ => clampFailed e.station code (u8 2) c
  | .clamp, none, _ => clampFailed e.station code [] c
  | .clamp, _, some n => push [.recheckPower n] c
  | _, _, _ => c

/-- The exchange of a survey frame has ended (R75, R197). -/
def surveyEnded (e : Entry) (outcome : Option Outcome) (c : Ctl) : Ctl :=
  pushOnce .surveyCheck (match e.verb, outcome with
    | .latchClear bit, some .done => coilCleared bit c
    | .latchClear bit, some .accepted => coilCleared bit c
    | .latchClear bit, _ => coilNotCleared bit c
    | _, _ => c)

/-- An exchange has ended, by an ANSWER or by timeout: its origin consumes it (R30, R31). -/
def exchangeEnded (e : Entry) (outcome : Option Outcome) (code : Nat) (c : Ctl) : Ctl :=
  match e.origin with
  | .ops _ _ => jobExchangeEnded e outcome code c
  | .ctx n w => ctxEnded e n w outcome code (jobExchangeEnded e outcome code c)
  | .mi purpose => miEnded e purpose outcome code c
  | .gate purpose => gateEnded e purpose outcome code c
  | .au => c
  | .hallStop => c
  | .survey => surveyEnded e outcome c

/-- One consequence is carried out. -/
def handle (x : Signal) (c : Ctl) : Ctl :=
  match x with
  | .slot => giveSlot c
  | .port => portChoose c
  | .opsTake => opsTake c
  | .refused f code => ownRefused f code c
  | .ended e outcome code => exchangeEnded e outcome code c
  | .interlock n => interlock n c
  | .withdraw n => withdraw n c
  | .watch n => carrierWatch n c
  | .holdEnd n => endOpsHold n c
  | .recheckPath n => recheckWhere (fun h => heldFor c n h && h.waits == .path) c
  | .recheckPower n => recheckWhere (fun h => heldFor c n h && h.waits == .power) c
  | .recheckTx n => recheckWhere (heldFor c n) c
  | .fitPower n => fitPower n c
  | .ctxRecord n report => ctxRecord n report c
  | .abort n w reason => abortCtx n w reason c
  | .pathNews n w news => ctxPathNews n w news c
  | .jobEnded n w ok code => ctxJobEnded n w ok code c
  | .arbiter => arbiter c
  | .actPath pid => actPath pid c
  | .columns => lookAgain c
  | .ctxFreed => ctxFreed c
  | .offerLog => offerLog c
  | .offerReturned n => offerReturned n c
  | .dispatch => dispatch c
  | .occFailed occ => occFailed occ c
  | .appended bk e => appendedEntry bk e c
  | .voided bk id => voidedEntry bk id c
  | .activation => activation c
  | .engine => engine c
  | .intake => intake c
  | .surveyCheck => surveyCheck c
  | .adoptCheck => adoptCheck c

/-- The consequences noted are carried out in order, with those they add, at most `fuel` of them. After each, contexts look
again where it changed what they judge by (R175). -/
def settle : Nat → Ctl → Ctl
  | 0, c => c
  | fuel + 1, c =>
    match c.agenda with
    | [] => c
    | x :: rest => settle fuel (noteColumns c (handle x { c with agenda := rest }))

/-- The most consequences of one step; any left are carried out by the next step (log entry 3). -/
def settleLimit : Nat := 16384

/-- The end of a step: its consequences are carried out, then the operations transmitter chooses if it is free (R23). -/
def finish (c : Ctl) : Ctl := opsChoose (settle settleLimit c)

/-- A command acts on the controller; the queue of commands is left as it is. -/
def act (f : Ctl → Ctl) (s : State) : Host.Outcome State Fault Refusal :=
  .next { s with ctl := finish (noteColumns s.ctl (f s.ctl)) }

end Sys2Proof.Machine
end

