-- ==== Sys2Proof/Machine/ContextCommands.lean ====
section
/-! DEFINITION. The meanings of the commands: the deadlines of contexts. -/

namespace Sys2Proof.Machine

/-- MUTE_DEADLINE (R173): The MUTING deadline of Tm + 10 s expires, and the context fails MUTE_TIMEOUT. -/
def execMuteDeadline (context : Nat) (s : State) : Host.Outcome State Fault Refusal :=
  act (phaseDeadline context .muting .muteTimeout) s

/-- RELEASE_DEADLINE (R174): The RELEASING deadline of 3 x Sx + 5 s expires, and the context fails RELEASE_TIMEOUT. -/
def execReleaseDeadline (context : Nat) (s : State) : Host.Outcome State Fault Refusal :=
  act (phaseDeadline context .releasing .releaseTimeout) s

/-- SUBSTEP_DEADLINE (R177): A retune, path or position sub-step deadline expires, and the context fails with that
sub-step's reason. -/
def execSubstepDeadline (context : Nat) (sub : SubStep) (s : State) : Host.Outcome State Fault Refusal :=
  act (subDeadline context sub) s

/-- PROVE_DEADLINE (R181): The 5 s PROVING deadline expires, and the context fails PROVE_FAILED. -/
def execProveDeadline (context : Nat) (s : State) : Host.Outcome State Fault Refusal :=
  act (phaseDeadline context .proving .proveFailed) s

/-- RAISE_DEADLINE (R182): The RAISING deadline of Tu + 10 s expires, and the context fails RAISE_TIMEOUT. -/
def execRaiseDeadline (context : Nat) (s : State) : Host.Outcome State Fault Refusal :=
  act (phaseDeadline context .raising .raiseTimeout) s

/-- CONTEXT_MISSED (R184): A BUSY START context's occurrence end passes, and the context ends MISSED with cleanup. -/
def execContextMissed (context : Nat) (s : State) : Host.Outcome State Fault Refusal := act (contextMissed context) s

end Sys2Proof.Machine
end

