-- ==== Sys2Proof/Machine/LoadCommands.lean ====
section
/-! DEFINITION. The meanings of the commands: LOAD frames and the idle timer of a burst. -/

namespace Sys2Proof.Machine

/-- The LOAD frame of an operations station to station 120 with a sub-verb. -/
def loadFrame (subverb : Nat) (o : OwnOrder) : Frame :=
  { dest := Config.ownStation, src := o.src, kind := .load, tag := o.tag, verb := subverb, payload := o.payload }

/-- LOAD_OPEN (R141): A burst is opened on the open FILLING bank under a new burst number. -/
def execLoadOpen (o : OwnOrder) (s : State) : Host.Outcome State Fault Refusal := act (opsFrameEnds (loadFrame 1 o)) s

/-- LOAD_DATA (R142): A burst record is counted, fed into the running check and buffered, or counted as an overrun;
flow control acts on the buffer level. -/
def execLoadData (o : OwnOrder) (s : State) : Host.Outcome State Fault Refusal := act (opsFrameEnds (loadFrame 2 o)) s

/-- LOAD_CLOSE (R146): The opener's close puts the burst into CLOSING, to be judged once the buffer has drained, or is
refused. -/
def execLoadClose (o : OwnOrder) (s : State) : Host.Outcome State Fault Refusal :=
  act (opsFrameEnds (loadFrame 3 o)) s

/-- LOAD_BAD_SUBVERB (R150): A LOAD frame to the controller with sub-verb PAUSE, RESUME or an unknown code is refused
BAD_RECORD, check 0. -/
def execLoadBadSubverb (subverb : Nat) (o : OwnOrder) (s : State) : Host.Outcome State Fault Refusal :=
  act (opsFrameEnds (loadFrame subverb o)) s

/-- LOAD_IDLE_TIMEOUT (R145): The burst's idle timer expires and the burst is abandoned with IDLE_TIMEOUT. -/
def execLoadIdleTimeout (s : State) : Host.Outcome State Fault Refusal := act idleExpired s

end Sys2Proof.Machine
end

