-- ==== Sys2Proof/Machine/MatrixCommands.lean ====
section
/-! DEFINITION. The meanings of the commands: the timers of movements and paths. -/

namespace Sys2Proof.Machine

/-- MOVEMENT_LIMIT_EXPIRY (R71): A DRIVING movement's 3 x Sx limit expires; the crosspoint becomes STUCK with XP_STUCK
and its coil CLEAR is offered. -/
def execMovementLimitExpiry (slot : Nat) (s : State) : Host.Outcome State Fault Refusal := act (limitExpired slot) s

/-- PATH_SETTLE_END (R79): The 0.5 s settle of a SETTING path ends; its stage becomes CLOSED and the context is told,
or the proof of an OPERATIONS path begins. -/
def execPathSettleEnd (transmitter : Nat) (s : State) : Host.Outcome State Fault Refusal :=
  act (settleEnded transmitter) s

/-- OPERATIONS_PATH_LIMIT (R88): An OPERATIONS path still WAITING 60 s after its since fails, with a reason found by
re-check. -/
def execOperationsPathLimit (transmitter : Nat) (s : State) : Host.Outcome State Fault Refusal :=
  act (pathLimitExpired transmitter) s

end Sys2Proof.Machine
end

