-- ==== Sys2Proof/Machine/OpsCommands.lean ====
section
/-! DEFINITION. The meanings of the commands: frames of the operations side to plant stations, and the operations transmitter. -/

namespace Sys2Proof.Machine

/-- The frame of an operations station to a plant station that a row fixes. -/
def plantOrder (verb : Nat) (o : PlantOrder) : Frame :=
  { dest := o.dest, src := o.src, kind := .order, tag := o.tag, verb := verb, payload := o.payload }

/-- OPS_FRAME_DISCARD (R18): A frame ending at the operations port with a bad check, a bad length, a bad kind, a bad
source, a part tag, or kind ANSWER, STATUS or REPORT is discarded without answer. -/
def execOpsFrameDiscard (raw : List Byte) (s : State) : Host.Outcome State Fault Refusal := act (opsOctets raw) s

/-- OPS_HOLD_OFF (R23): The operations side withdraws its readiness to receive, and the operations transmitter sends
nothing more once its current frame is finished. -/
def execOpsHoldOff (s : State) : Host.Outcome State Fault Refusal :=
  act (fun c => c.onLink (fun k => { k with opsHeldOff := true })) s

/-- OPS_READY (R23): The operations side becomes ready again, and the operations transmitter chooses its next frame: a
flow frame, then an answer, then a report. -/
def execOpsReady (s : State) : Host.Outcome State Fault Refusal :=
  act (fun c => c.onLink (fun k => { k with opsHeldOff := false })) s

/-- OPS_FRAME_SENT (R23): The operations transmitter finishes a frame; the sent answer or record leaves its queue, its
place frees, and the next frame is chosen. -/
def execOpsFrameSent (s : State) : Host.Outcome State Fault Refusal := act opsSent s

/-- OPS_UNKNOWN_DESTINATION (R20): An operations ORDER or LATCH addressed to 0, 127 or an unknown plant address is
refused UNKNOWN_STATION, and one addressed to 121..126 is discarded with its place released. -/
def execOpsUnknownDestination (f : Frame) (s : State) : Host.Outcome State Fault Refusal := act (opsFrameEnds f) s

/-- OPS_BAD_VERB (R20): An operations ORDER to 120 with a verb that is not the controller's, a LATCH to 120, or a
frame to a transmitter or drive with a verb not of its class is refused BAD_RECORD, check 0. -/
def execOpsBadVerb (f : Frame) (s : State) : Host.Outcome State Fault Refusal := act (opsFrameEnds f) s

/-- OPS_TUNE (R50): An operations TUNE to a transmitter is checked by the gate and is passed with tune state TUNING
set on admission, or is refused. -/
def execOpsTune (o : PlantOrder) (s : State) : Host.Outcome State Fault Refusal :=
  act (opsFrameEnds (plantOrder 1 o)) s

/-- OPS_POWER (R51): An operations POWER to a transmitter is checked and passed, clamped to the maximum and the path
rating with POWER_CLAMPED where needed, or refused. -/
def execOpsPower (o : PlantOrder) (s : State) : Host.Outcome State Fault Refusal :=
  act (opsFrameEnds (plantOrder 2 o)) s

/-- OPS_CARRIER_ON (R48): An operations CARRIER_ON is checked step by step and is passed, refused, or held in the hold
queue on its path or on a clamping POWER. -/
def execOpsCarrierOn (o : PlantOrder) (s : State) : Host.Outcome State Fault Refusal :=
  act (opsFrameEnds (plantOrder 3 o)) s

/-- OPS_CARRIER_OFF (R47): An operations CARRIER_OFF passes the gate; on admission it aborts any owning context with
OPERATOR_OFF. -/
def execOpsCarrierOff (o : PlantOrder) (s : State) : Host.Outcome State Fault Refusal :=
  act (opsFrameEnds (plantOrder 4 o)) s

/-- OPS_FEED (R52): An operations FEED to a transmitter passes if its feed number lies in 1..32 and the transmitter is
not local. -/
def execOpsFeed (o : PlantOrder) (s : State) : Host.Outcome State Fault Refusal :=
  act (opsFrameEnds (plantOrder 5 o)) s

/-- OPS_QUERY_TRANSMITTER (R46): An operations QUERY to a transmitter is passed, or is refused by the start-up or
local checks. -/
def execOpsQueryTransmitter (o : PlantOrder) (s : State) : Host.Outcome State Fault Refusal :=
  act (opsFrameEnds (plantOrder 6 o)) s

/-- OPS_SLEW (R53): An operations SLEW is checked against liveness, ownership and the stop arc; on admission its
target is handed to the Antenna Unit as an OPERATIONS job. -/
def execOpsSlew (o : PlantOrder) (s : State) : Host.Outcome State Fault Refusal :=
  act (opsFrameEnds (plantOrder 7 o)) s

/-- OPS_STEER (R53): An operations STEER is checked against liveness, ownership and the offset list; on admission its
target is handed to the Antenna Unit as an OPERATIONS job. -/
def execOpsSteer (o : PlantOrder) (s : State) : Host.Outcome State Fault Refusal :=
  act (opsFrameEnds (plantOrder 8 o)) s

/-- OPS_STOP (R102): An operations STOP to a drive passes in every phase and on admission ends any open OPERATIONS job
as superseded. -/
def execOpsStop (o : PlantOrder) (s : State) : Host.Outcome State Fault Refusal :=
  act (opsFrameEnds (plantOrder 9 o)) s

/-- OPS_QUERY_DRIVE (R53): An operations QUERY to a drive passes once start-up has reached RUNNING. -/
def execOpsQueryDrive (o : PlantOrder) (s : State) : Host.Outcome State Fault Refusal :=
  act (opsFrameEnds (plantOrder 6 o)) s

/-- OPS_MATRIX_FRAME (R56): An operations ORDER or LATCH addressed to the matrix station is refused MATRIX_RESERVED.
-/
def execOpsMatrixFrame (f : Frame) (s : State) : Host.Outcome State Fault Refusal := act (opsFrameEnds f) s

/-- OPS_AUXILIARY_FRAME (R44): An operations frame to a known AUXILIARY station passes unchecked, in every start-up
phase. -/
def execOpsAuxiliaryFrame (f : Frame) (s : State) : Host.Outcome State Fault Refusal := act (opsFrameEnds f) s

end Sys2Proof.Machine
end

