-- ==== Sys2Proof/Machine/OwnCommands.lean ====
section
/-! DEFINITION. The meanings of the commands: orders to the controller. -/

namespace Sys2Proof.Machine

/-- The ORDER of an operations station to station 120 that a row fixes. -/
def ownOrder (verb : Nat) (o : OwnOrder) : Frame :=
  { dest := Config.ownStation, src := o.src, kind := .order, tag := o.tag, verb := verb, payload := o.payload }

/-- PATH_SET (R87): A manual order sets, adopts or re-proves an OPERATIONS path between a transmitter and an antenna,
releasing whatever paths are in the way. -/
def execPathSet (o : OwnOrder) (s : State) : Host.Outcome State Fault Refusal := act (opsFrameEnds (ownOrder 32 o)) s

/-- PATH_FREE (R89): A manual order releases the claiming path of a transmitter's row. -/
def execPathFree (o : OwnOrder) (s : State) : Host.Outcome State Fault Refusal := act (opsFrameEnds (ownOrder 33 o)) s

/-- XP_CLEAR (R74): A STUCK crosspoint is given the state its mirror shows, if that is open or closed, and its path
and the arbiter act on the new state. -/
def execXpClear (o : OwnOrder) (s : State) : Host.Outcome State Fault Refusal := act (opsFrameEnds (ownOrder 34 o)) s

/-- HOLD_LEVEL (R162): The hold level is set, START events in the plan are masked or unmasked, and unmasked events
that are due are taken. -/
def execHoldLevel (o : OwnOrder) (s : State) : Host.Outcome State Fault Refusal :=
  act (opsFrameEnds (ownOrder 35 o)) s

/-- HALL_STOP (R194): An order brings the hall stop into force, or adds a source to it: carrier-offs are sent,
contexts aborted, running occurrences cleared and held frames refused. -/
def execHallStop (o : OwnOrder) (s : State) : Host.Outcome State Fault Refusal := act (opsFrameEnds (ownOrder 36 o)) s

/-- HALL_RESUME (R195): The hall stop ends, unless the push is latched, and the plan is rebuilt with catch-up. -/
def execHallResume (o : OwnOrder) (s : State) : Host.Outcome State Fault Refusal :=
  act (opsFrameEnds (ownOrder 37 o)) s

/-- TIME_SET (R152): Site time is set, or stepped forward or backward, with a TIME_STEP report and the consequences of
the step for the plan. -/
def execTimeSet (o : OwnOrder) (s : State) : Host.Outcome State Fault Refusal := act (opsFrameEnds (ownOrder 38 o)) s

/-- SITE_WRITE (R2): A site-table record is checked for range, consistency and use, then replaced in the working copy
with its dynamic consequences, or refused. -/
def execSiteWrite (o : OwnOrder) (s : State) : Host.Outcome State Fault Refusal :=
  act (opsFrameEnds (ownOrder 39 o)) s

/-- SITE_READ (R11): A site-table record is returned from the working or the saved copy, with its dynamic fields and
the save state. -/
def execSiteRead (o : OwnOrder) (s : State) : Host.Outcome State Fault Refusal := act (opsFrameEnds (ownOrder 40 o)) s

/-- SITE_SAVE (R13): A site save request is queued in the store queue, or refused BUSY or SURVEY. -/
def execSiteSave (o : OwnOrder) (s : State) : Host.Outcome State Fault Refusal := act (opsFrameEnds (ownOrder 41 o)) s

/-- STORE_OPEN (R125): A bank is opened for writes by season id, closing any other open bank and abandoning its burst.
-/
def execStoreOpen (o : OwnOrder) (s : State) : Host.Outcome State Fault Refusal :=
  act (opsFrameEnds (ownOrder 42 o)) s

/-- STORE_CLOSE (R125): The open bank is closed and its open burst is abandoned. -/
def execStoreClose (o : OwnOrder) (s : State) : Host.Outcome State Fault Refusal :=
  act (opsFrameEnds (ownOrder 43 o)) s

/-- BANK_CREATE (R134): A header write that makes a BLANK bank FILLING with a season id and an epoch is queued. -/
def execBankCreate (o : OwnOrder) (s : State) : Host.Outcome State Fault Refusal :=
  act (opsFrameEnds (ownOrder 44 o)) s

/-- BANK_SEAL (R135): A header write that makes a FILLING bank STANDBY is queued, and the bank is closed. -/
def execBankSeal (o : OwnOrder) (s : State) : Host.Outcome State Fault Refusal := act (opsFrameEnds (ownOrder 45 o)) s

/-- BANK_CLEAR (R136): A request to erase every page of a FILLING or RETIRED bank and write its header BLANK is
queued. -/
def execBankClear (o : OwnOrder) (s : State) : Host.Outcome State Fault Refusal :=
  act (opsFrameEnds (ownOrder 46 o)) s

/-- ENTRY_APPEND (R128): An entry record is checked for structure, against the bank and against the site tables, and
its slot write is queued. -/
def execEntryAppend (o : OwnOrder) (s : State) : Host.Outcome State Fault Refusal :=
  act (opsFrameEnds (ownOrder 47 o)) s

/-- ENTRY_VOID (R130): A void of the valid record holding an id is queued. -/
def execEntryVoid (o : OwnOrder) (s : State) : Host.Outcome State Fault Refusal :=
  act (opsFrameEnds (ownOrder 48 o)) s

/-- PAGE_ERASE (R132): Pages are selected for erase, and an erase window is opened or extended. -/
def execPageErase (o : OwnOrder) (s : State) : Host.Outcome State Fault Refusal :=
  act (opsFrameEnds (ownOrder 49 o)) s

/-- STORE_STATUS (R137): The engine, queue, bank, page and burst state of the store is returned. -/
def execStoreStatus (o : OwnOrder) (s : State) : Host.Outcome State Fault Refusal :=
  act (opsFrameEnds (ownOrder 50 o)) s

/-- STORE_FAULT_CLEAR (R124): A bank's fault flag is cleared. -/
def execStoreFaultClear (o : OwnOrder) (s : State) : Host.Outcome State Fault Refusal :=
  act (opsFrameEnds (ownOrder 51 o)) s

/-- ENTRY_READ (R131): A slot, found by position or by id, is returned with its state, burst number, standing and
record. -/
def execEntryRead (o : OwnOrder) (s : State) : Host.Outcome State Fault Refusal :=
  act (opsFrameEnds (ownOrder 52 o)) s

/-- PLAN_READ (R168): The plan header fields are returned, with up to two events from a starting index. -/
def execPlanRead (o : OwnOrder) (s : State) : Host.Outcome State Fault Refusal := act (opsFrameEnds (ownOrder 53 o)) s

/-- CONTEXT_READ (R190): The fields, remaining deadlines or last outcome of one changeover context are returned. -/
def execContextRead (o : OwnOrder) (s : State) : Host.Outcome State Fault Refusal :=
  act (opsFrameEnds (ownOrder 54 o)) s

/-- PART_STATUS (R201): One section of the controller's status is returned; a SUMMARY answer clears the reports-lost
flag. -/
def execPartStatus (o : OwnOrder) (s : State) : Host.Outcome State Fault Refusal :=
  act (opsFrameEnds (ownOrder 55 o)) s

/-- RESTART (R196): The order is answered DONE, RESTARTING refusals are formed, each block's restart state is emptied,
and start-up begins again from the load of the working copy. -/
def execRestart (o : OwnOrder) (s : State) : Host.Outcome State Fault Refusal := act (opsFrameEnds (ownOrder 56 o)) s

end Sys2Proof.Machine
end

