-- ==== Sys2Proof/Machine/PanelCommands.lean ====
section
/-! DEFINITION. The meanings of the commands: the panel inputs. -/

namespace Sys2Proof.Machine

/-- PANEL_INPUT_EDGE (R192): A panel input changes level and its 50 ms conditioning interval starts afresh. -/
def execPanelInputEdge (input : PanelInput) (level : Bool) (s : State) : Host.Outcome State Fault Refusal :=
  act (inputEdge input level) s

/-- LOCAL_KEY_CHANGE (R63): A conditioned change of a LOCAL key recomputes the transmitter's local flag, with refusals
and withdrawals when it becomes yes. -/
def execLocalKeyChange (n : Nat) (s : State) : Host.Outcome State Fault Refusal := act (localKeyChange n) s

/-- LOCKOUT_ON (R90): A LOCKOUT switch is conditioned on; the antenna's paths are unproven or failed, proofs abandoned
and holds refused. -/
def execLockoutOn (n : Nat) (s : State) : Host.Outcome State Fault Refusal := act (lockoutOn n) s

/-- LOCKOUT_OFF (R90): A LOCKOUT switch is conditioned off; the lockout clears and the arbiter makes a round. -/
def execLockoutOff (n : Nat) (s : State) : Host.Outcome State Fault Refusal := act (lockoutOff n) s

/-- MAINTENANCE_KEY_CHANGE (R126): The conditioned MAINTENANCE key changes whether the ACTIVE bank accepts appends and
voids. -/
def execMaintenanceKeyChange (s : State) : Host.Outcome State Fault Refusal := act maintenanceChange s

/-- HALL_STOP_PUSH_ON (R194): The HALL STOP push is conditioned on and brings the hall stop into force, or adds PUSH
as a source. -/
def execHallStopPushOn (s : State) : Host.Outcome State Fault Refusal := act pushOn s

/-- HALL_STOP_PUSH_OFF (R195): The push is conditioned off, which allows a later HALL_RESUME without ending the stop.
-/
def execHallStopPushOff (s : State) : Host.Outcome State Fault Refusal := act pushOff s

end Sys2Proof.Machine
end

