-- ==== Sys2Proof/Machine/PlanCommands.lean ====
section
/-! DEFINITION. The meanings of the commands: the passing of site time. -/

namespace Sys2Proof.Machine

/-- SITE_SECOND (R151): Site time advances by one second, carrying into the next day or becoming INVALID past the last
day. -/
def execSiteSecond (s : State) : Host.Outcome State Fault Refusal := act siteSecond s

/-- MINUTE_BOUNDARY_REFILL (R158): At a minute boundary the plan is refilled from the scan mark to an hour ahead, with
re-check and lead arithmetic. -/
def execMinuteBoundaryRefill (s : State) : Host.Outcome State Fault Refusal := act minuteBoundary s

/-- EVENT_DUE (R163): Site time reaches an event's begin, and the event is taken into a free context or flagged
WAITING. -/
def execEventDue (s : State) : Host.Outcome State Fault Refusal := act eventDue s

/-- OCCURRENCE_END_PASSED (R164): An occurrence's end passes: an untaken START is dropped with MISSED, and the TAKEN
log record leaves the log. -/
def execOccurrenceEndPassed (occ : Occ) (s : State) : Host.Outcome State Fault Refusal :=
  act (occurrenceEndPassed occ) s

/-- RETURN_END_REACHED (R164): The end named at a return is reached, and the returned START is offered again. -/
def execReturnEndReached (occ : Occ) (s : State) : Host.Outcome State Fault Refusal := act (returnEndReached occ) s

/-- SEASON_ACTIVATION (R165): The STANDBY bank reaches its epoch and becomes ACTIVE; the old bank retires, its work is
aborted or ended, and the plan is rebuilt. -/
def execSeasonActivation (s : State) : Host.Outcome State Fault Refusal := act activation s

end Sys2Proof.Machine
end

