-- ==== Sys2Proof/Machine/PlantCommands.lean ====
section
/-! DEFINITION. The meanings of the commands: frames ending at the plant port, and the timers of exchanges and holds. -/

namespace Sys2Proof.Machine

/-- A STATUS frame at the plant port. -/
def statusFrame (f : PlantFrame) : Frame :=
  { dest := f.dest, src := f.src, kind := .status, tag := f.tag, verb := f.verb, payload := f.payload }

/-- An ANSWER frame at the plant port. -/
def answerFrame (f : PlantFrame) : Frame :=
  { dest := f.dest, src := f.src, kind := .answer, tag := f.tag, verb := f.verb, payload := f.payload }

/-- PLANT_FRAME_DISCARD (R19): A frame ending at the plant port with a bad check, a bad length, a bad kind or an
unknown source is discarded, changing no state. -/
def execPlantFrameDiscard (raw : List Byte) (s : State) : Host.Outcome State Fault Refusal := act (plantOctets raw) s

/-- TRANSMITTER_STATUS (R61): A transmitter STATUS updates its record, then the interlock, the queued CARRIER_ON
conditions and the holds are evaluated, and any waiting context is advanced. -/
def execTransmitterStatus (f : PlantFrame) (s : State) : Host.Outcome State Fault Refusal :=
  act (plantFrameEnds (statusFrame f)) s

/-- DRIVE_STATUS (R93): A drive STATUS updates the antenna record, may unprove its path, and is applied to the open
positioning job. -/
def execDriveStatus (f : PlantFrame) (s : State) : Host.Outcome State Fault Refusal :=
  act (plantFrameEnds (statusFrame f)) s

/-- MATRIX_STATUS (R68): A matrix STATUS writes the sensor mirror, advances movements or sets crosspoint states, and
unproves affected paths. -/
def execMatrixStatus (f : PlantFrame) (s : State) : Host.Outcome State Fault Refusal :=
  act (plantFrameEnds (statusFrame f)) s

/-- AUXILIARY_STATUS (R34): An auxiliary STATUS restores the station's answer state and goes to no block. -/
def execAuxiliaryStatus (f : PlantFrame) (s : State) : Host.Outcome State Fault Refusal :=
  act (plantFrameEnds (statusFrame f)) s

/-- TRANSMITTER_ANSWER (R62): A transmitter ANSWER updates the record by verb and outcome, and is matched and routed
to its origin, or handled as not outstanding. -/
def execTransmitterAnswer (f : PlantFrame) (s : State) : Host.Outcome State Fault Refusal :=
  act (plantFrameEnds (answerFrame f)) s

/-- DRIVE_ANSWER (R99): A drive ANSWER is matched and routed, and its positioning job advances to ANSWERED or fails.
-/
def execDriveAnswer (f : PlantFrame) (s : State) : Host.Outcome State Fault Refusal :=
  act (plantFrameEnds (answerFrame f)) s

/-- MATRIX_ANSWER (R72): A matrix ANSWER to SET, CLEAR or READ is matched; it frees slots, fails movements, fills the
mirror and ends proofs. -/
def execMatrixAnswer (f : PlantFrame) (s : State) : Host.Outcome State Fault Refusal :=
  act (plantFrameEnds (answerFrame f)) s

/-- AUXILIARY_ANSWER (R30): An auxiliary station's ANSWER is matched to its entry and forwarded to the operations
station, or handled under R33. -/
def execAuxiliaryAnswer (f : PlantFrame) (s : State) : Host.Outcome State Fault Refusal :=
  act (plantFrameEnds (answerFrame f)) s

/-- PLANT_FRAME_SENT (R29): The plant transmitter finishes a frame, its answer timer starts, and the next frame is
chosen by class and table room. -/
def execPlantFrameSent (s : State) : Host.Outcome State Fault Refusal := act plantSent s

/-- ANSWER_TIMEOUT (R31): An outstanding entry reaches 2 s without an answer and ends NO_ANSWER, with consequences by
origin and ALARM STATION_NO_ANSWER on the first. -/
def execAnswerTimeout (s : State) : Host.Outcome State Fault Refusal := act answerTimeout s

/-- HOLD_EXPIRY (R59): A held frame reaches 20 s and is refused PATH_UNPROVEN or PLANT_BUSY. -/
def execHoldExpiry (s : State) : Host.Outcome State Fault Refusal := act holdExpiry s

end Sys2Proof.Machine
end

