-- ==== Sys2Proof/Machine/StartUpCommands.lean ====
section
/-! DEFINITION. The meanings of the commands: power-up, the end of the store check and the end of the survey. -/

namespace Sys2Proof.Machine

/-- POWER_UP (R38): Power is applied: all link, gate, matrix, store, plan and context state takes its power-up values,
the working copy is loaded, the panel is sampled and start-up begins at STORE_CHECK. -/
def execPowerUp (s : State) : Host.Outcome State Fault Refusal := act powerUp s

/-- STORE_CHECK_END (R138): The start-up store scan ends, bank and page state is derived, and SURVEY begins with coil
clears, sensor reads and queries. -/
def execStoreCheckEnd (s : State) : Host.Outcome State Fault Refusal := act storeCheckEnd s

/-- SURVEY_TIMEOUT (R197): SURVEY reaches 10 s, or its last frame ends; leftover frames are removed, silent stations
become NO_ANSWER, and ADOPT begins. -/
def execSurveyTimeout (s : State) : Host.Outcome State Fault Refusal := act surveyTimeout s

end Sys2Proof.Machine
end

