-- ==== Sys2Proof/Machine/StoreCommands.lean ====
section
/-! DEFINITION. The meanings of the commands: the ends of store operations. -/

namespace Sys2Proof.Machine

/-- The operation in progress ends well: its effect, at its nominal time (R123, log entry 2). -/
def slotWriteDone (c : Ctl) : Ctl :=
  match c.store.op with
  | some (.slotWrite bk k e n ref) => slotWritten bk k e n ref (endOp (c.store.opStart + Config.markNominal) c)
  | _ => c

def voidDone (c : Ctl) : Ctl :=
  match c.store.op with
  | some (.void bk k id ref) => slotVoided bk k id ref (endOp (c.store.opStart + Config.markNominal) c)
  | _ => c

def pageErasePageDone (c : Ctl) : Ctl :=
  match c.store.op with
  | some (.erasePage bk page) => pageErased bk page (endOp (c.store.opStart + Config.eraseNominal) c)
  | _ => c

def headerWriteDone (c : Ctl) : Ctl :=
  match c.store.op with
  | some (.header bk ch ref) => headerWritten bk ch ref (endOp (c.store.opStart + Config.markNominal) c)
  | _ => c

def siteSaveDone (c : Ctl) : Ctl :=
  match c.store.op with
  | some (.siteSave second t number ref) => saveDone second t number ref (endOp (c.store.opStart + Config.saveNominal) c)
  | _ => c

/-- The 8 s of a site save pass (R14). -/
def siteSaveLimit (c : Ctl) : Ctl :=
  match c.store.op with
  | some (.siteSave _ _ _ ref) => saveFailed ref (endOp (c.store.opStart + Config.saveLimit) c)
  | _ => c

/-- ERASE_WINDOW_EXPIRY (R132): An erase window's 2 s run out, and its erase request becomes an ordinary request for
the engine. -/
def execEraseWindowExpiry (s : State) : Host.Outcome State Fault Refusal := act windowExpired s

/-- SLOT_WRITE_DONE (R129): A slot write completes, leaving the slot WRITTEN; STORE_DONE is raised or the Load Intake
advances, and the engine takes its next request. -/
def execSlotWriteDone (s : State) : Host.Outcome State Fault Refusal := act slotWriteDone s

/-- VOID_DONE (R130): A void completes, leaving the slot VOID; STORE_DONE is raised and the Plan Unit is told for the
ACTIVE bank. -/
def execVoidDone (s : State) : Host.Outcome State Fault Refusal := act voidDone s

/-- PAGE_ERASE_PAGE_DONE (R133): One page erase completes; the page becomes ERASED, waiting slot writes are served,
and the next page or the completion follows. -/
def execPageErasePageDone (s : State) : Host.Outcome State Fault Refusal := act pageErasePageDone s

/-- HEADER_WRITE_DONE (R116): A header write completes and the working header takes the change of create, seal, clear,
commit or activation. -/
def execHeaderWriteDone (s : State) : Host.Outcome State Fault Refusal := act headerWriteDone s

/-- SITE_SAVE_DONE (R14): A site save programs its completion mark, the image becomes the latest, and STORE_DONE is
raised. -/
def execSiteSaveDone (s : State) : Host.Outcome State Fault Refusal := act siteSaveDone s

/-- STORE_LIMIT_EXPIRY (R123): A store operation's limit expires; it is abandoned, its page or header is left failed,
the fault flag is set and STORE_FAILED is raised. -/
def execStoreLimitExpiry (s : State) : Host.Outcome State Fault Refusal := act storeLimit s

/-- SITE_SAVE_LIMIT_EXPIRY (R14): A site save's 8 s limit expires; the target image is left invalid and STORE_FAILED
is raised. -/
def execSiteSaveLimitExpiry (s : State) : Host.Outcome State Fault Refusal := act siteSaveLimit s

end Sys2Proof.Machine
end

