-- ==== Sys2Proof/Machine/Dispatch.lean ====
section
/-! DEFINITION. One arm for each command, each one direct call of its meaning. -/

namespace Sys2Proof.Machine

def exec (i : Instr) (s : State) : Host.Outcome State Fault Refusal :=
  match i with
  | .powerUp => Sys2Proof.Machine.execPowerUp s
  | .opsFrameDiscard raw => Sys2Proof.Machine.execOpsFrameDiscard raw s
  | .opsHoldOff => Sys2Proof.Machine.execOpsHoldOff s
  | .opsReady => Sys2Proof.Machine.execOpsReady s
  | .opsFrameSent => Sys2Proof.Machine.execOpsFrameSent s
  | .opsUnknownDestination f => Sys2Proof.Machine.execOpsUnknownDestination f s
  | .opsBadVerb f => Sys2Proof.Machine.execOpsBadVerb f s
  | .opsTune o => Sys2Proof.Machine.execOpsTune o s
  | .opsPower o => Sys2Proof.Machine.execOpsPower o s
  | .opsCarrierOn o => Sys2Proof.Machine.execOpsCarrierOn o s
  | .opsCarrierOff o => Sys2Proof.Machine.execOpsCarrierOff o s
  | .opsFeed o => Sys2Proof.Machine.execOpsFeed o s
  | .opsQueryTransmitter o => Sys2Proof.Machine.execOpsQueryTransmitter o s
  | .opsSlew o => Sys2Proof.Machine.execOpsSlew o s
  | .opsSteer o => Sys2Proof.Machine.execOpsSteer o s
  | .opsStop o => Sys2Proof.Machine.execOpsStop o s
  | .opsQueryDrive o => Sys2Proof.Machine.execOpsQueryDrive o s
  | .opsMatrixFrame f => Sys2Proof.Machine.execOpsMatrixFrame f s
  | .opsAuxiliaryFrame f => Sys2Proof.Machine.execOpsAuxiliaryFrame f s
  | .pathSet o => Sys2Proof.Machine.execPathSet o s
  | .pathFree o => Sys2Proof.Machine.execPathFree o s
  | .xpClear o => Sys2Proof.Machine.execXpClear o s
  | .holdLevel o => Sys2Proof.Machine.execHoldLevel o s
  | .hallStop o => Sys2Proof.Machine.execHallStop o s
  | .hallResume o => Sys2Proof.Machine.execHallResume o s
  | .timeSet o => Sys2Proof.Machine.execTimeSet o s
  | .siteWrite o => Sys2Proof.Machine.execSiteWrite o s
  | .siteRead o => Sys2Proof.Machine.execSiteRead o s
  | .siteSave o => Sys2Proof.Machine.execSiteSave o s
  | .storeOpen o => Sys2Proof.Machine.execStoreOpen o s
  | .storeClose o => Sys2Proof.Machine.execStoreClose o s
  | .bankCreate o => Sys2Proof.Machine.execBankCreate o s
  | .bankSeal o => Sys2Proof.Machine.execBankSeal o s
  | .bankClear o => Sys2Proof.Machine.execBankClear o s
  | .entryAppend o => Sys2Proof.Machine.execEntryAppend o s
  | .entryVoid o => Sys2Proof.Machine.execEntryVoid o s
  | .pageErase o => Sys2Proof.Machine.execPageErase o s
  | .storeStatus o => Sys2Proof.Machine.execStoreStatus o s
  | .storeFaultClear o => Sys2Proof.Machine.execStoreFaultClear o s
  | .entryRead o => Sys2Proof.Machine.execEntryRead o s
  | .planRead o => Sys2Proof.Machine.execPlanRead o s
  | .contextRead o => Sys2Proof.Machine.execContextRead o s
  | .partStatus o => Sys2Proof.Machine.execPartStatus o s
  | .restart o => Sys2Proof.Machine.execRestart o s
  | .loadOpen o => Sys2Proof.Machine.execLoadOpen o s
  | .loadData o => Sys2Proof.Machine.execLoadData o s
  | .loadClose o => Sys2Proof.Machine.execLoadClose o s
  | .loadBadSubverb subverb o => Sys2Proof.Machine.execLoadBadSubverb subverb o s
  | .loadIdleTimeout => Sys2Proof.Machine.execLoadIdleTimeout s
  | .plantFrameDiscard raw => Sys2Proof.Machine.execPlantFrameDiscard raw s
  | .transmitterStatus f => Sys2Proof.Machine.execTransmitterStatus f s
  | .driveStatus f => Sys2Proof.Machine.execDriveStatus f s
  | .matrixStatus f => Sys2Proof.Machine.execMatrixStatus f s
  | .auxiliaryStatus f => Sys2Proof.Machine.execAuxiliaryStatus f s
  | .transmitterAnswer f => Sys2Proof.Machine.execTransmitterAnswer f s
  | .driveAnswer f => Sys2Proof.Machine.execDriveAnswer f s
  | .matrixAnswer f => Sys2Proof.Machine.execMatrixAnswer f s
  | .auxiliaryAnswer f => Sys2Proof.Machine.execAuxiliaryAnswer f s
  | .plantFrameSent => Sys2Proof.Machine.execPlantFrameSent s
  | .answerTimeout => Sys2Proof.Machine.execAnswerTimeout s
  | .holdExpiry => Sys2Proof.Machine.execHoldExpiry s
  | .movementLimitExpiry slot => Sys2Proof.Machine.execMovementLimitExpiry slot s
  | .pathSettleEnd transmitter => Sys2Proof.Machine.execPathSettleEnd transmitter s
  | .operationsPathLimit transmitter => Sys2Proof.Machine.execOperationsPathLimit transmitter s
  | .panelInputEdge input level => Sys2Proof.Machine.execPanelInputEdge input level s
  | .localKeyChange n => Sys2Proof.Machine.execLocalKeyChange n s
  | .lockoutOn n => Sys2Proof.Machine.execLockoutOn n s
  | .lockoutOff n => Sys2Proof.Machine.execLockoutOff n s
  | .maintenanceKeyChange => Sys2Proof.Machine.execMaintenanceKeyChange s
  | .hallStopPushOn => Sys2Proof.Machine.execHallStopPushOn s
  | .hallStopPushOff => Sys2Proof.Machine.execHallStopPushOff s
  | .eraseWindowExpiry => Sys2Proof.Machine.execEraseWindowExpiry s
  | .slotWriteDone => Sys2Proof.Machine.execSlotWriteDone s
  | .voidDone => Sys2Proof.Machine.execVoidDone s
  | .pageErasePageDone => Sys2Proof.Machine.execPageErasePageDone s
  | .headerWriteDone => Sys2Proof.Machine.execHeaderWriteDone s
  | .siteSaveDone => Sys2Proof.Machine.execSiteSaveDone s
  | .storeLimitExpiry => Sys2Proof.Machine.execStoreLimitExpiry s
  | .siteSaveLimitExpiry => Sys2Proof.Machine.execSiteSaveLimitExpiry s
  | .siteSecond => Sys2Proof.Machine.execSiteSecond s
  | .minuteBoundaryRefill => Sys2Proof.Machine.execMinuteBoundaryRefill s
  | .eventDue => Sys2Proof.Machine.execEventDue s
  | .occurrenceEndPassed occ => Sys2Proof.Machine.execOccurrenceEndPassed occ s
  | .returnEndReached occ => Sys2Proof.Machine.execReturnEndReached occ s
  | .seasonActivation => Sys2Proof.Machine.execSeasonActivation s
  | .muteDeadline context => Sys2Proof.Machine.execMuteDeadline context s
  | .releaseDeadline context => Sys2Proof.Machine.execReleaseDeadline context s
  | .substepDeadline context sub => Sys2Proof.Machine.execSubstepDeadline context sub s
  | .proveDeadline context => Sys2Proof.Machine.execProveDeadline context s
  | .raiseDeadline context => Sys2Proof.Machine.execRaiseDeadline context s
  | .contextMissed context => Sys2Proof.Machine.execContextMissed context s
  | .storeCheckEnd => Sys2Proof.Machine.execStoreCheckEnd s
  | .surveyTimeout => Sys2Proof.Machine.execSurveyTimeout s

end Sys2Proof.Machine
end

