-- ==== Sys2Proof/Machine/Step.lean ====
section
/-! DEFINITION. The step: the command at the front of the queue is carried out with the queue's rest; with no command
waiting, a millisecond of the controller's clock passes. -/

namespace Sys2Proof.Machine

/-- No command waits: the controller's clock goes on (log entry 1). -/
def idle (s : State) : State := { s with ctl := { s.ctl with clock := s.ctl.clock + 1 } }

/-- One step. -/
def step (s : State) : Host.Outcome State Fault Refusal :=
  match s.pending with
  | [] => .next (idle s)
  | i :: rest => exec i { s with pending := rest }

/-- No row of the table gives a command bits, so that no word spells one and the state stays as it is. -/
def State.withFetchWord (s : State) (nbits w : Nat) : State :=
  match Sys2Proof.decodeTableWord nbits w with
  | some i => { s with pending := i :: s.pending }
  | none => s

end Sys2Proof.Machine
end

