-- ==== Sys2Proof/Safety.lean ====
section
/-! DEFINITION. What a sound state and a calm state are, in the terms the statements use. -/

namespace Sys2Proof.Machine

/-- The frames of a list whose answer is owed to an operations station. -/
def owedOf {α : Type} (origin : α → Origin) (l : List α) : Nat := l.countP (fun x => !ownOrigin (origin x))

/-- The orders taken from the operations side and not yet answered: those queued, waiting, outstanding and held, and a
LOAD CLOSE that waits for its burst (R22). -/
def owedPlaces (c : Ctl) : Nat :=
  owedOf (·.frame.origin) c.link.plantQueue + owedOf (·.origin) c.link.table + owedOf (·.origin) c.link.urgentWaiters +
  owedOf (·.origin) c.link.internalWaiters + owedOf (·.frame.origin) c.gate.held + c.load.close.toList.length

/-- The bounds of the queues and tables: the operations send queue, whose reserved and held places together are at most 64
and where every order not yet answered has its place reserved (R22), the plant queue (R25), the outstanding-order table
(R29), the report queue (R37), the hold queue (R58), the movement queue and its four slots (R75), the store queue (R122)
and the plan (R157). -/
structure Bounds (c : Ctl) : Prop where
  places : c.link.reserved + c.link.answers.length ≤ 64
  owed : owedPlaces c ≤ c.link.reserved
  plantQueue : c.link.plantQueue.length ≤ 32
  passed : (c.link.plantQueue.filter (fun q => q.frame.cls == .passed)).length ≤ 16
  table : c.link.table.length ≤ 10
  others : (c.link.table.filter (fun e => e.cls != .urgent)).length ≤ 8
  reports : c.link.reports.length ≤ 32
  held : c.gate.held.length ≤ 12
  moves : c.matrix.queue.length ≤ 32
  slots : tableRising c.matrix.slots = true ∧ ∀ p ∈ c.matrix.slots, 1 ≤ p.1 ∧ p.1 ≤ 4
  storeQueue : c.store.queue.length ≤ 8
  plan : c.plan.events.length ≤ 256

/-- The panel's settling (R192): no input has two changes that have not settled, and an input has one exactly while its
level at the contact differs from its conditioned level. -/
structure PanelSound (p : Panel) : Prop where
  one : (p.edges.map (·.1)).Nodup
  settling : ∀ i, i ∈ p.edges.map (·.1) ↔ p.raw.get i ≠ p.cond.get i

/-- A copy of the site tables passes the consistency checks 17 to 22 (R4). -/
def Consistent (t : Tables) : Prop := firstFailed (consistencyChecks t) = none

/-- The tables a store operation in progress is saving. -/
def savedTables : Option EngineOp → Option Tables
  | some (.siteSave _ t _ _) => some t
  | _ => none

/-- The working copy passes the consistency checks, and so does every copy saved or being saved (R4, R17). -/
structure SiteSound (c : Ctl) : Prop where
  work : Consistent c.site.work
  image1 : ∀ i, c.site.image1 = some i → Consistent i.tables
  image2 : ∀ i, c.site.image2 = some i → Consistent i.tables
  saving : ∀ t, savedTables c.store.op = some t → Consistent t

/-- The hall stop has a source exactly while it is in force (R194, R195). -/
def HallSound (h : HallStop) : Prop := h.inForce = true ↔ h.sources ≠ []

/-- The invariant of the controller. -/
structure Sound (c : Ctl) : Prop where
  bounds : Bounds c
  panel : PanelSound c.panel
  site : SiteSound c
  hall : HallSound c.hall

/-- A consequence-free controller: nothing is left to carry out, and the operations transmitter does not choose, since it
sends or is held off. -/
structure Still (c : Ctl) : Prop where
  settled : c.agenda = []
  opsTaken : (c.link.opsTx.isSome || c.link.opsHeldOff) = true

/-- A queued CARRIER_ON has its transmitter live, as its admission records it (R48): only a report read while it waits can
leave it otherwise (R61). -/
def CarriersLive (c : Ctl) : Prop :=
  ∀ q ∈ c.link.plantQueue, q.frame.verb = .carrierOn → ∀ p ∈ c.site.work.tx, p.2.station = q.frame.dest →
    txLive c p.1 = true

/-- A quiet controller: none of its blocks but the Changeover Unit has work that a change elsewhere would set going. The
plant transmitter and the store engine are occupied, nothing waits for a slot, a place, the arbiter or site time, a queued
CARRIER_ON has its transmitter live, start-up is over and the hall stop is not in force. -/
structure Quiet (c : Ctl) : Prop extends Still c where
  inputEmpty : c.link.opsInput = []
  portTaken : c.link.plantTx.isSome = true
  urgentEmpty : c.link.urgentWaiters = []
  internalEmpty : c.link.internalWaiters = []
  heldEmpty : c.gate.held = []
  carriersLive : CarriersLive c
  moveEmpty : c.matrix.queue = []
  moveWaitingEmpty : c.matrix.waiting = []
  noBurst : c.load.state = .none
  engineTaken : c.store.op.isSome = true
  planEmpty : c.plan.events = []
  running : c.start.phase = .running
  noStop : c.hall.inForce = false

/-- A calm controller: quiet, and no changeover context is BUSY. -/
structure Calm (c : Ctl) : Prop extends Quiet c where
  noContext : ∀ p ∈ c.cu, p.2.busy = false

/-- The Link Interface takes a frame with this source, tag and payload (R18, R22): an operations address, a tag of the
operations stations, at most 48 octets, and a place free that no frame waits for. -/
structure Takes (c : Ctl) (src tag : Nat) (payload : List Byte) : Prop where
  low : 121 ≤ src
  high : src ≤ 126
  tagOwn : tag < 128
  short : payload.length ≤ 48
  place : c.link.reserved + c.link.answers.length < 64
  first : c.link.opsInput = []

/-- An ANSWER of the controller: outcome, code, and what follows them. -/
def ownAnswer (dest tag verb outcome code : Nat) (rest : List Byte) : Answer :=
  { dest := dest, src := 120, tag := tag, verb := verb,
    payload := BitVec.ofNat 8 outcome :: BitVec.ofNat 8 code :: rest }

/-- The Link Interface with one more answer waiting. -/
def withAnswer (a : Answer) (k : Link) : Link := { k with answers := k.answers ++ [a] }

/-- The Link Interface with one more report record. -/
def withReport (r : Report) (k : Link) : Link := { k with reports := k.reports ++ [r] }

/-- The orders of the operations side to a transmitter, each with its verb's code. -/
def transmitterRows (o : PlantOrder) : List (Nat × Instr) :=
  [(1, .opsTune o), (2, .opsPower o), (3, .opsCarrierOn o), (4, .opsCarrierOff o), (5, .opsFeed o),
   (6, .opsQueryTransmitter o)]

/-- The orders of the operations side to a drive, each with its verb's code. -/
def driveRows (o : PlantOrder) : List (Nat × Instr) :=
  [(7, .opsSlew o), (8, .opsSteer o), (9, .opsStop o), (6, .opsQueryDrive o)]

/-- The frame that an order of the operations side to a transmitter or a drive gives the gate. -/
def gateFrame (o : PlantOrder) (v : PlantVerb) : PFrame :=
  { dest := o.dest, verb := v, cls := .passed, origin := .ops o.src o.tag }

/-- Transmitter `n`, with its records, is the one at a plant address, and the checks that come before the rule of the verb
pass a frame of an operations station: start-up has reached RUNNING, the transmitter is not local and no context owns it
(R45 to R47). -/
structure TxReady (c : Ctl) (dest n : Nat) (st : TxStatic) (d : TxDyn) : Prop where
  plant : dest ≤ 119
  known : stationClass c.site.work dest = some .transmitter
  here : txOfStation c.site.work dest = some n
  static : txStatic c n = some st
  dynamic : txDyn c n = some d
  running : c.start.phase = .running
  notLocal : localFlag c n d = false
  notOwned : ownedByCtx d = false

/-- Antenna `a`, with its records, is the one served by the drive at a plant address, and start-up has reached RUNNING. -/
structure DriveReady (c : Ctl) (dest a : Nat) (st : AntStatic) (d : AntDyn) : Prop where
  plant : dest ≤ 119
  known : stationClass c.site.work dest = some .drive
  here : antOfDrive c.site.work dest = some a
  static : antStatic c a = some st
  dynamic : antDyn c a = some d
  running : c.start.phase = .running

/-- The plant queue admits a PASSED frame (R26), and the plant port is occupied, so that the frame stays queued. -/
structure PortRoom (c : Ctl) : Prop where
  taken : c.link.plantTx.isSome = true
  room : roomForPassed c.link = true

/-- The frame of an operations station in the plant queue, with the place its order reserved. -/
def withPassed (o : PlantOrder) (v : PlantVerb) (k : Link) : Link :=
  { k with reserved := k.reserved + 1, plantQueue := k.plantQueue ++ [{ tag := o.tag, frame := gateFrame o v }] }

/-- A frame of the controller's own in the plant queue, with the next part tag (R24). -/
def withOwn (f : PFrame) (k : Link) : Link :=
  { k with plantQueue := k.plantQueue ++ [{ tag := nextTag k, frame := f }], lastTag := nextTag k }

/-- An order as a frame of a kind and a verb. -/
def frameOf (o : PlantOrder) (kind : FrameKind) (verb : Nat) : Frame :=
  { dest := o.dest, src := o.src, kind := kind, tag := o.tag, verb := verb, payload := o.payload }

/-- A positioning job as it is opened (R97). -/
def newJob (r : Requester) (t : Target) : Job := { requester := r, target := t, stage := .offered, moved := false }

/-- The store with one bank changed. -/
def withBank (bk : Bank) (f : BankRec → BankRec) (s : Store) : Store :=
  match bk with
  | .a => { s with bankA := f s.bankA }
  | .b => { s with bankB := f s.bankB }

/-- The store with one more request in its queue, which ends an open erase window (R122, R132). -/
def withRequest (r : StoreReq) (s : Store) : Store := { endWindow s with queue := (endWindow s).queue ++ [r] }

/-- The Link Interface with the answer to an order to the controller: outcome DONE 1, ACCEPTED 2 or REFUSED 3, and a code. -/
def answered (o : OwnOrder) (verb outcome code : Nat) (rest : List Byte) (k : Link) : Link :=
  withAnswer (ownAnswer o.src o.tag verb outcome code rest) k

/-- The kind of a site record. -/
def kindOfRec : SiteRec → RecordKind
  | .transmitter _ => .transmitter
  | .antenna _ => .antenna
  | .ratings _ => .ratings
  | .band _ => .band
  | .site _ => .site
  | .auxiliary => .auxiliary

/-- The record of a report raised now. -/
def reportNow (c : Ctl) (kind : ReportKind) (subject : Subject) (detail qualifier : Nat) (figure : Option Int)
    (ref : Option Ref) : Report :=
  { time := c.plan.time, kind := kind, subject := subject, detail := detail, qualifier := qualifier, figure := figure,
    ref := ref, sending := false }

/-- The Link Interface after a frame from a plant station: the station's answer state is restored (R19). -/
def hearing (station : Nat) (k : Link) : Link := { k with silent := ndel station k.silent }

/-- The answer of a plant station, as it is forwarded to its operations station (R30). -/
def forwarded (f : PlantFrame) : Answer :=
  { dest := f.dest, src := f.src, tag := f.tag, verb := f.verb, payload := f.payload }

/-- The Link Interface after an answer of a plant station to an order of an operations station: the order's entry ends,
and the answer goes, unchanged, into the place the order reserved (R30). -/
def withForwarded (e : Entry) (f : PlantFrame) (k : Link) : Link :=
  withAnswer (forwarded f) { hearing f.src k with
    table := dropFirst (fun x => decide (x = e)) k.table, reserved := k.reserved - 1 }

/-- The panel with an input's level taken (R192). -/
def levelTaken (i : PanelInput) (p : Panel) : Panel :=
  { p with cond := p.cond.set i (p.raw.get i), edges := p.edges.filter (fun e => decide (e.1 ≠ i)) }

/-- The store with its operation ended. -/
def withoutOp (s : Store) : Store := { s with op := none }

/-- The engine, once free, finds no further work. -/
structure EngineIdle (s : Store) : Prop where
  queue : s.queue = []
  activation : s.activation = []
  job : s.eraseJob = none

end Sys2Proof.Machine
end

