-- ==== Sys2Proof/WellFormed.lean ====
section
/-! DEFINITION. The checks that the operands of a command pass: each lies in the range its field of a frame, or its
number in the controller, has. -/

namespace Sys2Proof

/-- A number of one octet. -/
def isOctet (n : Nat) : Bool := decide (n < 256)

/-- A number of two octets. -/
def isPair (n : Nat) : Bool := decide (n < 65536)

/-- A payload holds at most 48 octets (section 2.1). -/
def payloadFits (p : List Byte) : Bool := decide (p.length ≤ Config.maxPayload)

/-- The fields of a frame. -/
def Frame.fits (f : Frame) : Bool :=
  isOctet f.dest && isOctet f.src && isOctet f.tag && isOctet f.verb && payloadFits f.payload

def PlantOrder.fits (o : PlantOrder) : Bool := isOctet o.dest && isOctet o.src && isOctet o.tag && payloadFits o.payload

def OwnOrder.fits (o : OwnOrder) : Bool := isOctet o.src && isOctet o.tag && payloadFits o.payload

def PlantFrame.fits (f : PlantFrame) : Bool :=
  isOctet f.dest && isOctet f.src && isOctet f.tag && isOctet f.verb && payloadFits f.payload

/-- The panel has 24 LOCAL keys and 40 LOCKOUT switches (R192). -/
def PanelInput.fits : PanelInput → Bool
  | .localKey n => decide (1 ≤ n ∧ n ≤ 24)
  | .lockout n => decide (1 ≤ n ∧ n ≤ 40)
  | .maintenance => true
  | .push => true

/-- Numbers of transmitters, antennas, movement slots and contexts (sections 0.2, 1.1). -/
def txNumber (n : Nat) : Bool := decide (1 ≤ n ∧ n ≤ 24)
def antNumber (n : Nat) : Bool := decide (1 ≤ n ∧ n ≤ 40)
def slotNumber (n : Nat) : Bool := decide (1 ≤ n ∧ n ≤ Config.moveSlots)
def ctxNumber (n : Nat) : Bool := decide (1 ≤ n ∧ n ≤ Config.contexts)

def Occ.fits (o : Occ) : Bool := isPair o.id && isPair o.day

/-- A command is well formed. -/
def Instr.wellFormed : Instr → Bool
  | .powerUp => true
  | .opsFrameDiscard _ => true
  | .opsHoldOff => true
  | .opsReady => true
  | .opsFrameSent => true
  | .opsUnknownDestination f => f.fits
  | .opsBadVerb f => f.fits
  | .opsTune o => o.fits
  | .opsPower o => o.fits
  | .opsCarrierOn o => o.fits
  | .opsCarrierOff o => o.fits
  | .opsFeed o => o.fits
  | .opsQueryTransmitter o => o.fits
  | .opsSlew o => o.fits
  | .opsSteer o => o.fits
  | .opsStop o => o.fits
  | .opsQueryDrive o => o.fits
  | .opsMatrixFrame f => f.fits
  | .opsAuxiliaryFrame f => f.fits
  | .pathSet o => o.fits
  | .pathFree o => o.fits
  | .xpClear o => o.fits
  | .holdLevel o => o.fits
  | .hallStop o => o.fits
  | .hallResume o => o.fits
  | .timeSet o => o.fits
  | .siteWrite o => o.fits
  | .siteRead o => o.fits
  | .siteSave o => o.fits
  | .storeOpen o => o.fits
  | .storeClose o => o.fits
  | .bankCreate o => o.fits
  | .bankSeal o => o.fits
  | .bankClear o => o.fits
  | .entryAppend o => o.fits
  | .entryVoid o => o.fits
  | .pageErase o => o.fits
  | .storeStatus o => o.fits
  | .storeFaultClear o => o.fits
  | .entryRead o => o.fits
  | .planRead o => o.fits
  | .contextRead o => o.fits
  | .partStatus o => o.fits
  | .restart o => o.fits
  | .loadOpen o => o.fits
  | .loadData o => o.fits
  | .loadClose o => o.fits
  | .loadBadSubverb v o => isOctet v && decide (v = 0 ∨ 3 < v) && o.fits
  | .loadIdleTimeout => true
  | .plantFrameDiscard _ => true
  | .transmitterStatus f => f.fits
  | .driveStatus f => f.fits
  | .matrixStatus f => f.fits
  | .auxiliaryStatus f => f.fits
  | .transmitterAnswer f => f.fits
  | .driveAnswer f => f.fits
  | .matrixAnswer f => f.fits
  | .auxiliaryAnswer f => f.fits
  | .plantFrameSent => true
  | .answerTimeout => true
  | .holdExpiry => true
  | .movementLimitExpiry slot => slotNumber slot
  | .pathSettleEnd n => txNumber n
  | .operationsPathLimit n => txNumber n
  | .panelInputEdge input _ => input.fits
  | .localKeyChange n => txNumber n
  | .lockoutOn n => antNumber n
  | .lockoutOff n => antNumber n
  | .maintenanceKeyChange => true
  | .hallStopPushOn => true
  | .hallStopPushOff => true
  | .eraseWindowExpiry => true
  | .slotWriteDone => true
  | .voidDone => true
  | .pageErasePageDone => true
  | .headerWriteDone => true
  | .siteSaveDone => true
  | .storeLimitExpiry => true
  | .siteSaveLimitExpiry => true
  | .siteSecond => true
  | .minuteBoundaryRefill => true
  | .eventDue => true
  | .occurrenceEndPassed occ => occ.fits
  | .returnEndReached occ => occ.fits
  | .seasonActivation => true
  | .muteDeadline n => ctxNumber n
  | .releaseDeadline n => ctxNumber n
  | .substepDeadline n _ => ctxNumber n
  | .proveDeadline n => ctxNumber n
  | .raiseDeadline n => ctxNumber n
  | .contextMissed n => ctxNumber n
  | .storeCheckEnd => true
  | .surveyTimeout => true

end Sys2Proof
end

