-- ==== Sys2Proof/Certificates/Slice0/Obligations.lean ====
section
/-! DEFINITION. The statements for the provers: what the specification's rules, and the conventions of the model, say of the
commands and of the machine. -/

set_option linter.unusedVariables false

open Sys2Proof Sys2Proof.Machine

/-! ## The machine as a whole -/

/-- A step carries out the command at the front of the queue, on the state with the queue's rest. -/
def Obligations.StepRunsTheFrontCommand : Prop :=
  ∀ (i : Instr) (s : State), step { s with pending := i :: s.pending } = exec i s

/-- With no command waiting, one millisecond of the controller's clock passes and nothing else changes: the model's choice
(log entry 1). -/
def Obligations.IdleStepPassesAMillisecond : Prop :=
  ∀ s : State, s.pending = [] → step s = .next { s with ctl := { s.ctl with clock := s.ctl.clock + 1 } }

/-- What reset leaves of the state after power-up: empty queues and tables of the link and of the store (R22, R29, R37,
R38, R122, R125, R139), no held frame (R58), no path, movement or slot (R75, R78), every crosspoint and contact UNKNOWN (R16,
R67), no burst (R140), site time INVALID and the plan's records empty (R151, R155, R157, R160, R162), FREE contexts (R169) and
start-up before its store check (R196). That the banks' headers are BLANK (R116) rests on the erased store of log entry 11,
the model's choice. What reset leaves beside these is that choice too, and is not stated here. -/
def Obligations.ResetHoldsThePowerUpValues : Prop :=
  let c := State.reset.ctl
  (c.link.plantQueue = [] ∧ c.link.table = [] ∧ c.link.reports = [] ∧ c.link.answers = [] ∧ c.link.reserved = 0 ∧
    c.link.urgentWaiters = [] ∧ c.link.internalWaiters = [] ∧ c.link.lastTag = 255 ∧ c.link.silent = [] ∧
    c.link.reportsLost = false) ∧
  c.gate.held = [] ∧
  (c.matrix.paths = [] ∧ c.matrix.queue = [] ∧ c.matrix.waiting = [] ∧ c.matrix.slots = []) ∧
  (∀ row col, (xpAt c row col).state = .unknown ∧ (xpAt c row col).closedContact = .unknown ∧
    (xpAt c row col).openContact = .unknown) ∧
  (∀ bk, (bankRec c bk).header.state = .blank ∧ (bankRec c bk).fault = false ∧ (bankRec c bk).change = .none) ∧
  (c.store.openBank = none ∧ c.store.queue = []) ∧
  (c.load.state = .none ∧ c.load.paused = false ∧ c.load.buffer = [] ∧ c.load.idleFrom = none) ∧
  (c.plan.time = none ∧ c.plan.high = none ∧ c.plan.log = [] ∧ c.plan.events = [] ∧ c.plan.holdLevel = 0 ∧
    c.plan.fullLatch = false) ∧
  (∀ n, busyCtx c n = none) ∧
  c.start.phase = .storeCheck ∧ c.start.last = .powerUp

/-- The invariant holds right after reset. -/
def Obligations.ResetIsSound : Prop := Sound State.reset.ctl

/-- The invariant is kept by every step, from every state in which it holds, reached or not: the bounds of the queues and
tables (R22, R25, R29, R37, R58, R75, R122, R157), the settling of the panel inputs (R192), the consistency of every copy of the site
tables (R4), and the sources of the hall stop (R194, R195). -/
def Obligations.StepKeepsSound : Prop := ∀ s t : State, Sound s.ctl → step s = .next t → Sound t.ctl

/-- No step takes the controller's own clock back. R29 lets its timers run on a clock that TIME_SET does not change; that the
clock moves at an idle step and at the end of a timer is the model's choice (log entries 1 and 2), and that POWER_UP does not
take it back is read from the rules (log entry 12). -/
def Obligations.ClockNeverGoesBack : Prop := ∀ s t : State, step s = .next t → s.ctl.clock ≤ t.ctl.clock

/-- Every command ends in a next state, and leaves the commands that wait as they are: that every row of the table has an
effect in every state is the model's choice (log entry 4). -/
def Obligations.CommandsLeaveTheQueue : Prop := ∀ (i : Instr) (s : State), ∃ t, exec i s = .next t ∧ t.pending = s.pending

/-! ## Codings -/

/-- A frame whose fields fit is the frame that its octets on the link spell (R40, R41). -/
def Obligations.FrameSurvivesTheLink : Prop := ∀ f : Frame, f.fits = true → parseFrame (frameOctets f) = some f

/-- An entry record whose fields fit its 22 octets is the one those octets spell, with an absent field as all ones; a site
record that passes the checks of its kind is the one its octets spell; and every verb to a transmitter or a drive, with
its parameter in the range its octets hold, is the verb that its code and its payload spell (R2, R3, R39, R41, R128). How a site
record's octets lie is the model's reading (log entry 5). -/
def Obligations.RecordsAndVerbsSurviveTheirOctets : Prop :=
  (∀ e : EntryRec, e.id < 65536 → e.days < 128 → e.start < 65536 → e.duration < 65536 →
    (∀ v, e.validFrom = some v → v < 65535) → (∀ v, e.validTo = some v → v < 65535) → e.tx < 256 → e.freq < 65536 →
    e.ant < 256 → (∀ v, e.bearing = some v → v < 65535) → e.power < 65536 → e.feed < 256 → e.priority < 256 →
    e.spare < 256 → (entryOctets e).length = 22 ∧ parseEntry (entryOctets e) = some e) ∧
  (∀ (t : Tables) (key : Nat) (r : SiteRec), firstFailed (recordChecks t key r) = none →
    (∀ l, r = .ratings l → l.length = 16) → parseSiteRec (kindOfRec r) (siteRecOctets r) = .ok r) ∧
  (∀ v : PlantVerb, (v = .carrierOn ∨ v = .carrierOff ∨ v = .query ∨ (∃ n, n < 65536 ∧ (v = .tune n ∨ v = .power n)) ∨
      (∃ n, n < 256 ∧ v = .feed n)) → parseTransmitterVerb v.code v.payload = v) ∧
  (∀ v : PlantVerb, (v = .stop ∨ v = .query ∨ (∃ n, n < 65536 ∧ v = .slew n) ∨ (∃ n, n < 256 ∧ v = .steer n)) →
    parseDriveVerb v.code v.payload = v)

/-- A report record takes 20 octets, and its frame has destination 0, source 120, tag 255 and verb 0 (R23, R36). What
its octets hold where its subject uses no number or it has no reference is the model's choice (log entry 6), and not stated
here. -/
def Obligations.ReportFrameForm : Prop :=
  ∀ r : Report, (reportOctets r).length = 20 ∧
    opsTxFrame (.report r) =
      { dest := 0, src := 120, kind := .report, tag := 255, verb := 0, payload := reportOctets r }

/-! ## The two ports -/

/-- Octets that spell no frame change nothing at either port; nor does a good frame that its port discards: at the
operations port one with a foreign source, a part tag, the kind ANSWER, STATUS or REPORT, or the kind LOAD and a
destination other than 120 (R18); at the plant port one of another kind than ANSWER and STATUS, or from a station that the
site tables do not know (R19). That the discarding rows carry the raw octets is the model's choice (log entry 7). -/
def Obligations.DiscardedFramesChangeNothing : Prop :=
  ∀ (raw : List Byte) (s : State), Still s.ctl →
    (parseFrame raw = none →
      exec (.opsFrameDiscard raw) s = .next s ∧ exec (.plantFrameDiscard raw) s = .next s) ∧
    (∀ f, parseFrame raw = some f →
      ((f.src < 121 ∨ 126 < f.src ∨ 128 ≤ f.tag ∨ f.kind = .answer ∨ f.kind = .status ∨
        f.kind = .report ∨ (f.kind = .load ∧ f.dest ≠ 120)) → exec (.opsFrameDiscard raw) s = .next s) ∧
      (((f.kind ≠ .answer ∧ f.kind ≠ .status) ∨ stationClass s.ctl.site.work f.src = none) →
        exec (.plantFrameDiscard raw) s = .next s))

/-- The operations transmitter (R22, R23): held off it sends nothing more, but finishes what it sends; made ready, or at the
end of a frame while it is not held off, it chooses the pending flow frame of the Load Intake, otherwise the oldest answer,
otherwise the oldest record, which counts as being sent from then on; a frame being sent goes on when it is made ready. At
the end of a frame a sent answer leaves the send queue and its place frees, the record being sent leaves the report queue,
and a flow frame leaves nothing behind. That the idle transmitter chooses at the end of every step is the model's reading
(log entry 8); that the end of a frame changes nothing while none is being sent is its choice (log entry 4). -/
def Obligations.OperationsTransmitterSends : Prop :=
  ∀ s : State, s.ctl.agenda = [] →
    let becomes := fun (c : Ctl) => (.next { s with ctl := c } : Host.Outcome State Fault Refusal)
    let chooses := fun (k : Link) => becomes (match s.ctl.load.flow, k.answers, k.reports with
      | some f, _, _ => { s.ctl with
          link := { k with opsTx := some (.flow f s.ctl.load.opener.station s.ctl.load.opener.tag) }
          load := { s.ctl.load with flow := none, told := decide (f = .pause) } }
      | none, a :: _, _ => { s.ctl with link := { k with opsTx := some (.answer a) } }
      | none, [], r :: rest => { s.ctl with
          link := { k with opsTx := some (.report r), reports := { r with sending := true } :: rest } }
      | none, [], [] => { s.ctl with link := k })
    let ends := fun (k : Link) =>
      if s.ctl.link.opsHeldOff = true then becomes { s.ctl with link := k } else chooses k
    exec .opsHoldOff s = becomes { s.ctl with link := { s.ctl.link with opsHeldOff := true } } ∧
    (s.ctl.link.opsTx = none → exec .opsReady s = chooses { s.ctl.link with opsHeldOff := false }) ∧
    (s.ctl.link.opsTx.isSome = true →
      exec .opsReady s = becomes { s.ctl with link := { s.ctl.link with opsHeldOff := false } }) ∧
    (s.ctl.link.opsTx = none → s.ctl.link.opsHeldOff = true → exec .opsFrameSent s = .next s) ∧
    (s.ctl.link.opsInput = [] →
      (∀ a rest, s.ctl.link.opsTx = some (.answer a) → s.ctl.link.answers = a :: rest →
        exec .opsFrameSent s = ends { s.ctl.link with opsTx := none, answers := rest }) ∧
      (∀ r rest, s.ctl.link.opsTx = some (.report r) → s.ctl.link.reports = { r with sending := true } :: rest →
        exec .opsFrameSent s = ends { s.ctl.link with opsTx := none, reports := rest }) ∧
      (∀ f d t, s.ctl.link.opsTx = some (.flow f d t) →
        exec .opsFrameSent s = ends { s.ctl.link with opsTx := none }))

/-- Frames of the operations side that reach no block (R20): to 0, to 127 or to a plant address that is not known, refused
UNKNOWN_STATION; to the matrix station, refused MATRIX_RESERVED in every start-up phase (R56); to 121..126, discarded; to
the controller with a verb that is none of its own, or as a LATCH, and to a transmitter or a drive with a verb not of its
class, or as a LATCH, refused BAD_RECORD, check 0. -/
def Obligations.UnroutableFramesAreRefused : Prop :=
  ∀ (f : Frame) (s : State), Still s.ctl → Takes s.ctl f.src f.tag f.payload → (f.kind = .order ∨ f.kind = .latch) →
    ((f.dest = 0 ∨ f.dest = 127 ∨ f.dest ≤ 119) → stationClass s.ctl.site.work f.dest = none →
      exec (.opsUnknownDestination f) s =
        .next { s with ctl := { s.ctl with link := withAnswer (ownAnswer f.src f.tag f.verb 3 16 []) s.ctl.link } }) ∧
    ((121 ≤ f.dest ∧ f.dest ≤ 126) → exec (.opsUnknownDestination f) s = .next s) ∧
    ((f.dest = 120 ∧ (f.kind = .latch ∨ f.verb < 32 ∨ 56 < f.verb) ∨
      f.dest ≤ 119 ∧ stationClass s.ctl.site.work f.dest = some .transmitter ∧
        (f.kind = .latch ∨ f.verb < 1 ∨ 6 < f.verb) ∨
      f.dest ≤ 119 ∧ stationClass s.ctl.site.work f.dest = some .drive ∧ (f.kind = .latch ∨ f.verb < 6 ∨ 9 < f.verb)) →
      exec (.opsBadVerb f) s =
        .next { s with ctl := { s.ctl with link := withAnswer (ownAnswer f.src f.tag f.verb 3 20 [0#8]) s.ctl.link } }) ∧
    (f.dest ≤ 119 → stationClass s.ctl.site.work f.dest = some .matrix →
      exec (.opsMatrixFrame f) s =
        .next { s with ctl := { s.ctl with link := withAnswer (ownAnswer f.src f.tag f.verb 3 14 []) s.ctl.link } })

/-! ## The Traffic Gate -/

/-- An order that the gate refuses is answered with the gate's reason, and nothing else changes (R21, R43). -/
def Obligations.GateRefusalsAreAnswered : Prop :=
  ∀ (o : PlantOrder) (s : State), Still s.ctl → Takes s.ctl o.src o.tag o.payload → o.dest ≤ 119 →
    (∀ p ∈ transmitterRows o, stationClass s.ctl.site.work o.dest = some .transmitter → ∀ r,
      gateVerdict (gateFrame o (parseTransmitterVerb p.1 o.payload)) s.ctl = .refuse r →
      exec p.2 s = .next { s with ctl := { s.ctl with
        link := withAnswer (ownAnswer o.src o.tag p.1 3 r.code (if r = .badRecord then [0#8] else [])) s.ctl.link } }) ∧
    (∀ p ∈ driveRows o, stationClass s.ctl.site.work o.dest = some .drive → ∀ r,
      gateVerdict (gateFrame o (parseDriveVerb p.1 o.payload)) s.ctl = .refuse r →
      exec p.2 s = .next { s with ctl := { s.ctl with
        link := withAnswer (ownAnswer o.src o.tag p.1 3 r.code (if r = .badRecord then [0#8] else [])) s.ctl.link } })
/-- The checks before the rule of the verb, for a frame of any origin to a transmitter, in their order. A transmitter is under
its own panel's control while its panel input or its last report says so (R63); in RUNNING every frame to it is then refused
LOCAL, whatever its origin, but for CARRIER_OFF, which passes from any origin, and the QUERY frames of the controller's own
origin, which pass (R46, R57). Before that check stands the one of the phase: before RUNNING the same frames are refused
SURVEY (R45); and behind it the one of the owner: TUNE, POWER and CARRIER_ON of an operations station to a transmitter owned
by a context are refused OWNED (R47). -/
def Obligations.TransmitterChecksComeInOrder : Prop :=
  ∀ (c : Ctl) (f : PFrame) (n : Nat) (st : TxStatic) (d : TxDyn),
    stationClass c.site.work f.dest = some .transmitter → txOfStation c.site.work f.dest = some n →
    txStatic c n = some st → txDyn c n = some d →
    (localFlag c n d = true ↔ n ∈ c.panel.cond.locals ∨ d.reportedLocal = true) ∧
    (f.verb.code ≠ 4 → (f.verb = .query → ownOrigin f.origin = false) →
      (c.start.phase ≠ .running → gateVerdict f c = .refuse .survey) ∧
      (c.start.phase = .running → localFlag c n d = true → gateVerdict f c = .refuse .localControl) ∧
      (c.start.phase = .running → localFlag c n d = false → ∀ k station tag, f.verb.code ≤ 3 → d.owner = .ctx k →
        f.origin = .ops station tag → gateVerdict f c = .refuse .owned)) ∧
    (f.verb = .carrierOff → gateVerdict f c = .pass .carrierOff none) ∧
    (f.verb = .query → ownOrigin f.origin = true → gateVerdict f c = .pass .query none)

/-- No CARRIER_ON passes the gate, whatever its origin, unless the hall stop is not in force, start-up has reached RUNNING,
the transmitter is not local, and its row has a PROVEN path to an antenna that is not locked out and is rated, in the band
of the frequency it is tuned to, at a nonzero power not below the transmitter's power setting, which its maximum is not
below either (R45, R46, R48). -/
def Obligations.CarrierOnNeedsAProvenRatedPath : Prop :=
  ∀ (c : Ctl) (f : PFrame) (v : PlantVerb) (clamped : Option (Nat × Nat)),
    stationClass c.site.work f.dest = some .transmitter → f.verb = .carrierOn → gateVerdict f c = .pass v clamped →
    v = .carrierOn ∧ clamped = none ∧ c.hall.inForce = false ∧ c.start.phase = .running ∧
    ∃ n st d p k kW, txOfStation c.site.work f.dest = some n ∧ txStatic c n = some st ∧ txDyn c n = some d ∧
      localFlag c n d = false ∧ rowPath c n = some p ∧ p.state = .proven ∧ lockedOut c p.ant = false ∧
      ratableBand c d = some k ∧ d.power = some kW ∧ ratingOf c.site.work p.ant k ≠ 0 ∧
      kW ≤ ratingOf c.site.work p.ant k ∧ kW ≤ st.maxPower

/-- No SLEW and no STEER passes the gate, whatever its origin, while a path holds the antenna's column and its transmitter
is live; and one that passes lies within the antenna's travel: a bearing outside the stop arc of a ROTATABLE antenna, an
index of a STEERABLE one (R53, R94). -/
def Obligations.NoAntennaMovesWhileLive : Prop :=
  ∀ (c : Ctl) (f : PFrame) (v : PlantVerb) (clamped : Option (Nat × Nat)),
    stationClass c.site.work f.dest = some .drive → gateVerdict f c = .pass v clamped →
    (∀ b, f.verb = .slew b → ∃ a s, antOfDrive c.site.work f.dest = some a ∧ antStatic c a = some s ∧
      (∀ p ∈ c.matrix.paths, p.ant = a → txLive c p.tx = false) ∧ s.kind = .rotatable ∧ b < 3600 ∧
      reachable s b = true) ∧
    (∀ i, f.verb = .steer i → ∃ a s, antOfDrive c.site.work f.dest = some a ∧ antStatic c a = some s ∧
      (∀ p ∈ c.matrix.paths, p.ant = a → txLive c p.tx = false) ∧ s.kind = .steerable ∧ 1 ≤ i ∧
      i ≤ (s.offsets.getD []).length)

/-- A FEED with a feed number 1..32 and a QUERY to a ready transmitter, a QUERY to a ready drive, a STOP to a drive with no
job of the operations side, in every start-up phase, and every frame to an AUXILIARY station, in every start-up phase, join
the plant queue as they are, and nothing else changes (R26, R44, R46, R52, R53). -/
def Obligations.PlainOrdersJoinThePlantQueue : Prop :=
  ∀ (o : PlantOrder) (s : State), Still s.ctl → Takes s.ctl o.src o.tag o.payload → PortRoom s.ctl →
    (∀ n st d, TxReady s.ctl o.dest n st d →
      (∀ k, 1 ≤ k → k ≤ 32 → o.payload = [BitVec.ofNat 8 k] →
        exec (.opsFeed o) s = .next { s with ctl := { s.ctl with link := withPassed o (.feed k) s.ctl.link } }) ∧
      (o.payload = [] → exec (.opsQueryTransmitter o) s =
        .next { s with ctl := { s.ctl with link := withPassed o .query s.ctl.link } })) ∧
    (∀ a st d, DriveReady s.ctl o.dest a st d → o.payload = [] →
      exec (.opsQueryDrive o) s = .next { s with ctl := { s.ctl with link := withPassed o .query s.ctl.link } }) ∧
    (∀ a st d, o.dest ≤ 119 → stationClass s.ctl.site.work o.dest = some .drive →
      antOfDrive s.ctl.site.work o.dest = some a → antStatic s.ctl a = some st → antDyn s.ctl a = some d →
      tableRising s.ctl.aerial = true →
      (∀ j ref, d.job = some j → j.requester ≠ .operations ref) → o.payload = [] →
      exec (.opsStop o) s = .next { s with ctl := { s.ctl with link := withPassed o .stop s.ctl.link } }) ∧
    (∀ kind code, (kind = .order ∨ kind = .latch) → o.dest ≤ 119 →
      stationClass s.ctl.site.work o.dest = some .auxiliary →
      exec (.opsAuxiliaryFrame (frameOf o kind code)) s =
        .next { s with ctl := { s.ctl with link := withPassed o (.other kind code o.payload) s.ctl.link } })

/-- A TUNE to a ready transmitter that is not live is refused OUT_OF_BAND where its frequency lies outside 2300..26100 or in
no band, and otherwise joins the plant queue, with tune state TUNING recorded and the former tune state noted; one that is
live is refused CARRIER_ON (R50). The case of a CARRIER_ON still queued for a transmitter that a report has left not live
(R54, log entry 36) is not stated here. -/
def Obligations.TuneIsPassedOrRefused : Prop :=
  ∀ (o : PlantOrder) (s : State) (n : Nat) (st : TxStatic) (d : TxDyn) (f : Nat), Still s.ctl →
    Takes s.ctl o.src o.tag o.payload → PortRoom s.ctl → TxReady s.ctl o.dest n st d → f < 65536 →
    o.payload = [BitVec.ofNat 8 (f / 256), BitVec.ofNat 8 f] →
    (d.live = false → ∀ q ∈ s.ctl.link.plantQueue, q.frame.dest ≠ o.dest ∨ q.frame.verb ≠ .carrierOn) →
    exec (.opsTune o) s = .next { s with ctl :=
      if d.live then { s.ctl with link := withAnswer (ownAnswer o.src o.tag 1 3 4 []) s.ctl.link }
      else if f < 2300 ∨ 26100 < f ∨ bandOf s.ctl.site.work f = none then
        { s.ctl with link := withAnswer (ownAnswer o.src o.tag 1 3 5 []) s.ctl.link }
      else { s.ctl with
        link := withPassed o (.tune f) s.ctl.link
        gate := { s.ctl.gate with tx := (tset n
          { d with tune := .tuning, tuneRestore := some { value := d.tune, addr := o.src, tag := o.tag } }
          s.ctl.gate.tx) } } }

/-- A POWER of 1..999 kW to a ready transmitter joins the plant queue, brought down to the transmitter's maximum and, where
its row has a PROVEN path and its band is known, to the antenna's rating in the band; a lowered one raises NOTICE
POWER_CLAMPED with the value sent and the antenna whose rating lowered it, or none. With a rating of 0 it is refused
BAND_UNRATED, and with a value outside 1..999 BAD_RECORD, check 0 (R51). -/
def Obligations.PowerIsClamped : Prop :=
  ∀ (o : PlantOrder) (s : State) (n : Nat) (st : TxStatic) (d : TxDyn) (p : Nat), Still s.ctl →
    Takes s.ctl o.src o.tag o.payload → PortRoom s.ctl → TxReady s.ctl o.dest n st d → p < 65536 →
    o.payload = [BitVec.ofNat 8 (p / 256), BitVec.ofNat 8 p] → s.ctl.link.reports.length < 32 →
    ((p < 1 ∨ 999 < p) → exec (.opsPower o) s = .next { s with ctl := { s.ctl with
      link := withAnswer (ownAnswer o.src o.tag 2 3 20 [0#8]) s.ctl.link } }) ∧
    (1 ≤ p → p ≤ 999 →
      (∀ path k, rowPath s.ctl n = some path → path.state = .proven → ratableBand s.ctl d = some k →
        let r := ratingOf s.ctl.site.work path.ant k
        (r = 0 → exec (.opsPower o) s = .next { s with ctl := { s.ctl with
          link := withAnswer (ownAnswer o.src o.tag 2 3 10 []) s.ctl.link } }) ∧
        (r ≠ 0 → exec (.opsPower o) s = .next { s with ctl := { s.ctl with
          link :=
            let q := min (min p st.maxPower) r
            let k := withPassed o (.power q) s.ctl.link
            if q < p then
              withReport (reportNow s.ctl .powerClamped (.pair n (if q < min p st.maxPower then path.ant else 0)) 0 0
                (some q) none) k
            else k } })) ∧
      ((∀ path, rowPath s.ctl n = some path → path.state ≠ .proven ∨ ratableBand s.ctl d = none) →
        exec (.opsPower o) s = .next { s with ctl := { s.ctl with
          link :=
            let q := min p st.maxPower
            let k := withPassed o (.power q) s.ctl.link
            if q < p then withReport (reportNow s.ctl .powerClamped (.pair n 0) 0 0 (some q) none) k else k } }))

/-- A CARRIER_ON to a ready transmitter, with the hall stop not in force: over a SETTING path it is held on PATH; over a
PROVEN path to a rated antenna it joins the plant queue, with carrier-on outstanding recorded, where its power setting is
known and within the maximum and the rating, and otherwise it is held on POWER while a clamping POWER of the gate is offered,
with NOTICE POWER_CLAMPED where the setting is known, its antenna 0 where the maximum alone sets the value (R36, R48, R49,
R58). -/
def Obligations.CarrierOnIsPassedOrHeld : Prop :=
  ∀ (o : PlantOrder) (s : State) (n : Nat) (st : TxStatic) (d : TxDyn) (p : Path), Still s.ctl →
    Takes s.ctl o.src o.tag o.payload → PortRoom s.ctl → TxReady s.ctl o.dest n st d → o.payload = [] →
    s.ctl.hall.inForce = false → rowPath s.ctl n = some p → lockedOut s.ctl p.ant = false →
    s.ctl.gate.held.length < 12 →
    (p.state = .setting → exec (.opsCarrierOn o) s = .next { s with ctl := { s.ctl with
      link := { s.ctl.link with reserved := s.ctl.link.reserved + 1 }
      gate := { s.ctl.gate with
        held := s.ctl.gate.held ++ [{ frame := gateFrame o .carrierOn, waits := .path, since := s.ctl.clock }] } } }) ∧
    (∀ k, p.state = .proven → ratableBand s.ctl d = some k → ratingOf s.ctl.site.work p.ant k ≠ 0 →
      let most := min st.maxPower (ratingOf s.ctl.site.work p.ant k)
      (∀ kW, d.power = some kW → kW ≤ most → s.ctl.matrix.queue = [] → (∀ x ∈ s.ctl.cu, x.2.busy = false) →
        exec (.opsCarrierOn o) s = .next { s with ctl := { s.ctl with
          link := withPassed o .carrierOn s.ctl.link
          gate := { s.ctl.gate with tx := (tset n
            { d with outstanding := true, outRestore := some { value := d.outstanding, addr := o.src, tag := o.tag } }
            s.ctl.gate.tx) } } }) ∧
      ((∀ kW, d.power = some kW → most < kW) → 1 ≤ st.maxPower → st.maxPower ≤ 999 →
        clampPending s.ctl.link o.dest = false → s.ctl.link.reports.length < 32 →
        exec (.opsCarrierOn o) s = .next { s with ctl := { s.ctl with
          link :=
            let k := withOwn { dest := o.dest, verb := .power most, cls := .internal, origin := .gate .clamp }
              { s.ctl.link with reserved := s.ctl.link.reserved + 1 }
            if d.power.isSome then
              withReport (reportNow s.ctl .powerClamped (.pair n (if most < st.maxPower then p.ant else 0)) 0 0 (some most)
                none) k
            else k
          gate := { s.ctl.gate with
            held := s.ctl.gate.held ++ [{ frame := gateFrame o .carrierOn, waits := .power, since := s.ctl.clock }] } } }))

/-- A CARRIER_OFF to a transmitter that no context owns joins the plant queue, in every start-up phase and whatever its
local flag, and leaves its record as it is (R45, R46, R52). -/
def Obligations.CarrierOffIsPassed : Prop :=
  ∀ (o : PlantOrder) (s : State) (n : Nat) (st : TxStatic) (d : TxDyn), Still s.ctl →
    Takes s.ctl o.src o.tag o.payload → PortRoom s.ctl → o.dest ≤ 119 →
    stationClass s.ctl.site.work o.dest = some .transmitter → txOfStation s.ctl.site.work o.dest = some n →
    txStatic s.ctl n = some st → txDyn s.ctl n = some d → ownedByCtx d = false → o.payload = [] →
    exec (.opsCarrierOff o) s =
      .next { s with ctl := { s.ctl with link := withPassed o .carrierOff s.ctl.link } }

/-- A SLEW within the travel of a ROTATABLE antenna, and a STEER to an index of a STEERABLE one, whose column no live
transmitter and no context's path holds, join the plant queue, and the Antenna Unit follows the target in an OPERATIONS job,
in place of any such job before it; and a STOP ends an open OPERATIONS job (R53, R102). -/
def Obligations.SlewAndSteerOpenJobs : Prop :=
  ∀ (o : PlantOrder) (s : State) (a : Nat) (st : AntStatic) (d : AntDyn), Still s.ctl →
    Takes s.ctl o.src o.tag o.payload → PortRoom s.ctl → DriveReady s.ctl o.dest a st d →
    columnLive s.ctl a = false → columnOwned s.ctl a (.ops o.src o.tag) = false →
    (∀ j k w, d.job = some j → j.requester ≠ .ctx k w) →
    (∀ b, st.kind = .rotatable → b < 3600 → reachable st b = true →
      o.payload = [BitVec.ofNat 8 (b / 256), BitVec.ofNat 8 b] →
      exec (.opsSlew o) s = .next { s with ctl := { s.ctl with
        link := withPassed o (.slew b) s.ctl.link
        aerial := tset a { d with job := some (newJob (.operations { station := o.src, tag := o.tag }) (.bearing b)) }
          s.ctl.aerial } }) ∧
    (∀ i, st.kind = .steerable → 1 ≤ i → i ≤ (st.offsets.getD []).length → i < 256 → o.payload = [BitVec.ofNat 8 i] →
      exec (.opsSteer o) s = .next { s with ctl := { s.ctl with
        link := withPassed o (.steer i) s.ctl.link
        aerial := tset a { d with job := some (newJob (.operations { station := o.src, tag := o.tag }) (.index i)) }
          s.ctl.aerial } }) ∧
    (∀ j ref, d.job = some j → j.requester = .operations ref → o.payload = [] →
      exec (.opsStop o) s = .next { s with ctl := { s.ctl with
        link := withPassed o .stop s.ctl.link
        aerial := tset a { d with job := none } s.ctl.aerial } })

/-! ## Orders to the controller -/

/-- Before start-up has reached RUNNING these orders are refused SURVEY, and nothing else changes (R2, R13, R74, R87, R89,
R124, R125, R127, R134, R141, R195). -/
def Obligations.StartUpRefusesOrders : Prop :=
  ∀ (o : OwnOrder) (s : State), Still s.ctl → Takes s.ctl o.src o.tag o.payload → s.ctl.start.phase ≠ .running →
    (∀ p ∈ [(37, Instr.hallResume o), (39, .siteWrite o), (41, .siteSave o), (42, .storeOpen o), (44, .bankCreate o),
        (45, .bankSeal o), (46, .bankClear o), (47, .entryAppend o), (48, .entryVoid o), (49, .pageErase o),
        (51, .storeFaultClear o), (1, .loadOpen o)],
      exec p.2 s = .next { s with ctl := { s.ctl with link := answered o p.1 3 1 [] s.ctl.link } }) ∧
    (∀ a b, o.payload = [a, b] →
      exec (.pathSet o) s = .next { s with ctl := { s.ctl with link := answered o 32 3 1 [] s.ctl.link } } ∧
      exec (.xpClear o) s = .next { s with ctl := { s.ctl with link := answered o 34 3 1 [] s.ctl.link } }) ∧
    (∀ a, o.payload = [a] →
      exec (.pathFree o) s = .next { s with ctl := { s.ctl with link := answered o 33 3 1 [] s.ctl.link } })

/-- The orders that read are answered DONE with what they ask for, in every start-up phase, and change nothing else:
SITE_READ of the working or the saved copy, STORE_STATUS, ENTRY_READ by id once the store check has ended (a read by place
draws free values), PLAN_READ, CONTEXT_READ, and PART_STATUS, whose section SUMMARY shows the reports-lost flag as it
stood and clears it (R11, R37, R131, R137, R168, R190, R201). How the orders' and the answers' octets lie is the model's
reading (log entries 5, 6 and 14), with the index of PART_STATUS from 0 and the order it counts in (log entry 6) and a context's time remaining in whole
seconds rounded upward (log entry 40); what STORE_STATUS shows before the store check, and which of two valid records with one id
ENTRY_READ returns, are its choices (log entries 12 and 17), and the free values are its own (log entry 19). -/
def Obligations.ReadingOrdersOnlyAnswer : Prop :=
  ∀ (o : OwnOrder) (s : State), Still s.ctl → Takes s.ctl o.src o.tag o.payload →
    (∀ kind key src k, o.payload = [kind, key, src] → recordKindOf kind.toNat = some k → keyValid k key.toNat = true →
      (src = 1#8 ∨ src = 2#8) →
      exec (.siteRead o) s = .next { s with ctl := { s.ctl with
        link := answered o 40 1 0 (siteReadOctets s.ctl k key.toNat (decide (src = 2#8))) s.ctl.link } }) ∧
    exec (.storeStatus o) s = .next { s with ctl := { s.ctl with
      link := answered o 50 1 0 (statusOctets s.ctl) s.ctl.link } } ∧
    (∀ b i1 i2 p q bk, o.payload = [b, i1, i2, p, q] → bankOfCode b.toNat = some bk → s.ctl.store.checked = true →
      (∀ k, p = 255#8 → q = 255#8 → slotOfId s.ctl bk (rd2 i1 i2) = some k →
        exec (.entryRead o) s = .next { s with ctl := { s.ctl with
          link := answered o 52 1 0 (slotOctets s.ctl bk k) s.ctl.link } }) ∧
      (1 ≤ p.toNat → p.toNat ≤ 16 → 1 ≤ q.toNat → q.toNat ≤ 128 →
        exec (.entryRead o) s = .next { s with ctl := { s.ctl with
          free := s.ctl.free + 22
          link := answered o 52 1 0 (slotOctets s.ctl bk (slotKey p.toNat q.toNat)) s.ctl.link } })) ∧
    (∀ i, o.payload = [i] →
      exec (.planRead o) s = .next { s with ctl := { s.ctl with
        link := answered o 53 1 0 (planOctets s.ctl i.toNat) s.ctl.link } } ∧
      (1 ≤ i.toNat → i.toNat ≤ 16 →
        exec (.contextRead o) s = .next { s with ctl := { s.ctl with
          link := answered o 54 1 0 (match tget i.toNat s.ctl.cu with | some x => ctxOctets s.ctl x | none => [1#8])
            s.ctl.link } })) ∧
    (∀ i1 i2, (o.payload = [2#8, i1, i2] →
        exec (.partStatus o) s = .next { s with ctl := { s.ctl with
          link := answered o 55 1 0 (u8 (knownStations s.ctl.site.work).length ++
            itemOctets (knownStations s.ctl.site.work) (rd2 i1 i2) 14 (stationOctets s.ctl)) s.ctl.link } }) ∧
      (o.payload = [3#8, i1, i2] →
        exec (.partStatus o) s = .next { s with ctl := { s.ctl with
          link := answered o 55 1 0 (u8 s.ctl.matrix.paths.length ++
            itemOctets s.ctl.matrix.paths (rd2 i1 i2) 3 pathOctets) s.ctl.link } }) ∧
      (o.payload = [4#8, i1, i2] →
        exec (.partStatus o) s = .next { s with ctl := { s.ctl with
          link := answered o 55 1 0 (be2 (notOpen s.ctl).length ++
            itemOctets (notOpen s.ctl) (rd2 i1 i2) 8 (xpOctets s.ctl)) s.ctl.link } }) ∧
      (o.payload = [5#8, i1, i2] →
        exec (.partStatus o) s = .next { s with ctl := { s.ctl with
          link := answered o 55 1 0 (panelOctets s.ctl.panel) s.ctl.link } }) ∧
      (o.payload = [1#8, i1, i2] →
        exec (.partStatus o) s = .next { s with ctl := { s.ctl with
          link := { answered o 55 1 0 (summaryOctets s.ctl) s.ctl.link with reportsLost := false } } }))

/-- The store orders that pass their tests are answered ACCEPTED, and their requests stand last in the store queue while
the engine is at work; a creation, a seal and a clear become the bank's pending change, and a seal closes the bank (R13,
R122, R128, R130, R134 to R136). How the payload's octets lie is the model's reading (log entry 5). -/
def Obligations.StoreOrdersAreQueued : Prop :=
  ∀ (o : OwnOrder) (s : State), Still s.ctl → Takes s.ctl o.src o.tag o.payload → s.ctl.start.phase = .running →
    s.ctl.store.op.isSome = true → s.ctl.load.state = .none →
    let ref : Ref := { station := o.src, tag := o.tag }
    (s.ctl.store.queue.length < 8 →
      exec (.siteSave o) s = .next { s with ctl := { s.ctl with
        link := answered o 41 2 0 [] s.ctl.link
        store := withRequest (.siteSave ref) s.ctl.store } }) ∧
    (∀ b n1 n2 d1 d2 s1 s2 s3 bk, o.payload = [b, n1, n2, d1, d2, s1, s2, s3] → bankOfCode b.toNat = some bk →
      createTests s.ctl bk (rd2 n1 n2) (rd3 s1 s2 s3) = none →
      exec (.bankCreate o) s = .next { s with ctl := { s.ctl with
        link := answered o 44 2 0 [] s.ctl.link
        store := withBank bk (fun r => { r with change := .create }) (withRequest
          (.header bk (.create (rd2 n1 n2) (siteTime (rd2 d1 d2) (rd3 s1 s2 s3))) (some ref)) s.ctl.store) } }) ∧
    (∀ b bk, o.payload = [b] → bankOfCode b.toNat = some bk → s.ctl.store.openBank = some bk →
      (bankRec s.ctl bk).header.state = .filling → (bankRec s.ctl bk).fault = false → sealTests s.ctl bk = none →
      exec (.bankSeal o) s = .next { s with ctl := { s.ctl with
        link := answered o 45 2 0 [] s.ctl.link
        store := withBank bk (fun r => { r with change := .seal }) (withRequest (.header bk .seal (some ref))
          { s.ctl.store with openBank := none }) } }) ∧
    (∀ b bk, o.payload = [b] → bankOfCode b.toNat = some bk → clearTests s.ctl bk = none →
      exec (.bankClear o) s = .next { s with ctl := { s.ctl with
        link := answered o 46 2 0 [] s.ctl.link
        store := withBank bk (fun r => { r with change := .clear }) (withRequest (.clear bk ref)
          { s.ctl.store with
            openBank := if s.ctl.store.openBank = some bk then none else s.ctl.store.openBank }) } }) ∧
    (∀ b rest bk e, o.payload = b :: rest → bankOfCode b.toNat = some bk → parseEntry rest = some e →
      writeTests s.ctl bk (acceptsWrites s.ctl bk) = none → appendTests s.ctl bk e = none →
      exec (.entryAppend o) s = .next { s with ctl := { s.ctl with
        link := answered o 47 2 0 [] s.ctl.link
        store := withRequest (.append bk e ref) s.ctl.store } }) ∧
    (∀ b i1 i2 bk, o.payload = [b, i1, i2] → bankOfCode b.toNat = some bk →
      writeTests s.ctl bk (acceptsWrites s.ctl bk) = none → voidTests s.ctl bk (rd2 i1 i2) = none →
      exec (.entryVoid o) s = .next { s with ctl := { s.ctl with
        link := answered o 48 2 0 [] s.ctl.link
        store := withRequest (.void bk (rd2 i1 i2) ref) s.ctl.store } })

/-- An accepted PAGE_ERASE selects its pages: with no window open for the bank it takes a place in the store queue and
opens one, and with one open for the bank it adds its pages to the selection and starts the 2 s again (R132). How the
payload's octets lie is the model's reading (log entry 5). -/
def Obligations.PageEraseOpensAWindow : Prop :=
  ∀ (o : OwnOrder) (s : State) (b m1 m2 : Byte) (bk : Bank), Still s.ctl → Takes s.ctl o.src o.tag o.payload →
    s.ctl.start.phase = .running → s.ctl.store.op.isSome = true → o.payload = [b, m1, m2] →
    bankOfCode b.toNat = some bk → maskPages (rd2 m1 m2) ≠ [] → s.ctl.store.openBank = some bk →
    (bankRec s.ctl bk).header.state = .filling → (bankRec s.ctl bk).fault = false →
    eraseTests s.ctl bk (maskPages (rd2 m1 m2)) = none →
    let ref : Ref := { station := o.src, tag := o.tag }
    (windowOpenFor s.ctl.store bk = false →
      exec (.pageErase o) s = .next { s with ctl := { s.ctl with
        link := answered o 49 2 0 [] s.ctl.link
        store := { withRequest (.erase bk (maskPages (rd2 m1 m2)) [ref] true) s.ctl.store with
          window := some s.ctl.clock } } }) ∧
    (∀ pages refs, s.ctl.store.queue = [.erase bk pages refs true] →
      exec (.pageErase o) s = .next { s with ctl := { s.ctl with
        link := answered o 49 2 0 [] s.ctl.link
        store := { s.ctl.store with
          window := some s.ctl.clock
          queue := [.erase bk ((maskPages (rd2 m1 m2)).foldl (fun l p => nins p l) pages) (refs ++ [ref]) true] } } })

/-- Writes and erases are refused NOT_OPEN unless their bank is the open one, and PROTECTED where its state does not
accept them: appends and voids but in a FILLING bank, or in the ACTIVE bank while the MAINTENANCE key is on; erases, seals
and bursts but in a FILLING bank; and clears but of a FILLING or RETIRED bank, which need no open bank (R126, R127). How
the payload's octets lie is the model's reading (log entry 5). -/
def Obligations.BanksProtectTheirRecords : Prop :=
  ∀ (o : OwnOrder) (s : State) (b : Byte) (rest : List Byte) (bk : Bank), Still s.ctl →
    Takes s.ctl o.src o.tag o.payload → s.ctl.start.phase = .running → o.payload = b :: rest →
    bankOfCode b.toNat = some bk →
    let state := (bankRec s.ctl bk).header.state
    let refused := fun (verb code : Nat) =>
      (.next { s with ctl := { s.ctl with link := answered o verb 3 code [] s.ctl.link } } :
        Host.Outcome State Fault Refusal)
    (∀ p ∈ [(47, Instr.entryAppend o), (48, .entryVoid o), (49, .pageErase o), (45, .bankSeal o), (1, .loadOpen o)],
      ((p.1 = 47 ∧ (parseEntry rest).isSome = true) ∨ (p.1 = 48 ∧ rest.length = 2) ∨
       (p.1 = 49 ∧ ∃ m1 m2, rest = [m1, m2] ∧ maskPages (rd2 m1 m2) ≠ []) ∨ (p.1 = 45 ∧ rest = []) ∨
       (p.1 = 1 ∧ ∃ n1 n2, rest = [n1, n2] ∧ 1 ≤ rd2 n1 n2 ∧ rd2 n1 n2 ≤ 2048)) →
      (s.ctl.store.openBank ≠ some bk → exec p.2 s = refused p.1 23) ∧
      (s.ctl.store.openBank = some bk → state ≠ .filling →
        (state ≠ .active ∨ s.ctl.panel.cond.maintenance = false ∨ p.1 = 49 ∨ p.1 = 45 ∨ p.1 = 1) →
        exec p.2 s = refused p.1 25)) ∧
    (rest = [] → state ≠ .filling → state ≠ .retired → exec (.bankClear o) s = refused 46 25)

/-- STORE_OPEN of a bank that is not BLANK, by its season id, with no CLEAR pending and no burst open, makes it the open
bank; with the wrong season id, or for a BLANK bank, it is refused WRONG_SEASON and any open bank is closed; STORE_CLOSE
closes the open bank, in every start-up phase (R125). That it does so before RUNNING too is the model's choice (log entry 43).
How the payload's octets lie is the model's reading (log entry 5). -/
def Obligations.StoreOpensAndCloses : Prop :=
  ∀ (o : OwnOrder) (s : State), Still s.ctl → Takes s.ctl o.src o.tag o.payload → s.ctl.load.state = .none →
    (∀ b s1 s2 bk, o.payload = [b, s1, s2] → bankOfCode b.toNat = some bk → s.ctl.start.phase = .running →
      ((bankRec s.ctl bk).header.state ≠ .blank → (bankRec s.ctl bk).header.season = some (rd2 s1 s2) →
        (bankRec s.ctl bk).change ≠ .clear →
        exec (.storeOpen o) s = .next { s with ctl := { s.ctl with
          link := answered o 42 1 0 [] s.ctl.link
          store := { s.ctl.store with openBank := some bk } } }) ∧
      (((bankRec s.ctl bk).header.state = .blank ∨ (bankRec s.ctl bk).header.season ≠ some (rd2 s1 s2)) →
        exec (.storeOpen o) s = .next { s with ctl := { s.ctl with
          link := answered o 42 3 24 [] s.ctl.link
          store := { s.ctl.store with openBank := none } } })) ∧
    exec (.storeClose o) s = .next { s with ctl := { s.ctl with
      link := answered o 43 1 0 [] s.ctl.link
      store := { s.ctl.store with openBank := none } } }

/-- STORE_FAULT_CLEAR clears the bank's fault flag and changes nothing else of the store; any bank code but 1 and 2 is
refused BAD_RECORD, check 0 (R124). How the payload's octets lie is the model's reading (log entry 5). -/
def Obligations.StoreFaultIsCleared : Prop :=
  ∀ (o : OwnOrder) (s : State) (b : Byte), Still s.ctl → Takes s.ctl o.src o.tag o.payload →
    s.ctl.start.phase = .running → o.payload = [b] →
    (∀ bk, bankOfCode b.toNat = some bk →
      exec (.storeFaultClear o) s = .next { s with ctl := { s.ctl with
        link := answered o 51 1 0 [] s.ctl.link
        store := withBank bk (fun r => { r with fault := false }) s.ctl.store } }) ∧
    (b ≠ 1#8 → b ≠ 2#8 →
      exec (.storeFaultClear o) s = .next { s with ctl := { s.ctl with
        link := answered o 51 3 20 [0#8] s.ctl.link } })

/-- HOLD_LEVEL sets the hold level, to 15 for a greater value, and is answered DONE with the level, in every start-up
phase; every START of a plan of which no event is due takes or loses the flag MASKED by its priority, and the plan's ENDs
stay as they are (R159, R162). How the payload's octets lie is the model's reading (log entry 5). -/
def Obligations.HoldLevelMasksStarts : Prop :=
  ∀ (o : OwnOrder) (s : State) (b : Byte), Still s.ctl → Takes s.ctl o.src o.tag o.payload → o.payload = [b] →
    let level := min b.toNat 15
    (s.ctl.plan.events = [] →
      exec (.holdLevel o) s = .next { s with ctl := { s.ctl with
        link := answered o 35 1 0 [BitVec.ofNat 8 level] s.ctl.link
        plan := { s.ctl.plan with holdLevel := level } } }) ∧
    (level ≠ s.ctl.plan.holdLevel → (∀ v ∈ s.ctl.plan.events, v.absorbed = none) →
      (∀ v ∈ s.ctl.plan.events, v.kind = .finish → v.masked = false) →
      (∀ now, s.ctl.plan.time = some now → ∀ v ∈ s.ctl.plan.events, now < v.begin_) →
      exec (.holdLevel o) s = .next { s with ctl := { s.ctl with
        link := answered o 35 1 0 [BitVec.ofNat 8 level] s.ctl.link
        plan := { s.ctl.plan with
          holdLevel := level
          events := s.ctl.plan.events.map (fun v =>
            if v.kind = .start then { v with masked := decide (v.priority < level) } else v) } } })

/-- HALL_STOP while the stop is in force adds its station to the sources, in every start-up phase; while it is not, at a
calm controller with one live transmitter, it brings the stop into force with an URGENT CARRIER_OFF to that transmitter and
ALARM HALL_STOP with the station as subject (R194). HALL_RESUME, in RUNNING, is refused HALL_STOPPED while the push is
conditioned on; otherwise it ends a stop in force, with the sources emptied, and while site time is INVALID nothing else
follows; with no stop in force it changes nothing (R195, R151). -/
def Obligations.HallStopBeginsAndEnds : Prop :=
  ∀ (o : OwnOrder) (s : State), Takes s.ctl o.src o.tag o.payload →
    (Still s.ctl → s.ctl.hall.inForce = true →
      exec (.hallStop o) s = .next { s with ctl := { s.ctl with
        link := answered o 36 1 0 [] s.ctl.link
        hall := { s.ctl.hall with sources := if .station o.src ∈ s.ctl.hall.sources then s.ctl.hall.sources
                                             else s.ctl.hall.sources ++ [.station o.src] } } }) ∧
    (∀ n st d, Calm s.ctl → s.ctl.gate.tx = [(n, d)] → d.live = true → d.running = none → txStatic s.ctl n = some st →
      stationClass s.ctl.site.work st.station = some .transmitter → txOfStation s.ctl.site.work st.station = some n →
      s.ctl.link.plantQueue.length < 32 →
      (∀ q ∈ s.ctl.link.plantQueue, q.frame.dest ≠ st.station ∨ q.frame.verb ≠ .carrierOn) →
      s.ctl.link.reports.length < 32 →
      exec (.hallStop o) s = .next { s with ctl := { s.ctl with
        link := withReport (reportNow s.ctl .hallStop (.station o.src) 0 0 none none)
          (withOwn { dest := st.station, verb := .carrierOff, cls := .urgent, origin := .hallStop }
            (answered o 36 1 0 [] s.ctl.link))
        hall := { inForce := true, sources := [.station o.src] } } }) ∧
    (Still s.ctl → s.ctl.start.phase = .running →
      (s.ctl.panel.cond.push = true →
        exec (.hallResume o) s = .next { s with ctl := { s.ctl with link := answered o 37 3 11 [] s.ctl.link } }) ∧
      (s.ctl.panel.cond.push = false → s.ctl.hall.inForce = false →
        exec (.hallResume o) s = .next { s with ctl := { s.ctl with link := answered o 37 1 0 [] s.ctl.link } }) ∧
      (s.ctl.panel.cond.push = false → s.ctl.hall.inForce = true → s.ctl.plan.time = none →
        exec (.hallResume o) s = .next { s with ctl := { s.ctl with
          link := answered o 37 1 0 [] s.ctl.link
          hall := { inForce := false, sources := [] } } }))

/-- TIME_SET: a second of 86400 or above is refused TIME_INVALID; the present time is answered DONE and changes nothing;
before RUNNING any other value sets site time, with NOTICE TIME_STEP for the signed step where it was valid; and in
RUNNING, with no season to activate or to plan and no occurrence running, it sets site time for the first time and starts
the plan's scan. With a season ACTIVE, under a hall stop and with one occurrence to catch up and none behind it within the
hour, that occurrence's START enters the plan with its begin at the present site time and flag LATE, and with its reports of
LEAD_CLAMPED and of a predicted LATE_START (R111, R113, R152, R161, R195). That
the least figure of TIME_STEP is -2147483647, and that the set value begins a whole second, are the model's choices (log
entries 37 and 39). How the payload's octets lie is the model's reading (log entry 5). -/
def Obligations.TimeIsSet : Prop :=
  ∀ (o : OwnOrder) (s : State) (d1 d2 s1 s2 s3 : Byte), Still s.ctl → Takes s.ctl o.src o.tag o.payload →
    o.payload = [d1, d2, s1, s2, s3] →
    let t := rd2 d1 d2 * 86400 + rd3 s1 s2 s3
    (86400 ≤ rd3 s1 s2 s3 →
      exec (.timeSet o) s = .next { s with ctl := { s.ctl with link := answered o 38 3 37 [] s.ctl.link } }) ∧
    (rd3 s1 s2 s3 < 86400 →
      (s.ctl.plan.time = some t →
        exec (.timeSet o) s = .next { s with ctl := { s.ctl with link := answered o 38 1 0 [] s.ctl.link } }) ∧
      (s.ctl.start.phase ≠ .running → s.ctl.plan.time = none →
        exec (.timeSet o) s = .next { s with ctl := { s.ctl with
          link := answered o 38 1 0 [] s.ctl.link
          plan := { s.ctl.plan with time := some t, secondFrom := s.ctl.clock }
          start := { s.ctl.start with timeSet := true } } }) ∧
      (∀ was, s.ctl.start.phase ≠ .running → s.ctl.plan.time = some was → was ≠ t → s.ctl.link.reports.length < 32 →
        exec (.timeSet o) s = .next { s with ctl := { s.ctl with
          link := withReport { reportNow s.ctl .timeStep .none 0 0
            (some (max (-2147483647) (min ((t : Int) - was) 2147483647))) none with time := some t }
            (answered o 38 1 0 [] s.ctl.link)
          plan := { s.ctl.plan with time := some t, secondFrom := s.ctl.clock }
          start := { s.ctl.start with timeSet := true } } }) ∧
      (s.ctl.start.phase = .running → s.ctl.plan.time = none → s.ctl.plan.watch = none → activeBank s.ctl = none →
        (∀ p ∈ s.ctl.gate.tx, p.2.running = none) →
        exec (.timeSet o) s = .next { s with ctl := { s.ctl with
          link := answered o 38 1 0 [] s.ctl.link
          plan := { s.ctl.plan with
            time := some t, secondFrom := s.ctl.clock, events := []
            scan := { time := min (t + 3600) (65536 * 86400 - 1), resume := none, left := [] }
            fullLatch := false } } }) ∧
      (∀ bk x e st a target, s.ctl.start.phase = .running → s.ctl.hall.inForce = true → s.ctl.plan.time = none →
        s.ctl.plan.watch = none → s.ctl.plan.events = [] → activeBank s.ctl = some bk →
        (∀ p ∈ s.ctl.gate.tx, p.2.running = none) →
        catchUpList s.ctl bk (scheduleEntries (bankRec s.ctl bk)) t = [x] → x.entry = some e →
        scanRange { s.ctl with plan := { s.ctl.plan with scan := { time := t, resume := none, left := [] } } }
          (min (t + 3600) (65536 * 86400 - 1)) = [] →
        siteTests s.ctl.site.work e = none → txStatic s.ctl e.tx = some st → antStatic s.ctl e.ant = some a →
        mapBearing s.ctl.site.work a e.bearing = some target → s.ctl.link.reports.length < 31 →
        let g := figuresOf s.ctl st a e target x.key.time t
        let rf := min (t + g.lead) (65536 * 86400 - 1)
        let subject := Subject.entry x.occ.bank x.occ.id
        let k := answered o 38 1 0 [] s.ctl.link
        let clamped := match g.clampedFrom with
          | some n => withReport { reportNow s.ctl .leadClamped subject 0 0 (some n) none with time := some t } k
          | none => k
        exec (.timeSet o) s = .next { s with ctl := { s.ctl with
          link := (if x.key.time < rf then withReport { reportNow s.ctl .lateStart subject 0 1
              (some (max (-2147483647) (min ((rf : Int) - x.key.time) 2147483647))) none with time := some t } clamped
            else clamped)
          plan := { s.ctl.plan with
            time := some t, secondFrom := s.ctl.clock
            events := [{ kind := .start, occ := x.occ, tx := x.tx, priority := x.key.priority, time := x.key.time,
                         occStart := x.start, occEnd := x.finish, lead := g.lead, begin_ := t, rf := rf,
                         leadClamped := g.clampedFrom.isSome, late := true,
                         masked := decide (x.key.priority < s.ctl.plan.holdLevel), wait := none, absorbed := none,
                         returnEnd := none }]
            scan := { time := min (t + 3600) (65536 * 86400 - 1), resume := none, left := [] }
            fullLatch := false } } }))

/-- SITE_WRITE in RUNNING, its tests in their order (R2): an invalid kind or key, RATINGS of an absent antenna and a mark
ABSENT for SITE or RATINGS fail check 1; then the first failed record check of the record carried decides (R3), then the
first failed consistency check of the tables asked for (R4), then, where they differ from the working copy, the use of the
record (R5 to R8). The tables asked for are the working copy with the record at its key, an antenna with RATINGS of zeros
where it has none, or without it, an antenna's RATINGS leaving with it (R1). A write that passes and changes nothing is
answered DONE. Otherwise the working copy becomes those tables and is marked unsaved (R15). A new TRANSMITTER, or one with
another station, gets its dynamic record afresh and a QUERY; an antenna that is new, or has another kind or drive, gets its
dynamic record afresh and its drive a QUERY, and with other offsets loses a steer index beyond them (R10, R104); RATINGS of
an antenna whose column no path holds change nothing else (R7); and a SITE record keeps the crosspoints within the geometry
as they are while the matrix station stays the same, and with another makes every crosspoint UNKNOWN (R10). The answer states
of stations known before and after are kept (R32). RATINGS of an antenna whose column a path holds are left out (R7). That
the contacts become UNKNOWN with their crosspoints, and that an antenna of another kind or drive starts afresh, are the model's
readings (log entry 29); how the payload's octets lie is too (log entries 5 and 13). -/
def Obligations.SiteWriteReplacesARecord : Prop :=
  ∀ (o : OwnOrder) (s : State) (kind key mark : Byte) (body : List Byte), Still s.ctl →
    Takes s.ctl o.src o.tag o.payload → s.ctl.start.phase = .running → o.payload = kind :: key :: mark :: body →
    let t := s.ctl.site.work
    let n := key.toNat
    let refused := fun (code : Nat) (detail : List Byte) =>
      (.next { s with ctl := { s.ctl with link := answered o 39 3 code detail s.ctl.link } } : Host.Outcome State Fault Refusal)
    let check := fun (i : Nat) => refused 20 [BitVec.ofNat 8 i]
    let becomes := fun (t' : Tables) (c : Ctl) =>
      (.next { s with ctl := { c with site := { s.ctl.site with work := t', unsaved := true } } } :
        Host.Outcome State Fault Refusal)
    let written := fun (t' : Tables) => { s.ctl with
      link := { answered o 39 1 0 [] s.ctl.link with
        silent := s.ctl.link.silent.filter (fun a => (stationClass t a).isSome && (stationClass t' a).isSome) } }
    let asks := fun (c : Ctl) (station : Nat) (origin : Origin) =>
      { c with link := withOwn { dest := station, verb := .query, cls := .internal, origin := origin } c.link }
    let tests := fun (k : RecordKind) (t' : Tables) =>
      (∀ i, firstFailed (consistencyChecks t') = some i → exec (.siteWrite o) s = check i) ∧
      (firstFailed (consistencyChecks t') = none →
        (t' = t → exec (.siteWrite o) s =
          .next { s with ctl := { s.ctl with link := answered o 39 1 0 [] s.ctl.link } }) ∧
        (∀ r, t' ≠ t → useRefusal s.ctl t' k n = some r → exec (.siteWrite o) s = refused r.code []))
    let passes := fun (k : RecordKind) (t' : Tables) =>
      Calm s.ctl ∧ firstFailed (consistencyChecks t') = none ∧ t' ≠ t ∧ useRefusal s.ctl t' k n = none
    ((recordKindOf kind.toNat = none ∨ ∃ k, recordKindOf kind.toNat = some k ∧
        (keyValid k n = false ∨ (k = .ratings ∧ tget n t.ant = none) ∨
         (mark = 0#8 ∧ (k = .site ∨ k = .ratings)))) → exec (.siteWrite o) s = check 1) ∧
    (∀ k, recordKindOf kind.toNat = some k → keyValid k n = true → (k = .ratings → (tget n t.ant).isSome = true) →
      (∀ r, mark = 1#8 → parseSiteRec k body = .ok r →
        (∀ i, firstFailed (recordChecks t n r) = some i → exec (.siteWrite o) s = check i) ∧
        (firstFailed (recordChecks t n r) = none →
          (∀ x, r = .transmitter x → let t' := { t with tx := tset n x t.tx }
            tests k t' ∧
            (passes k t' → ((tget n t.tx).map (·.station) = some x.station →
              exec (.siteWrite o) s = becomes t' (written t'))) ∧
            (passes k t' → (tget n t.tx).map (·.station) ≠ some x.station →
              stationClass t' x.station = some .transmitter → txOfStation t' x.station = some n →
              s.ctl.link.plantQueue.length < 32 →
              exec (.siteWrite o) s = becomes t' (asks { written t' with
                gate := { s.ctl.gate with tx := tset n TxDyn.initial s.ctl.gate.tx } } x.station (.gate .query)))) ∧
          (∀ x, r = .antenna x →
            let t' := { t with
              ant := tset n x t.ant
              ratings := if (tget n t.ratings).isSome = true then t.ratings else tset n (List.replicate 16 0) t.ratings }
            let afresh := { written t' with aerial := tset n (AntDyn.initial x.kind) s.ctl.aerial }
            tests k t' ∧
            (∀ y, passes k t' → tget n t.ant = some y → y.kind = x.kind → y.drive = x.drive →
              exec (.siteWrite o) s = becomes t' { written t' with
                aerial := tmod n (fun d => { d with
                  steer := d.steer.filter (fun i => decide (1 ≤ i ∧ i ≤ (x.offsets.getD []).length)) }) s.ctl.aerial }) ∧
            (passes k t' → (∀ y, tget n t.ant = some y → y.kind ≠ x.kind ∨ y.drive ≠ x.drive) →
              (x.drive = none → exec (.siteWrite o) s = becomes t' afresh) ∧
              (∀ st, x.drive = some st → stationClass t' st = some .drive → antOfDrive t' st = some n →
                s.ctl.link.plantQueue.length < 32 →
                exec (.siteWrite o) s = becomes t' (asks afresh st .au)))) ∧
          (∀ l, r = .ratings l → let t' := { t with ratings := tset n l t.ratings }
            tests k t' ∧ (passes k t' → columnPaths s.ctl n = [] → exec (.siteWrite o) s = becomes t' (written t'))) ∧
          (∀ x, r = .band x → let t' := { t with bands := tset n x t.bands }
            tests k t' ∧ (passes k t' → exec (.siteWrite o) s = becomes t' (written t'))) ∧
          (∀ x, r = .site x → let t' := { t with site := x }
            tests k t' ∧ (passes k t' → exec (.siteWrite o) s = becomes t' { written t' with
              matrix := { s.ctl.matrix with
                xps := if matrixStation t = matrixStation t' then
                    s.ctl.matrix.xps.filter (fun p => inGeometry t' (xpRow p.1) (xpCol p.1))
                  else [] } })) ∧
          (r = .auxiliary → let t' := { t with aux := nins n t.aux }
            tests k t' ∧ (passes k t' → exec (.siteWrite o) s = becomes t' (written t'))))) ∧
      (mark = 0#8 → body = [] →
        (k = .transmitter → let t' := { t with tx := terase n t.tx }
          tests k t' ∧ (passes k t' → (tget n t.tx).isSome = true →
            exec (.siteWrite o) s = becomes t' { written t' with
              gate := { s.ctl.gate with tx := terase n s.ctl.gate.tx } })) ∧
        (k = .antenna → let t' := { t with ant := terase n t.ant, ratings := terase n t.ratings }
          tests k t' ∧ (passes k t' → exec (.siteWrite o) s = becomes t' { written t' with
            aerial := terase n s.ctl.aerial })) ∧
        (k = .band → let t' := { t with bands := terase n t.bands }
          tests k t' ∧ (passes k t' → exec (.siteWrite o) s = becomes t' (written t'))) ∧
        (k = .auxiliary → let t' := { t with aux := ndel n t.aux }
          tests k t' ∧ (passes k t' → exec (.siteWrite o) s = becomes t' (written t')))))

/-- PATH_SET: one that fails a check is refused with that check's reason; to the antenna of the row's PROVEN path it makes
OPERATIONS its owner and is answered DONE, where no context is in RELEASING or AWAIT_ANTENNA; and with neither the row nor the column claimed and the crosspoint OPEN it is
answered ACCEPTED, and the path is SETTING: with all movement slots taken it waits for the movement that it has requested,
and with one free, every other crosspoint of its row and column OPEN, the row's transmitter off and the column's antenna
not locked out, the movement is granted at once: it takes the lowest free slot with a limit of 3 x Sx, its SET is offered
and the crosspoint is CLOSING (R70, R75, R77 to R79, R87). How the payload's octets lie is the model's reading (log entry 5). -/
def Obligations.PathSetSetsAPath : Prop :=
  ∀ (o : OwnOrder) (s : State) (n a : Byte), Takes s.ctl o.src o.tag o.payload → o.payload = [n, a] →
    (∀ r detail, Still s.ctl → pathSetCheck n.toNat a.toNat s.ctl = some (r, detail) →
      exec (.pathSet o) s = .next { s with ctl := { s.ctl with link := answered o 32 3 r.code detail s.ctl.link } }) ∧
    (pathSetCheck n.toNat a.toNat s.ctl = none →
      (∀ p, Still s.ctl → (∀ x ∈ s.ctl.cu, x.2.busy = true → x.2.phase ≠ .releasing ∧ x.2.phase ≠ .awaitAntenna) →
        claimPath s.ctl n.toNat = some p → p.ant = a.toNat → p.state = .proven →
        exec (.pathSet o) s = .next { s with ctl := { s.ctl with
          link := answered o 32 1 0 [] s.ctl.link
          matrix := { s.ctl.matrix with
            paths := s.ctl.matrix.paths.map (fun q => if q.pid = p.pid then { p with owner := .operations } else q) } } }) ∧
      (∀ st as, Calm s.ctl → claimPath s.ctl n.toNat = none → txStatic s.ctl n.toNat = some st →
        antStatic s.ctl a.toNat = some as → columnClaim s.ctl n.toNat as.column = none →
        (xpAt s.ctl st.row as.column).state = .opened → (∀ p ∈ s.ctl.matrix.paths, p.pid < s.ctl.matrix.nextPid) →
        let request : MoveReq :=
          { pid := s.ctl.matrix.nextPid, row := st.row, col := as.column, coil := .closeCoil,
            priority := s.ctl.site.work.site.manualPriority, age := s.ctl.matrix.nextAge }
        let path := fun (stage : PathStage) (granted : Bool) =>
          ({ pid := s.ctl.matrix.nextPid, tx := n.toNat, ant := a.toNat, row := st.row, col := as.column,
             state := .setting, owner := .operations, stage := some stage, proof := .none,
             priority := s.ctl.site.work.site.manualPriority, since := s.ctl.clock,
             reference := some { station := o.src, tag := o.tag }, granted := granted, settleFrom := s.ctl.clock,
             awaits := [] } : Path)
        (freeSlotOf s.ctl.matrix = none →
          exec (.pathSet o) s = .next { s with ctl := { s.ctl with
            link := answered o 32 2 0 [] s.ctl.link
            matrix := { s.ctl.matrix with
              nextPid := s.ctl.matrix.nextPid + 1
              nextAge := s.ctl.matrix.nextAge + 1
              queue := [request]
              paths := s.ctl.matrix.paths ++ [path .waiting false] } } }) ∧
        (∀ k station, freeSlotOf s.ctl.matrix = some k →
          (∀ q ∈ rowColOthers s.ctl.site.work st.row as.column, (xpAt s.ctl q.1 q.2).state = .opened) →
          rowOff s.ctl st.row = true → antOfCol s.ctl.site.work as.column = some a.toNat →
          lockedOut s.ctl a.toNat = false → matrixStation s.ctl.site.work = some station →
          stationClass s.ctl.site.work station = some .matrix → xpBase st.row as.column ≤ 3839 →
          s.ctl.link.plantQueue.length < 32 →
          exec (.pathSet o) s = .next { s with ctl := (
            setXp st.row as.column { xpAt s.ctl st.row as.column with state := .closing, movement := some k } { s.ctl with
              link := (withOwn { dest := station, verb := .latchSet (xpBase st.row as.column), cls := .internal,
                                 origin := .mi (.set k) } (answered o 32 2 0 [] s.ctl.link))
              matrix := { s.ctl.matrix with
                nextPid := s.ctl.matrix.nextPid + 1
                nextAge := s.ctl.matrix.nextAge + 1
                queue := []
                slots := (tset k { req := request, stage := .driving, limit := 3 * s.ctl.site.work.site.sx * 1000,
                                   started := none, before := .opened } s.ctl.matrix.slots)
                paths := s.ctl.matrix.paths ++ [path .moving true] } }) })))

/-- PATH_FREE: one that fails a check is refused with that check's reason; one that passes releases the row's path, which
is RELEASING while its open movement is requested, all movement slots being taken, and is answered DONE (R85, R89). How
the payload's octets lie is the model's reading (log entry 5). -/
def Obligations.PathFreeReleasesThePath : Prop :=
  ∀ (o : OwnOrder) (s : State) (n : Byte), Takes s.ctl o.src o.tag o.payload → o.payload = [n] →
    (∀ r detail, Still s.ctl → pathFreeCheck n.toNat s.ctl = some (r, detail) →
      exec (.pathFree o) s = .next { s with ctl := { s.ctl with link := answered o 33 3 r.code detail s.ctl.link } }) ∧
    (∀ p, Calm s.ctl → pathFreeCheck n.toNat s.ctl = none → s.ctl.matrix.paths = [p] → p.tx = n.toNat →
      (p.state = .proven ∨ p.state = .unproven) → (xpAt s.ctl p.row p.col).state = .closed →
      freeSlotOf s.ctl.matrix = none →
      exec (.pathFree o) s = .next { s with ctl := { s.ctl with
        link := answered o 33 1 0 [] s.ctl.link
        matrix := { s.ctl.matrix with
          nextAge := s.ctl.matrix.nextAge + 1
          queue := [{ pid := p.pid, row := p.row, col := p.col, coil := .openCoil,
                      priority := s.ctl.site.work.site.manualPriority, age := s.ctl.matrix.nextAge }]
          paths := [{ p with
            state := .releasing, since := s.ctl.clock, stage := none, proof := .none, reference := none
            priority := s.ctl.site.work.site.manualPriority }] } } })

/-- XP_CLEAR of a crosspoint in the geometry: one that is not STUCK is left as it is, and answered DONE; a STUCK one takes
the state its mirror shows, OPEN or CLOSED, and is answered DONE, and with no position shown it stays STUCK and the order
is refused XP_STUCK (R74). How the payload's octets lie is the model's reading (log entry 5). -/
def Obligations.StuckCrosspointIsCleared : Prop :=
  ∀ (o : OwnOrder) (s : State) (r k : Byte), Calm s.ctl → Takes s.ctl o.src o.tag o.payload → o.payload = [r, k] →
    inGeometry s.ctl.site.work r.toNat k.toNat = true → (∀ p ∈ s.ctl.matrix.paths, p.row ≠ r.toNat ∨ p.col ≠ k.toNat) →
    let x := xpAt s.ctl r.toNat k.toNat
    let cleared := fun (x : Xp) => (.next { s with ctl := (setXp r.toNat k.toNat x
      { s.ctl with link := answered o 34 1 0 [] s.ctl.link }) } : Host.Outcome State Fault Refusal)
    (x.state ≠ .stuck →
      exec (.xpClear o) s = .next { s with ctl := { s.ctl with link := answered o 34 1 0 [] s.ctl.link } }) ∧
    (x.state = .stuck →
      (x.position = .opened → exec (.xpClear o) s = cleared { x with state := .opened }) ∧
      (x.position = .closed → exec (.xpClear o) s = cleared { x with state := .closed }) ∧
      (x.position ≠ .opened → x.position ≠ .closed →
        exec (.xpClear o) s = .next { s with ctl := { s.ctl with link := answered o 34 3 18 [] s.ctl.link } }))

/-- RESTART, with nothing under way that it refuses and no push newly found on, answers DONE and starts the start-up
afresh with the latest valid saved tables: queues, tables, paths, reports and plan are emptied, the BUSY contexts freed
FAILED with reason RESTART, the slots kept to release their coils, the store's working state read from its header images
with every failure count 0 (R118), and the send queue, the last part tag, the reports-lost flag, site time, H, the dispatch log, the hold level and the hall
stop kept (R16, R38, R75, R138, R139, R155, R162, R191, R192, R196). What the specification does not name here is kept or
reset as log entry 12 says. -/
def Obligations.RestartStartsAfresh : Prop :=
  ∀ (o : OwnOrder) (s : State), Still s.ctl → Takes s.ctl o.src o.tag o.payload → s.ctl.link.plantQueue = [] →
    s.ctl.link.table = [] → s.ctl.gate.held = [] → s.ctl.load.close = none → s.ctl.store.op = none →
    (s.ctl.panel.raw.push = true → s.ctl.panel.cond.push = true) →
    let tables := match latestSite s.ctl.site with | some i => i.tables | none => Tables.erased
    exec (.restart o) s = .next { s with ctl := { s.ctl with
      link := { answered o 56 1 0 [] s.ctl.link with
        urgentWaiters := [], internalWaiters := [], silent := [], reports := [] }
      gate := { s.ctl.gate with tx := tables.tx.map (fun p => (p.1, TxDyn.initial)) }
      matrix := { s.ctl.matrix with
        xps := [], queue := [], waiting := [], paths := []
        slots := s.ctl.matrix.slots.map (fun p => (p.1, { p.2 with stage := .releasingCoil })) }
      aerial := tables.ant.map (fun p => (p.1, AntDyn.initial p.2.kind))
      site := { s.ctl.site with work := tables, unsaved := false }
      store := { s.ctl.store with
        bankA := resetBank s.ctl.store.bankA, bankB := resetBank s.ctl.store.bankB, openBank := none, queue := []
        activation := [], window := none, opStart := 0, eraseJob := none, checked := false }
      load := Load.initial
      plan := { s.ctl.plan with
        events := [], scan := { time := 0, resume := none, left := [] }, fullLatch := false, watch := none }
      cu := s.ctl.cu.map (fun p => (p.1, restartedCtx p.2))
      panel := { s.ctl.panel with cond := s.ctl.panel.raw, edges := [] }
      start := { phase := .storeCheck, last := .restart, surveyAt := 0, heard := [], timeSet := false, retire := none } } }

/-! ## The Load Intake -/

/-- LOAD OPEN in RUNNING: without exactly a bank code and a count of 1..2048 it is refused BAD_RECORD, check 0; then
NOT_OPEN, PROTECTED, STORE_FAULT, BURST_ACTIVE or COMMITS_FULL, in this order; otherwise it is answered DONE with the
bank's next burst number, which becomes its highest, and the burst is open with nothing received, its check at all ones
and its idle timer running (R141). How the payload's octets lie is the model's reading (log entry 5). -/
def Obligations.LoadOpensABurst : Prop :=
  ∀ (o : OwnOrder) (s : State), Still s.ctl → Takes s.ctl o.src o.tag o.payload → s.ctl.start.phase = .running →
    let refused := fun (code : Nat) (detail : List Byte) =>
      (.next { s with ctl := { s.ctl with link := answered o 1 3 code detail s.ctl.link } } :
        Host.Outcome State Fault Refusal)
    (o.payload.length ≠ 3 → exec (.loadOpen o) s = refused 20 [0#8]) ∧
    (∀ b n1 n2, o.payload = [b, n1, n2] →
      (b ≠ 1#8 → b ≠ 2#8 → exec (.loadOpen o) s = refused 20 [0#8]) ∧
      (∀ bk, bankOfCode b.toNat = some bk →
        let r := bankRec s.ctl bk
        exec (.loadOpen o) s =
          if rd2 n1 n2 = 0 ∨ 2048 < rd2 n1 n2 then refused 20 [0#8]
          else if s.ctl.store.openBank ≠ some bk then refused 23 []
          else if r.header.state ≠ .filling then refused 25 []
          else if r.fault = true then refused 29 []
          else if s.ctl.load.state ≠ .none then refused 30 []
          else if 16 ≤ r.header.commits.length ∨ 255 ≤ r.highest then refused 31 []
          else .next { s with ctl := { s.ctl with
            link := answered o 1 1 0 [BitVec.ofNat 8 (r.highest + 1)] s.ctl.link
            store := withBank bk (fun r => { r with highest := r.highest + 1 }) s.ctl.store
            load := { state := .open_, bank := bk, number := r.highest + 1, opener := { station := o.src, tag := o.tag },
                      expected := rd2 n1 n2, received := 0, written := 0, check := 0xFFFF#16, firstError := none,
                      paused := false, told := false, flow := none, buffer := [], hand := .none,
                      idleFrom := some s.ctl.clock, close := none, commit := .none } } }))

/-- LOAD DATA of the opener of an open burst whose slot write is in hand: it is counted, fed into the running check and,
at 22 octets with fewer than 8 records held, buffered; holding 5 or more pauses a burst that is not paused, with a PAUSE
pending unless the sender was told so; at another length it becomes the error BAD_RECORD, with 8 held too (the model's choice, log
entry 38), and at 22 octets with 8 held OVERRUN, unless an error is kept. One from another station, or with no burst open,
changes nothing (R142, R143). The count goes up by one and stays in 0 to 65535 (R140): past that, one free value, which every
record of the burst draws, stands for it (log entry 24). -/
def Obligations.LoadDataIsCountedAndBuffered : Prop :=
  ∀ (o : OwnOrder) (s : State), Still s.ctl → Takes s.ctl o.src o.tag o.payload →
    ((s.ctl.load.state ≠ .open_ ∨ o.src ≠ s.ctl.load.opener.station) → exec (.loadData o) s = .next s) ∧
    (s.ctl.load.state = .open_ → o.src = s.ctl.load.opener.station → s.ctl.load.hand = .queued →
      let l := s.ctl.load
      let n := if l.received < 65535 then l.received + 1 else freeBelow 65536 s.ctl.free
      let counted := { l with
        received := n, check := crcFrom l.check o.payload
        idleFrom := l.idleFrom.map (fun _ => s.ctl.clock) }
      let becomes := fun (l : Load) =>
        (.next { s with ctl := { s.ctl with free := s.ctl.free + 1, load := l } } : Host.Outcome State Fault Refusal)
      let failed := fun (r : Reason) =>
        becomes (if l.firstError = none then
          { counted with firstError := some { reason := r, ordinal := n, check := 0 } } else counted)
      let held := l.buffer ++ [(n, o.payload)]
      n ≤ 65535 ∧
      (o.payload.length ≠ 22 → exec (.loadData o) s = failed .badRecord) ∧
      (o.payload.length = 22 → 8 ≤ l.buffer.length → exec (.loadData o) s = failed .overrun) ∧
      (o.payload.length = 22 → l.buffer.length < 8 →
        (l.paused = false → l.buffer.length < 4 → exec (.loadData o) s = becomes { counted with buffer := held }) ∧
        (l.paused = false → 4 ≤ l.buffer.length → exec (.loadData o) s = becomes { counted with
          buffer := held, paused := true, idleFrom := none, flow := if l.told then none else some .pause }) ∧
        (l.paused = true → 2 ≤ l.buffer.length → exec (.loadData o) s = becomes { counted with buffer := held })))

/-- LOAD CLOSE: of the opener of an open burst whose slot write is in hand, it puts the burst into CLOSING with the count
and check it carries, and its idle timer stops; with no burst it is refused NOT_OPEN, and for a CLOSING burst or from
another station BURST_ACTIVE; at another length BAD_RECORD, check 0 (R146). That the length is tested first is the model's
choice (log entry 38). How the payload's octets lie is its reading (log entry 5). -/
def Obligations.LoadCloseIsTaken : Prop :=
  ∀ (o : OwnOrder) (s : State), Still s.ctl → Takes s.ctl o.src o.tag o.payload →
    let refused := fun (code : Nat) (detail : List Byte) =>
      (.next { s with ctl := { s.ctl with link := answered o 3 3 code detail s.ctl.link } } :
        Host.Outcome State Fault Refusal)
    (o.payload.length ≠ 4 → exec (.loadClose o) s = refused 20 [0#8]) ∧
    (∀ n1 n2 k1 k2, o.payload = [n1, n2, k1, k2] →
      (s.ctl.load.state = .none → exec (.loadClose o) s = refused 23 []) ∧
      (s.ctl.load.state = .closing → exec (.loadClose o) s = refused 30 []) ∧
      (s.ctl.load.state = .open_ → o.src ≠ s.ctl.load.opener.station → exec (.loadClose o) s = refused 30 []) ∧
      (s.ctl.load.state = .open_ → o.src = s.ctl.load.opener.station → s.ctl.load.hand = .queued →
        exec (.loadClose o) s = .next { s with ctl := { s.ctl with
          link := { s.ctl.link with reserved := s.ctl.link.reserved + 1 }
          load := { s.ctl.load with
            state := .closing, idleFrom := none
            close := some { station := o.src, tag := o.tag, count := rd2 n1 n2, check := k1 ++ k2 } } } }))

/-- A LOAD frame to the controller with a sub-verb other than OPEN, DATA and CLOSE, PAUSE and RESUME among them, is refused
BAD_RECORD, check 0: its answer carries the sub-verb and nothing else changes, the Load Intake least of all. And a LOAD frame
to any other address is discarded, whatever its sub-verb (R150). -/
def Obligations.LoadBadSubverbIsRefused : Prop :=
  (∀ (verb : Nat) (o : OwnOrder) (s : State), Still s.ctl → Takes s.ctl o.src o.tag o.payload →
    verb ≠ 1 → verb ≠ 2 → verb ≠ 3 →
    exec (.loadBadSubverb verb o) s =
      .next { s with ctl := { s.ctl with link := answered o verb 3 20 [0#8] s.ctl.link } }) ∧
  (∀ (raw : List Byte) (f : Frame) (s : State), Still s.ctl → parseFrame raw = some f → f.kind = .load → f.dest ≠ 120 →
    exec (.opsFrameDiscard raw) s = .next s)
/-! ## Returning traffic -/

/-- A STATUS from a known station restores its answer state and sets its record (R19, R34): a transmitter's record takes
the carrier ON exactly when reported on without trip, with carrier-on outstanding cleared where no CARRIER_ON is under
way, and the reported tune state, frequency, power and local (R61); an antenna's record takes the bearing, or the steer
index, and the motion, and a job whose target it stands at ends (R93, R100); a sensor bit is written into the mirror, and
a crosspoint that no movement drives takes the state its mirror shows, or becomes STUCK with ALARM XP_STUCK at TRANSIT or
FAULT (R68, R69); and an auxiliary station's goes to no block. That a matrix STATUS has its count octet first is the model's
choice, and what a malformed payload does is not stated here (log entry 10); that a job ends within the 5 of R100, and not
within the bearing tolerance, is its reading (log entry 29). -/
def Obligations.StatusFramesSetTheRecords : Prop :=
  ∀ (f : PlantFrame) (s : State), Calm s.ctl →
    (∀ n st d r, stationClass s.ctl.site.work f.src = some .transmitter → txOfStation s.ctl.site.work f.src = some n →
      txStatic s.ctl n = some st → txDyn s.ctl n = some d → parseTxReport f.payload = some r →
      s.ctl.link.plantQueue = [] → (∀ e ∈ s.ctl.link.table, e.station ≠ st.station ∨ e.verb ≠ .carrierOn) →
      d.owner ≠ .operations →
      let on := r.carrierOn && !r.trip
      (on = true → unsupported s.ctl n = false) →
      exec (.transmitterStatus f) s = .next { s with ctl := { s.ctl with
        link := hearing f.src s.ctl.link
        gate := { s.ctl.gate with tx := (tset n
          { d with
            carrier := if on then .on else .off, outstanding := false, outRestore := none, tune := r.tune
            tuneRestore := none, freq := r.freq, power := r.power, reportedLocal := r.localControl
            interlockSent := on && d.interlockSent } s.ctl.gate.tx) } } }) ∧
    (∀ a st d r, stationClass s.ctl.site.work f.src = some .drive → antOfDrive s.ctl.site.work f.src = some a →
      antStatic s.ctl a = some st → antDyn s.ctl a = some d → parseDriveReport f.payload = some r →
      columnPaths s.ctl a = [] → (st.kind = .rotatable ∨ st.kind = .steerable) →
      let d' := if st.kind = .rotatable then
          { d with bearing := r.bearing.filter (fun b => decide (b < 3600)), motion := r.motion }
        else { d with
          steer := r.steer.filter (fun i => decide (1 ≤ i ∧ i ≤ (st.offsets.getD []).length)), motion := r.motion }
      (d.job = none → exec (.driveStatus f) s = .next { s with ctl := { s.ctl with
        link := hearing f.src s.ctl.link, aerial := tset a d' s.ctl.aerial } }) ∧
      (∀ j ref, d.job = some j → j.requester = .operations ref → standsAt d' j.target = true →
        exec (.driveStatus f) s = .next { s with ctl := { s.ctl with
          link := hearing f.src s.ctl.link, aerial := tset a { d' with job := none } s.ctl.aerial } })) ∧
    (∀ b v, stationClass s.ctl.site.work f.src = some .matrix → parseMatrixStatus f.payload = some [(b, v)] →
      coilBitInGeometry s.ctl.site.work b = true → s.ctl.matrix.slots = [] → s.ctl.matrix.paths = [] →
      s.ctl.link.reports.length < 32 →
      let row := xpRow (b / 2)
      let col := xpCol (b / 2)
      let x := xpAt s.ctl row col
      let x' := if b % 2 = 0 then { x with closedContact := if v then .made else .notMade }
        else { x with openContact := if v then .made else .notMade }
      let heard := { s.ctl with link := hearing f.src s.ctl.link }
      let becomes := fun (c : Ctl) => (.next { s with ctl := c } : Host.Outcome State Fault Refusal)
      (x' = x → exec (.matrixStatus f) s = becomes heard) ∧
      (x' ≠ x →
        ((x.state = .stuck ∨ x.state = .closing ∨ x.state = .opening) →
          exec (.matrixStatus f) s = becomes (setXp row col x' heard)) ∧
        (x.state ≠ .stuck → x.state ≠ .closing → x.state ≠ .opening →
          exec (.matrixStatus f) s = becomes (
            match x'.position with
            | .opened => setXp row col { x' with state := .opened } heard
            | .closed => setXp row col { x' with state := .closed } heard
            | .unknown => setXp row col x' heard
            | _ => setXp row col { x' with state := .stuck } { heard with
                link := withReport (reportNow s.ctl .xpStuck (.crosspoint row col) 0 0 none none) heard.link })))) ∧
    (stationClass s.ctl.site.work f.src = some .auxiliary →
      exec (.auxiliaryStatus f) s = .next { s with ctl := { s.ctl with link := hearing f.src s.ctl.link } })

/-- An ANSWER of a plant station that matches an order of an operations station ends its entry and is forwarded unchanged
(R30); from a transmitter, DONE to CARRIER_OFF records carrier OFF with nothing outstanding, DONE to POWER the value that the
matched order's frame carried, and REFUSED to TUNE restores the tune state (R62). A free value is drawn for a transmitter's answer. The draw is the
model's own (log entries 19 and 21). -/
def Obligations.TransmitterAnswersSetTheRecord : Prop :=
  ∀ (f : PlantFrame) (s : State) (e : Entry) (st tag n : Nat) (x : TxStatic) (d : TxDyn) (rest : List Byte), Calm s.ctl →
    stationClass s.ctl.site.work f.src = some .transmitter → antOfDrive s.ctl.site.work f.src = none →
    txOfStation s.ctl.site.work f.src = some n → txStatic s.ctl n = some x → txDyn s.ctl n = some d →
    s.ctl.link.table.find? (fun e => e.tag == f.tag && e.station == f.src && e.addr == f.dest) = some e →
    e.origin = .ops st tag → (∀ i k, e.verb ≠ .latchRead i k) → s.ctl.link.plantQueue = [] →
    (∀ e ∈ s.ctl.link.table, e.station ≠ x.station ∨ e.verb ≠ .carrierOn) → d.owner ≠ .operations →
    let becomes := fun (d' : TxDyn) =>
      (.next { s with ctl := { s.ctl with
        free := s.ctl.free + 1
        link := withForwarded e f s.ctl.link
        gate := { s.ctl.gate with tx := tset n d' s.ctl.gate.tx } } } : Host.Outcome State Fault Refusal)
    (f.verb = 4 → f.payload = 1#8 :: rest → exec (.transmitterAnswer f) s =
      becomes { d with carrier := .off, outstanding := false, outRestore := none, interlockSent := false }) ∧
    (interlockCondition s.ctl n = false →
      (∀ v, e.verb = .power v → f.verb = 2 → f.payload = 1#8 :: rest →
        exec (.transmitterAnswer f) s = becomes { d with power := some v }) ∧
      (∀ r, f.verb = 1 → f.payload = 3#8 :: rest → d.tuneRestore = some r → r.addr = f.dest → r.tag = f.tag →
        exec (.transmitterAnswer f) s = becomes { d with tune := r.value, tuneRestore := none }))

/-- Other ANSWERs of plant stations: a drive's, to the order of an OPERATIONS job that has been sent and has no other
outstanding, is forwarded and takes the job to ANSWERED, or on REFUSED ends it (R30, R99); the matrix station's DONE to the CLEAR of a slot's coil frees the
slot (R72); and an auxiliary station's that matches an operations order is forwarded, while one whose tag is not outstanding
is sent on to an operations address, without a place reserved before, or dropped where its tag is a part's or its destination
no operations address (R33). -/
def Obligations.OtherAnswersReachTheirOrigin : Prop :=
  ∀ (f : PlantFrame) (s : State) (rest : List Byte), Calm s.ctl →
    let found := s.ctl.link.table.find? (fun e => e.tag == f.tag && e.station == f.src && e.addr == f.dest)
    (∀ e st tag a d j, stationClass s.ctl.site.work f.src = some .drive → f.verb ≠ 6 → found = some e →
      e.origin = .ops st tag → antOfDrive s.ctl.site.work f.src = some a → antDyn s.ctl a = some d → d.job = some j →
      j.requester = .operations { station := st, tag := tag } → targetVerb j.target = some e.verb → j.stage = .sent →
      (∀ x ∈ dropFirst (fun y => decide (y = e)) s.ctl.link.table, x.station = e.station → x.origin = e.origin →
        (∀ b, x.verb ≠ .slew b) ∧ ∀ i, x.verb ≠ .steer i) →
      ((f.payload = 1#8 :: rest ∨ f.payload = 2#8 :: rest) →
        exec (.driveAnswer f) s = .next { s with ctl := { s.ctl with
          link := withForwarded e f s.ctl.link
          aerial := tset a { d with job := some { j with stage := .answered } } s.ctl.aerial } }) ∧
      (f.payload = 3#8 :: rest →
        exec (.driveAnswer f) s = .next { s with ctl := { s.ctl with
          link := withForwarded e f s.ctl.link
          aerial := tset a { d with job := none } s.ctl.aerial } })) ∧
    (∀ e slot v, stationClass s.ctl.site.work f.src = some .matrix → found = some e → e.origin = .mi (.clear slot) →
      e.verb = .latchClear (coilBit v.req) → s.ctl.matrix.slots = [(slot, v)] → v.stage = .releasingCoil →
      (xpAt s.ctl v.req.row v.req.col).movement = some slot → f.payload = 1#8 :: rest →
      exec (.matrixAnswer f) s = .next { s with ctl := (
        setXp v.req.row v.req.col { xpAt s.ctl v.req.row v.req.col with movement := none } { s.ctl with
          link := { hearing f.src s.ctl.link with table := dropFirst (fun x => decide (x = e)) s.ctl.link.table }
          matrix := { s.ctl.matrix with slots := [] } }) }) ∧
    (stationClass s.ctl.site.work f.src = some .auxiliary →
      (f.payload = 1#8 :: rest ∨ f.payload = 2#8 :: rest ∨ f.payload = 3#8 :: rest) →
      (∀ e st tag, found = some e → e.origin = .ops st tag → (∀ i k, e.verb ≠ .latchRead i k) →
        exec (.auxiliaryAnswer f) s = .next { s with ctl := { s.ctl with link := withForwarded e f s.ctl.link } }) ∧
      (found = none →
        (f.tag < 128 → 121 ≤ f.dest → f.dest ≤ 126 → s.ctl.link.reserved + s.ctl.link.answers.length < 64 →
          exec (.auxiliaryAnswer f) s = .next { s with ctl := { s.ctl with
            link := withAnswer (forwarded f) (hearing f.src s.ctl.link) } }) ∧
        ((128 ≤ f.tag ∨ f.dest < 121 ∨ 126 < f.dest) →
          exec (.auxiliaryAnswer f) s = .next { s with ctl := { s.ctl with link := hearing f.src s.ctl.link } })))

/-- The READ of an OPERATIONS path's proof is answered DONE with its two bits as the mirror already shows them: with every
condition of R81 met, the path becomes PROVEN with its reference cleared, and NOTICE PATH_RESULT with detail 0 names that
reference (R81, R82). The same proof of the path of a START context in PROVING takes the context to RAISING: its FEED is
offered, and its deadline is Tu + 10 s away (R181, R182). -/
def Obligations.AProofMakesThePathProven : Prop :=
  ∀ (f : PlantFrame) (s : State) (e : Entry) (p : Path) (b1 b2 o : Byte), Quiet s.ctl →
    stationClass s.ctl.site.work f.src = some .matrix → s.ctl.matrix.paths = [p] →
    s.ctl.link.table.find? (fun e => e.tag == f.tag && e.station == f.src && e.addr == f.dest) = some e →
    e.origin = .mi (.proof p.pid) → e.verb = .latchRead (xpBase p.row p.col) 2 →
    p.proof = .inProgress (some e.tag) → p.state ≠ .proven →
    f.payload = [1#8, 0#8, b1, b2, 2#8, o] → rd2 b1 b2 = xpBase p.row p.col → octetBit [o] 0 = true → octetBit [o] 1 = false →
    (xpAt s.ctl p.row p.col).closedContact = .made → (xpAt s.ctl p.row p.col).openContact = .notMade →
    (∀ q ∈ rowColOthers s.ctl.site.work p.row p.col,
      (xpAt s.ctl q.1 q.2).state ≠ .stuck ∧ (xpAt s.ctl q.1 q.2).position = .opened) →
    lockedOut s.ctl p.ant = false → antMotion s.ctl p.ant = .still → positionKnown s.ctl p.ant = true →
    s.ctl.link.plantQueue = [] → s.ctl.link.reports.length < 32 →
    let heard := { hearing f.src s.ctl.link with table := dropFirst (fun x => decide (x = e)) s.ctl.link.table }
    let proven := { s.ctl with
      matrix := { s.ctl.matrix with paths := [{ p with
        state := .proven, since := s.ctl.clock, stage := none, proof := .none, reference := none }] } }
    (p.owner = .operations → (∀ c ∈ s.ctl.cu, c.2.busy = false) →
      exec (.matrixAnswer f) s = .next { s with ctl := { proven with
        link := (withReport (reportNow s.ctl .pathResult (.pair p.tx p.ant) 0 0 none p.reference) heard) } }) ∧
    (∀ n x st d, p.owner = .ctx n → s.ctl.cu = [(n, x)] → x.busy = true → x.isEnd = false → x.phase = .proving →
      x.tx = p.tx → 1 ≤ x.tFeed → x.tFeed ≤ 32 → txStatic s.ctl x.tx = some st → txDyn s.ctl x.tx = some d →
      d.owner = .ctx n → localFlag s.ctl x.tx d = false → stationClass s.ctl.site.work st.station = some .transmitter →
      txOfStation s.ctl.site.work st.station = some x.tx →
      exec (.matrixAnswer f) s = .next { s with ctl := { proven with
        link := (withOwn { dest := st.station, verb := .feed x.tFeed, cls := .internal,
                           origin := .ctx n { occ := x.occ, isEnd := false } } heard)
        cu := [(n, { x with
          phase := .raising, deadline := some (s.ctl.clock + (st.tu + 10) * 1000), raised := false })] } })

/-- The plant transmitter finishes a frame: the entry's answer timer starts, and the plant port takes the oldest frame of
the highest class, URGENT before INTERNAL before PASSED. It is sent, with an entry of the table from then on, when fewer
than 10 entries are taken and, for a frame that is not URGENT, fewer than 8 by such frames; otherwise it stays where it is
(R29). A POWER sent leaves its value for its answer (R62), and a SET of the matrix starts its movement's limit (R70). That
a frame leaves the plant port when the port takes it, and that its timer starts when its transmission ends, is the model's
reading (log entry 8); that the command changes nothing while nothing is being sent, its choice (log entry 4). -/
def Obligations.PlantTransmitterFinishes : Prop :=
  ∀ s : State, Still s.ctl →
    (s.ctl.link.plantTx = none → exec .plantFrameSent s = .next s) ∧
    (∀ q, s.ctl.link.plantTx = some q →
      let table := mapFirst (fun e => e.sent.isNone) (fun e => { e with sent := some s.ctl.clock }) s.ctl.link.table
      let port := { s.ctl.link with plantTx := none, table := table }
      let becomes := fun (c : Ctl) => (.next { s with ctl := c } : Host.Outcome State Fault Refusal)
      let rank : Cls → Nat := fun
        | .urgent => 2
        | .internal => 1
        | .passed => 0
      (s.ctl.link.plantQueue = [] → exec .plantFrameSent s = becomes { s.ctl with link := port }) ∧
      (∀ before x behind, s.ctl.link.plantQueue = before ++ x :: behind →
        (∀ y ∈ before, rank y.frame.cls < rank x.frame.cls) → (∀ y ∈ behind, rank y.frame.cls ≤ rank x.frame.cls) →
        let room := table.length < 10 ∧
          (x.frame.cls = .urgent ∨ (table.filter (fun e => decide (e.cls ≠ .urgent))).length < 8)
        let sent := { s.ctl with link := { port with
          plantTx := some x
          plantQueue := before ++ behind
          table := table ++ [{ tag := x.tag, station := x.frame.dest, addr := originAddr x.frame.origin,
                               origin := x.frame.origin, verb := x.frame.verb, cls := x.frame.cls, sent := none }] } }
        (¬ room → exec .plantFrameSent s = becomes { s.ctl with link := port }) ∧
        (room → s.ctl.link.urgentWaiters = [] → s.ctl.link.internalWaiters = [] →
          ((x.frame.verb = .carrierOn ∨ x.frame.verb = .carrierOff ∨ x.frame.verb = .query ∨ x.frame.verb = .stop ∨
              (∃ n, x.frame.verb = .feed n) ∨ (∃ b, x.frame.verb = .latchClear b) ∨ (∃ b n, x.frame.verb = .latchRead b n) ∨
              (∃ k n l, x.frame.verb = .other k n l) ∨
              (∃ n st tag, x.frame.verb = .tune n ∧ x.frame.origin = .ops st tag)) →
            exec .plantFrameSent s = becomes sent) ∧
          (∀ p, x.frame.verb = .power p →
            let addr := originAddr x.frame.origin
            exec .plantFrameSent s = becomes { sent with gate := { s.ctl.gate with
              powerSent := { station := x.frame.dest, addr := addr, tag := x.tag, value := p } ::
                s.ctl.gate.powerSent.filter (fun r =>
                  decide (¬ (r.station = x.frame.dest ∧ r.addr = addr ∧ r.tag = x.tag))) } }) ∧
          (∀ b slot, x.frame.verb = .latchSet b → x.frame.origin = .mi (.set slot) →
            exec .plantFrameSent s = becomes { sent with matrix := { s.ctl.matrix with
              slots := tmod slot (fun v => { v with started := some s.ctl.clock }) s.ctl.matrix.slots } }))))

/-- An answer timer, a hold and a burst run out. Two seconds after an order of an operations station to a drive or an
auxiliary station left the port, its entry ends, the order is answered NO_ANSWER, and a station not silent before becomes
silent with ALARM STATION_NO_ANSWER (R31, R32); the job that a SLEW or STEER opened, if still there, ends with it (R99, R102).
The same end of an order of an operations station to a
transmitter leaves the power setting unknown after a POWER, the tune state unknown after a TUNE, and the carrier unknown
with nothing outstanding after a CARRIER_ON when no other is under way; after another verb the record stands (R62); an
unsupported carrier is the interlock's, and is not stated here (R64). An address that the tables no longer know becomes silent
as a known one does: the model's choice (log entry 10). Twenty seconds after the first held frame was held, it leaves the
hold queue, refused PATH_UNPROVEN or PLANT_BUSY by what it waits for (R59). Sixty seconds after its idle timer started, an
open burst is abandoned: its queued slot write leaves the store queue, and NOTICE LOAD_RESULT names the first error's
reason, or IDLE_TIMEOUT, and the records received (R145, R149). With none running nothing happens. The command of a timer
brings the clock to the timer's end: the model's choice (log entry 2). That nothing happens with none running is its
choice too (log entries 4 and 9). -/
def Obligations.WaitsRunOut : Prop :=
  ∀ s : State, Still s.ctl →
    ((∀ e ∈ s.ctl.link.table, e.sent = none) → exec .answerTimeout s = .next s) ∧
    (∀ e t st tag, s.ctl.link.table.find? (fun e => e.sent.isSome) = some e → e.sent = some t → e.origin = .ops st tag →
      s.ctl.link.plantTx.isSome = true → s.ctl.link.reports.length < 32 →
      let ended := { s.ctl.link with
        table := dropFirst (fun x => decide (x = e)) s.ctl.link.table
        silent := if e.station ∈ s.ctl.link.silent then s.ctl.link.silent else nins e.station s.ctl.link.silent
        reserved := s.ctl.link.reserved - 1 }
      let unanswered := { s.ctl with
        clock := max s.ctl.clock (t + 2000)
        link := withAnswer (ownAnswer st tag e.verb.code 3 17 []) (
          if e.station ∈ s.ctl.link.silent then ended
          else withReport (reportNow s.ctl .stationNoAnswer (.station e.station) 0 0 none none) ended) }
      (txOfStation s.ctl.site.work e.station = none →
        ((∀ b, e.verb ≠ .slew b) → (∀ i, e.verb ≠ .steer i) → exec .answerTimeout s = .next { s with ctl := unanswered }) ∧
        (∀ a y, antOfDrive s.ctl.site.work e.station = some a → antDyn s.ctl a = some y →
          (y.job = none → exec .answerTimeout s = .next { s with ctl := unanswered }) ∧
          (∀ j, y.job = some j → j.requester = .operations { station := st, tag := tag } → j.stage = .sent →
            targetVerb j.target = some e.verb →
            (∀ z ∈ dropFirst (fun z => decide (z = e)) s.ctl.link.table, z.station = e.station → z.origin = e.origin →
              (∀ b, z.verb ≠ .slew b) ∧ ∀ i, z.verb ≠ .steer i) →
            exec .answerTimeout s = .next { s with ctl := { unanswered with
              aerial := tmod a (fun d => { d with job := none }) s.ctl.aerial } }))) ∧
      (∀ n x d, Calm s.ctl → txOfStation s.ctl.site.work e.station = some n → txStatic s.ctl n = some x →
        txDyn s.ctl n = some d → d.owner ≠ .operations → s.ctl.link.plantQueue = [] →
        let recorded := fun (d' : TxDyn) => (.next { s with ctl := { unanswered with
          gate := { s.ctl.gate with tx := tset n d' s.ctl.gate.tx } } } : Host.Outcome State Fault Refusal)
        (interlockCondition s.ctl n = false →
          (∀ p, e.verb = .power p → exec .answerTimeout s = recorded { d with power := none }) ∧
          (∀ f, e.verb = .tune f → exec .answerTimeout s = recorded { d with tune := .unknown, tuneRestore := none }) ∧
          ((e.verb = .carrierOff ∨ e.verb = .query ∨ ∃ k, e.verb = .feed k) → exec .answerTimeout s = recorded d)) ∧
        (e.verb = .carrierOn → unsupported s.ctl n = false →
          (∀ y ∈ dropFirst (fun y => decide (y = e)) s.ctl.link.table, y.station ≠ e.station ∨ y.verb ≠ .carrierOn) →
          exec .answerTimeout s = recorded { d with carrier := .unknown, outstanding := false, outRestore := none }))) ∧
    (s.ctl.gate.held = [] → exec .holdExpiry s = .next s) ∧
    (∀ h rest st tag, s.ctl.gate.held = h :: rest → h.frame.origin = .ops st tag →
      exec .holdExpiry s = .next { s with ctl := { s.ctl with
        clock := max s.ctl.clock (h.since + 20000)
        link := (withAnswer (ownAnswer st tag h.frame.verb.code 3 (match h.waits with | .path => 7 | .power => 15) [])
          { s.ctl.link with reserved := s.ctl.link.reserved - 1 })
        gate := { s.ctl.gate with held := rest } } }) ∧
    (s.ctl.load.idleFrom = none → exec .loadIdleTimeout s = .next s) ∧
    (∀ t, s.ctl.load.idleFrom = some t → s.ctl.load.state ≠ .none → s.ctl.load.commit = .none →
      s.ctl.load.close = none → s.ctl.store.op.isSome = true → s.ctl.store.eraseJob = none →
      s.ctl.link.reports.length < 32 →
      exec .loadIdleTimeout s = .next { s with ctl := { s.ctl with
        clock := max s.ctl.clock (t + 60000)
        link := (withReport (reportNow s.ctl .loadResult (.bank s.ctl.load.bank s.ctl.load.number)
          (match s.ctl.load.firstError with | some e => e.reason.code | none => 32) 0 (some s.ctl.load.received) none)
          s.ctl.link)
        store := { s.ctl.store with
          queue := s.ctl.store.queue.filter (fun r => !isBurstWrite s.ctl.load.bank s.ctl.load.number r) }
        load := { s.ctl.load with state := .none, buffer := [], flow := none, hand := .none, idleFrom := none } } })

/-! ## Timers of movements and paths -/

/-- The timers of movements and paths. The limit of a DRIVING movement expires 3 x Sx after its SET left: the crosspoint
is STUCK, with ALARM XP_STUCK, and the slot goes on to release its coil with a CLEAR (R71). The SETTING path whose movement
it was becomes UNPROVEN, for OPERATIONS with NOTICE PATH_RESULT, detail XP_STUCK (R80), and a RELEASING one waits as it is
(R85). The settle of 0.5 s ends: a
SETTING path's stage becomes CLOSED, and of an OPERATIONS path the proof begins with the READ of its two sensor bits (R79,
R81). An OPERATIONS path still WAITING 60 s after its since fails with the reason found: its close request, which stands in the
movement queue while no slot is free or waits for a place in a full one, is withdrawn, and with no movement granted and its
crosspoint OPEN its record is removed (R80, R88); a path set by PATH_SET that an END changeover made IDLE goes on so too
(R87, R185; the model's reading, log entry 34). The command of a timer brings the clock to the timer's end: the
model's choice (log entry 2). -/
def Obligations.MovementsAndPathsRunOut : Prop :=
  (∀ s : State, Calm s.ctl →
    (∀ slot v t st, tget slot s.ctl.matrix.slots = some v → v.stage = .driving → v.started = some t →
      matrixStation s.ctl.site.work = some st → stationClass s.ctl.site.work st = some .matrix → coilBit v.req ≤ 3839 →
      s.ctl.link.plantQueue.length < 32 → s.ctl.link.reports.length < 31 →
      ∀ p sx, pathOf s.ctl v.req.pid = some p → p.row = v.req.row → p.col = v.req.col →
      (∀ q ∈ s.ctl.matrix.paths, q.pid ≠ p.pid → q.row ≠ p.row ∨ q.col ≠ p.col) → v.limit = 3 * sx * 1000 →
      let now := max s.ctl.clock (t + 3 * sx * 1000)
      let becomes := fun (told : Link → Link) (paths : List Path) =>
        (.next { s with ctl := (
          setXp v.req.row v.req.col { xpAt s.ctl v.req.row v.req.col with state := .stuck } { s.ctl with
            clock := now
            link := (withOwn
              { dest := st, verb := .latchClear (coilBit v.req), cls := .internal, origin := .mi (.clear slot) }
              (told (withReport (reportNow s.ctl .xpStuck (.crosspoint v.req.row v.req.col) 0 0 none none) s.ctl.link)))
            matrix := { s.ctl.matrix with
              slots := tset slot { v with stage := .releasingCoil } s.ctl.matrix.slots, paths := paths } }) } :
          Host.Outcome State Fault Refusal)
      (v.req.coil = .closeCoil → p.state = .setting → p.stage = some .moving → p.granted = true → p.owner = .operations →
        exec (.movementLimitExpiry slot) s =
          becomes (withReport (reportNow s.ctl .pathResult (.pair p.tx p.ant) 18 0 none p.reference))
            (s.ctl.matrix.paths.map (fun q => if q.pid = p.pid then
              { p with state := .unproven, since := now, stage := none, proof := .none, reference := none } else q))) ∧
      (v.req.coil = .openCoil → p.state = .releasing →
        exec (.movementLimitExpiry slot) s = becomes id s.ctl.matrix.paths)) ∧
    (∀ n p, claimPath s.ctl n = some p → p.state = .setting →
      let manual := p.owner = .operations ∨ (p.owner = .idle ∧ p.reference.isSome = true)
      (p.stage = some .settling →
        (p.owner = .idle → p.reference = none → exec (.pathSettleEnd n) s = .next { s with ctl := { s.ctl with
          clock := max s.ctl.clock (p.settleFrom + 500)
          matrix := { s.ctl.matrix with
            paths := s.ctl.matrix.paths.map (fun q => if q.pid = p.pid then { p with stage := some .closed } else q) } } }) ∧
        (∀ st, manual → (xpAt s.ctl p.row p.col).state = .closed → matrixStation s.ctl.site.work = some st →
          stationClass s.ctl.site.work st = some .matrix → xpBase p.row p.col ≤ 3839 →
          s.ctl.link.plantQueue.length < 32 →
          exec (.pathSettleEnd n) s = .next { s with ctl := { s.ctl with
            clock := max s.ctl.clock (p.settleFrom + 500)
            link := (withOwn { dest := st, verb := .latchRead (xpBase p.row p.col) 2, cls := .internal,
                               origin := .mi (.proof p.pid) } s.ctl.link)
            matrix := { s.ctl.matrix with
              paths := (s.ctl.matrix.paths.map (fun q => if q.pid = p.pid then
                { p with stage := some .closed, proof := .inProgress (some (nextTag s.ctl.link)) } else q)) } } })))) ∧
  (∀ (s : State) (n : Nat) (p : Path),
    Calm { s.ctl with matrix := { s.ctl.matrix with queue := [], waiting := [] } } → claimPath s.ctl n = some p →
    p.state = .setting → p.stage = some .waiting → (p.owner = .operations ∨ (p.owner = .idle ∧ p.reference.isSome = true)) →
    p.granted = false → (xpAt s.ctl p.row p.col).state = .opened → txLive s.ctl p.tx = false →
    s.ctl.link.reports.length < 32 →
    let others := fun (l : List MoveReq) => l.filter (fun r => decide (r.pid ≠ p.pid))
    ((∀ k ∈ [1, 2, 3, 4], (tget k s.ctl.matrix.slots).isSome = true) ∨
      (s.ctl.matrix.waiting = [] ∧ others s.ctl.matrix.queue = [])) →
    (s.ctl.matrix.waiting = [] ∨ (32 ≤ s.ctl.matrix.queue.length ∧ ∀ r ∈ s.ctl.matrix.queue, r.pid ≠ p.pid)) →
    exec (.operationsPathLimit n) s = .next { s with ctl := { s.ctl with
      clock := max s.ctl.clock (p.since + 60000)
      link := (withReport (reportNow s.ctl .pathResult (.pair p.tx p.ant)
        (if stuckInRowOrCol s.ctl p.row p.col = true then 18 else if lockedOut s.ctl p.ant = true then 9
         else if rowOff s.ctl p.row = true then 15 else 4) 0 none p.reference) s.ctl.link)
      matrix := { s.ctl.matrix with
        queue := others s.ctl.matrix.queue, waiting := others s.ctl.matrix.waiting
        paths := s.ctl.matrix.paths.filter (fun q => q.pid != p.pid) } } })

/-! ## The panel -/

/-- The panel inputs (R192): an input that changes level starts its 50 ms afresh, one that returns to its conditioned
level has nothing left to take. A level held for 50 ms becomes the conditioned
one, from which the LOCAL flag (R63), the lockout (R90) and the MAINTENANCE key (R126) follow; a PROVEN path to an antenna
then locked out becomes UNPROVEN (R83, R90), and where its transmitter is live the interlock acts: an URGENT CARRIER_OFF is
offered, ALARM INTERLOCK_OFF raised with detail LOCKED_OUT, the interlock state is SENT and an occurrence it runs is cleared
(R64, R65, R66). The push conditioned on brings the hall stop into force with ALARM HALL_STOP,
or adds PUSH to its sources; conditioned off it leaves the stop as it is (R194, R195). How an edge and a conditioned
change are commanded is the model's choice (log entries 2 and 33); that an edge to the level the input already has, or for an
input the panel does not have, changes nothing is its choice too (log entry 4). -/
def Obligations.PanelInputsAreConditioned : Prop :=
  (∀ (i : PanelInput) (level : Bool) (s : State), Still s.ctl →
    ((s.ctl.panel.raw.get i = level ∨ inputExists i = false) → exec (.panelInputEdge i level) s = .next s) ∧
    (s.ctl.panel.raw.get i ≠ level → inputExists i = true →
      let others := s.ctl.panel.edges.filter (fun e => decide (e.1 ≠ i))
      exec (.panelInputEdge i level) s = .next { s with ctl := { s.ctl with
        panel := { s.ctl.panel with
          raw := s.ctl.panel.raw.set i level
          edges := if s.ctl.panel.cond.get i = level then others else others ++ [(i, s.ctl.clock)] } } })) ∧
  (∀ (i : PanelInput) (t : Millis) (s : State), Calm s.ctl → PanelSound s.ctl.panel → (i, t) ∈ s.ctl.panel.edges →
    let taken := { s.ctl with clock := max s.ctl.clock (t + 50), panel := levelTaken i s.ctl.panel }
    (∀ n, i = .localKey n → (∀ q ∈ s.ctl.link.plantQueue, q.frame.verb ≠ .carrierOn) →
      exec (.localKeyChange n) s = .next { s with ctl := taken }) ∧
    (∀ n, i = .lockout n → s.ctl.panel.raw.get i = true →
      (columnPaths s.ctl n = [] → exec (.lockoutOn n) s = .next { s with ctl := taken }) ∧
      (∀ p, s.ctl.matrix.paths = [p] → p.ant = n → p.state = .proven → txLive s.ctl p.tx = false → p.owner = .operations →
        exec (.lockoutOn n) s = .next { s with ctl := { taken with
          matrix := { s.ctl.matrix with paths := [{ p with state := .unproven, since := taken.clock }] } } }) ∧
      (∀ p st d, s.ctl.matrix.paths = [p] → p.ant = n → p.state = .proven → txStatic s.ctl p.tx = some st →
        txDyn s.ctl p.tx = some d → d.live = true → d.interlockSent = false →
        stationClass s.ctl.site.work st.station = some .transmitter → txOfStation s.ctl.site.work st.station = some p.tx →
        (∀ q ∈ s.ctl.link.plantQueue, q.frame.verb ≠ .carrierOn) → s.ctl.link.plantQueue.length < 32 →
        s.ctl.link.reports.length < 32 →
        exec (.lockoutOn n) s = .next { s with ctl := { taken with
          link := withReport (reportNow s.ctl .interlockOff (.transmitter p.tx) 9 0 none none) (withOwn
            { dest := st.station, verb := .carrierOff, cls := .urgent, origin := .gate .interlock } s.ctl.link)
          gate := { s.ctl.gate with
            tx := tset p.tx { d with running := none, interlockSent := true } s.ctl.gate.tx }
          matrix := { s.ctl.matrix with paths := [{ p with state := .unproven, since := taken.clock }] } } })) ∧
    (∀ n, i = .lockout n → s.ctl.panel.raw.get i = false → exec (.lockoutOff n) s = .next { s with ctl := taken }) ∧
    (i = .maintenance → exec .maintenanceKeyChange s = .next { s with ctl := taken }) ∧
    (i = .push → s.ctl.panel.raw.get i = true → (∀ n d, txDyn s.ctl n = some d → d.live = false ∧ d.running = none) →
      s.ctl.link.reports.length < 32 →
      exec .hallStopPushOn s = .next { s with ctl := { taken with
        link := withReport (reportNow s.ctl .hallStop .none 0 0 none none) s.ctl.link
        hall := { inForce := true, sources := [.push] } } })) ∧
  (∀ (t : Millis) (s : State), Still s.ctl → PanelSound s.ctl.panel → (.push, t) ∈ s.ctl.panel.edges →
    let taken := { s.ctl with clock := max s.ctl.clock (t + 50), panel := levelTaken .push s.ctl.panel }
    (s.ctl.panel.raw.push = true → s.ctl.hall.inForce = true →
      exec .hallStopPushOn s = .next { s with ctl := { taken with
        hall := { s.ctl.hall with sources := if .push ∈ s.ctl.hall.sources then s.ctl.hall.sources
                                             else s.ctl.hall.sources ++ [.push] } } }) ∧
    (s.ctl.panel.raw.push = false → exec .hallStopPushOff s = .next { s with ctl := taken }))

/-! ## The store engine -/

/-- Operations of the store end well, each at its nominal time, and the engine finds no further work. An erase window ends
after 2 s, its request an ordinary one (R132). A slot write leaves the slot WRITTEN and an ERASED page IN_USE, and a void
leaves it VOID, each with NOTICE STORE_DONE (R118, R129, R130); a burst's slot write counts as written (R144). The last
page erase of a PAGE_ERASE leaves the page ERASED and ends it (R133). The header write of a creation makes the bank
FILLING with its season and epoch (R116, R134), and that of a seal makes it STANDBY and sets the activation watch (R135).
A site save makes the saved copy (R14). Which image the first header write takes is the model's choice (log entry 17). The
command of a timer brings the clock to the timer's end: the model's choice (log entry 2). -/
def Obligations.StoreOperationsEnd : Prop :=
  ∀ s : State, Still s.ctl →
    let now := fun (ms : Nat) => max s.ctl.clock (s.ctl.store.opStart + ms)
    let done := fun (subject : Subject) (ref : Ref) =>
      withReport (reportNow s.ctl .storeDone subject 0 0 none (some ref)) s.ctl.link
    (∀ t bk pages refs, s.ctl.store.window = some t → s.ctl.store.op.isSome = true →
      s.ctl.store.queue = [.erase bk pages refs true] →
      exec .eraseWindowExpiry s = .next { s with ctl := { s.ctl with
        clock := max s.ctl.clock (t + 2000)
        store := { s.ctl.store with window := none, queue := [.erase bk pages refs false] } } }) ∧
    (EngineIdle s.ctl.store → s.ctl.link.reports.length < 32 →
      (∀ bk k e ref, s.ctl.store.op = some (.slotWrite bk k e 0 (some ref)) →
        (bankRec s.ctl bk).header.state ≠ .active →
        exec .slotWriteDone s = .next { s with ctl := { s.ctl with
          clock := now 20
          link := done (.entry bk e.id) ref
          store := (withBank bk (fun r => { r with
            slots := (tset k { content := .record e, burst := 0, written := true, voidMark := false, workVoid := false }
              r.slots)
            pages := (if (pageAt r (pageOfKey k)).cond = .erased then
                tput Page.initial (pageOfKey k) { pageAt r (pageOfKey k) with cond := .inUse } r.pages
              else r.pages) }) (withoutOp s.ctl.store)) } }) ∧
      (∀ bk k e n m p, s.ctl.store.op = some (.slotWrite bk k e n none) → s.ctl.load.state = .open_ →
        s.ctl.load.bank = bk → s.ctl.load.number = n → s.ctl.load.hand = .queued → s.ctl.load.buffer = [(m, p)] →
        s.ctl.load.paused = false →
        exec .slotWriteDone s = .next { s with ctl := { s.ctl with
          clock := now 20
          load := { s.ctl.load with written := s.ctl.load.written + 1, hand := .none, buffer := [] }
          store := (withBank bk (fun r => { r with
            slots := (tset k { content := .record e, burst := n, written := true, voidMark := false, workVoid := false }
              r.slots)
            pages := (if (pageAt r (pageOfKey k)).cond = .erased then
                tput Page.initial (pageOfKey k) { pageAt r (pageOfKey k) with cond := .inUse } r.pages
              else r.pages) }) (withoutOp s.ctl.store)) } }) ∧
      (∀ bk k id ref x, s.ctl.store.op = some (.void bk k id ref) → (bankRec s.ctl bk).header.state ≠ .active →
        tget k (bankRec s.ctl bk).slots = some x →
        exec .voidDone s = .next { s with ctl := { s.ctl with
          clock := now 20
          link := done (.entry bk id) ref
          store := (withBank bk (fun r => { r with slots := tset k { x with voidMark := true, workVoid := true } r.slots })
            (withoutOp s.ctl.store)) } }) ∧
      (∀ bk season epoch ref, s.ctl.store.op = some (.header bk (.create season epoch) (some ref)) →
        let h : Header := { season := some season, epoch := some epoch, state := .filling, commits := [] }
        exec .headerWriteDone s = .next { s with ctl := { s.ctl with
          clock := now 20
          link := done (.bank bk season) ref
          store := (withBank bk (fun r => { programHeader h r with header := h, change := .none, highest := 0 })
            (withoutOp s.ctl.store)) } }) ∧
      (∀ bk ref, s.ctl.store.op = some (.header bk .seal (some ref)) → s.ctl.plan.time = none →
        let h := { (bankRec s.ctl bk).header with state := .standby }
        exec .headerWriteDone s = .next { s with ctl := { s.ctl with
          clock := now 20
          link := done (.bank bk (h.season.getD 0)) ref
          store := (withBank bk (fun r => { programHeader h r with header := h, change := .none }) (withoutOp s.ctl.store))
          plan := { s.ctl.plan with watch := h.epoch } } }) ∧
      (∀ second t number ref, s.ctl.store.op = some (.siteSave second t number ref) →
        let i : SiteImage := { tables := t, saveNumber := number }
        exec .siteSaveDone s = .next { s with ctl := { s.ctl with
          clock := now 2000
          link := done .siteArea ref
          store := withoutOp s.ctl.store
          site := if second then { s.ctl.site with image2 := some i } else { s.ctl.site with image1 := some i } } })) ∧
    (∀ bk page j ref, s.ctl.store.op = some (.erasePage bk page) → s.ctl.store.eraseJob = some j → j.bank = bk →
      j.isClear = false → j.pages = [page] → j.refs = [ref] → s.ctl.store.queue = [] → s.ctl.store.activation = [] →
      s.ctl.link.reports.length < 32 →
      exec .pageErasePageDone s = .next { s with ctl := { s.ctl with
        clock := now 1500
        link := done (.bank bk ((bankRec s.ctl bk).header.season.getD 0)) ref
        store := (withBank bk (fun r => { r with
          slots := r.slots.filter (fun p => pageOfKey p.1 != page)
          pages := (tput Page.initial page
            { cond := .erased, failures := (pageAt r page).failures, eraseMark := true, allVoid := false } r.pages) })
          { withoutOp s.ctl.store with eraseJob := none }) } })

/-- Operations of the store exceed their limits, 200 ms for a slot write or a header write and 8 s for a site save: the
slot is spoiled, its content and burst number free values (log entry 17), and its page FAILED with one failure more; the
header's image is spoiled and its change no longer pending; either raises the bank's fault flag and ALARM STORE_FAILED with STORE_FAULT (R123); and a
save leaves its changes unsaved, with ALARM STORE_FAILED whose detail is a free value (R14, R15; log entry 23). Which image
the first header write spoils is the model's choice (log entry 17). The
command of a timer brings the clock to the timer's end: the model's choice (log entry 2). -/
def Obligations.StoreLimitsExpire : Prop :=
  ∀ s : State, Still s.ctl → EngineIdle s.ctl.store → s.ctl.link.reports.length < 32 →
    let now := fun (ms : Nat) => max s.ctl.clock (s.ctl.store.opStart + ms)
    let failed := fun (subject : Subject) (detail : Nat) (ref : Ref) =>
      withReport (reportNow s.ctl .storeFailed subject detail 0 none (some ref)) s.ctl.link
    (∀ bk k e ref, s.ctl.store.op = some (.slotWrite bk k e 0 (some ref)) →
      exec .storeLimitExpiry s = .next { s with ctl := { s.ctl with
        clock := now 200
        free := s.ctl.free + 23
        link := failed (.entry bk e.id) 29 ref
        store := (withBank bk (fun r => { r with
          fault := true
          slots := (tset k
            { content := .garbled s.ctl.free, burst := spoiledBurst (s.ctl.free + 22), written := false, voidMark := false,
              workVoid := true } r.slots)
          pages := (tput Page.initial (pageOfKey k) { pageAt r (pageOfKey k) with
            cond := .failed, failures := min 2 ((pageAt r (pageOfKey k)).failures + 1) } r.pages) })
          (withoutOp s.ctl.store)) } }) ∧
    (∀ bk ref, s.ctl.store.op = some (.header bk .seal (some ref)) →
      exec .storeLimitExpiry s = .next { s with ctl := { s.ctl with
        clock := now 200
        link := failed (.bank bk ((bankRec s.ctl bk).header.season.getD 0)) 29 ref
        store := withBank bk (fun r => { spoilHeader r with fault := true, change := .none }) (withoutOp s.ctl.store) } }) ∧
    (∀ second t number ref, s.ctl.store.op = some (.siteSave second t number ref) →
      exec .siteSaveLimitExpiry s = .next { s with ctl := { s.ctl with
        clock := now 8000
        free := s.ctl.free + 1
        link := failed .siteArea (freeBelow 256 s.ctl.free) ref
        store := withoutOp s.ctl.store
        site := { s.ctl.site with unsaved := true } } })


/-! ## Positions and lead times -/

/-- The bearing of an entry for a STEERABLE antenna (R95): index i of its offsets looks at (boresight + offset + 3600) mod
3600; a bearing maps to index i exactly when no index looks nearer to it, no lower one as near, and index i looks within the
bearing tolerance; otherwise, none looking within the tolerance, it is out of travel; and an absent bearing maps to the index
of the zero offset. -/
def Obligations.SteerIndexIsTheNearest : Prop :=
  ∀ (t : Tables) (a : AntStatic) (bore : Nat) (offsets : List Int), a.kind = .steerable → a.boresight = some bore →
    a.offsets = some offsets → bore < 3600 → (∀ o ∈ offsets, -600 ≤ o ∧ o ≤ 600) → offsets.Pairwise (· < ·) →
    let toward := fun (o : Int) => (((bore : Int) + o + 3600) % 3600).toNat
    let far := fun (b : Nat) (o : Int) => min (absDiff b (toward o)) (3600 - absDiff b (toward o))
    (∀ i o, offsets[i]? = some o → steerDirection a (i + 1) = some (toward o)) ∧
    (∀ b, b < 3600 →
      (∀ i o, offsets[i]? = some o →
        (mapBearing t a (some b) = some (.index (i + 1)) ↔
          far b o ≤ t.site.tolerance ∧
          ∀ j p, offsets[j]? = some p → far b o ≤ far b p ∧ (far b o = far b p → i ≤ j))) ∧
      (mapBearing t a (some b) = none ↔ ∀ o ∈ offsets, t.site.tolerance < far b o)) ∧
    (∀ i, offsets[i]? = some 0 → mapBearing t a none = some (.index (i + 1)))

/-- The figures of a START event. The retune stage is 0 at the predicted frequency, Ti in its present band and Tb elsewhere
(R108); the switching stage is nothing on the predicted path's antenna, and elsewhere one Sx to close, with one Sx before it
where a release comes first (R109); the positioning stage of a ROTATABLE antenna is 0 at the target bearing, and otherwise the
travel distance, or the full travel between the edges of the stop arc where the predicted bearing is unknown, over the slew
rate, rounded up, with the settle time; that of a STEERABLE one is Tp off the target index, and any other antenna has none
(R110). The unclamped lead is Tm, the longer of the retune stage and of the opening followed by the longer of closing and
positioning, and Tu (R111), at the predicted frequency, path, column holder and position: those of the predecessors, or of the
records where there is none (R107). The fence is the latest end, after S − lead and not after S, of the transmitter
predecessor and of the candidates on other transmitters whose entry names the antenna, and there is none where no end
qualifies (R112). The lead, cut to 900 with the notice's figure, lies in 2..900 (R111); the begin is the latest of S − lead,
the fence and the insertion time, the predicted RF time the begin plus the lead, and an event inserted after both S − lead and
the fence is LATE (R113). Of two predecessors that agree in start, priority and id the model keeps the one of log entry 26. -/
def Obligations.LeadFiguresFollowTheRules : Prop :=
  (∀ (t : Tables) (x : TxStatic) (f : Nat),
    retuneStage t x none f = x.tb ∧ retuneStage t x (some f) f = 0 ∧
    (∀ p, p ≠ f →
      (bandOf t p = none → retuneStage t x (some p) f = x.tb) ∧
      (∀ i j, bandOf t p = some i → bandOf t f = some j →
        retuneStage t x (some p) f = if i = j then x.ti else x.tb))) ∧
  (∀ (sx ant : Nat) (other held : Bool), switchStage sx (some ant) other held ant = (0, 0) ∧
    ∀ pathAnt, pathAnt ≠ some ant →
      switchStage sx pathAnt other held ant = (if other = true ∨ held = true then sx else 0, sx)) ∧
  (∀ (a : AntStatic) (predicted : Target),
    (∀ stop margin rate settle b, a.kind = .rotatable → a.stopBearing = some stop → a.margin = some margin →
      a.slewRate = some rate → a.settle = some settle → 1 ≤ rate → stop < 3600 → b < 3600 →
      let coordinate := fun (x : Nat) => ((x : Int) - stop + 3600) % 3600
      let turns := fun (far : Nat) => if far = 0 then 0 else (far + rate - 1) / rate + settle
      (∀ b0, b0 < 3600 → predicted = .bearing b0 →
        positionStage a predicted (.bearing b) = turns (coordinate b - coordinate b0).natAbs) ∧
      (predicted = .none → positionStage a predicted (.bearing b) = turns (3600 - 2 * margin))) ∧
    (∀ tp i, a.kind = .steerable → a.phasing = some tp →
      positionStage a predicted (.index i) = if predicted = .index i then 0 else tp) ∧
    (a.kind = .fixed ∨ a.kind = .dummy → ∀ target, positionStage a predicted target = 0)) ∧
  (∀ (c : Ctl) (x : TxStatic) (a : AntStatic) (e : EntryRec) (target : Target) (s now : SiteTime) (freq path : Option Nat)
      (other held : Bool) (position : Target),
    (match txPredecessor (candidates c) e.tx s with
      | some p => freq = some p.freq ∧ path = some p.ant ∧ (other = true ↔ p.ant ≠ e.ant)
      | none => freq = ((txDyn c e.tx).bind (fun d => if d.tune = .idle then d.freq else none)) ∧
          path = (claimPath c e.tx).map (fun p => p.ant) ∧
          (other = true ↔ ∃ p ∈ c.matrix.paths, p.tx = e.tx ∧ p.ant ≠ e.ant)) →
    (match antPredecessor (candidates c) e.ant s with
      | some p => position = (mapBearing c.site.work a p.bearing).getD .none ∧ (held = true ↔ p.tx ≠ e.tx)
      | none => position = expectedPosition c e.ant ∧
          (held = true ↔ ∃ p ∈ c.matrix.paths, p.ant = e.ant ∧ p.tx ≠ e.tx)) →
    let sw := switchStage c.site.work.site.sx path other held e.ant
    let full := x.tm + max (retuneStage c.site.work x freq e.freq) (sw.1 + max sw.2 (positionStage a position target)) + x.tu
    let g := figuresOf c x a e target s now
    g.lead = min full 900 ∧ g.clampedFrom = (if 900 < full then some full else none)) ∧
  (∀ (l : List Candidate) (tx ant : Nat) (s lead : Nat),
    let qualifies := fun (e : SiteTime) => s - lead < e ∧ e ≤ s ∧
      ((∃ p, txPredecessor l tx s = some p ∧ p.finish = e) ∨ (∃ p ∈ l, p.tx ≠ tx ∧ p.ant = ant ∧ p.finish = e))
    (∀ e, fence l tx ant s lead = some e ↔ qualifies e ∧ ∀ e', qualifies e' → e' ≤ e) ∧
    (fence l tx ant s lead = none ↔ ∀ e, ¬ qualifies e)) ∧
  (∀ (c : Ctl) (x : TxStatic) (a : AntStatic) (e : EntryRec) (target : Target) (s now : SiteTime), 1 ≤ x.tm → 1 ≤ x.tu →
    let g := figuresOf c x a e target s now
    2 ≤ g.lead ∧ g.lead ≤ 900 ∧ (∀ n, g.clampedFrom = some n → 900 < n ∧ g.lead = 900) ∧
    s - g.lead ≤ g.begin_ ∧ now ≤ g.begin_ ∧
    (∀ f, fence (candidates c) e.tx e.ant s g.lead = some f → f ≤ g.begin_) ∧
    (g.begin_ = s - g.lead ∨ g.begin_ = now ∨ fence (candidates c) e.tx e.ant s g.lead = some g.begin_) ∧
    (g.begin_ + g.lead < 65536 * 86400 → g.rf = g.begin_ + g.lead) ∧
    (g.late = true ↔ s - g.lead < now ∧ ∀ f, fence (candidates c) e.tx e.ant s g.lead = some f → f < now))

/-! ## Site time and the plan -/

/-- The passing of site time. A second passes: valid site time advances by one, and past the last second of day 65535 it
becomes INVALID and the plan is emptied (R151, R154). A minute boundary in RUNNING refills the plan; elsewhere nothing
happens (R158). What a refill considers are the STARTs and ENDs of the ACTIVE bank's occurrences behind the scan mark and
not later than an hour ahead, and what a rebuild catches up are the occurrences under way that run nowhere, are worked by no
context, are not TAKEN and are not excluded by H (R156, R158, R161). With nothing to consider, or no season ACTIVE, the scan
mark goes an hour ahead; so it does when the one START to consider has entered the plan with its figures, its reports of
LEAD_CLAMPED and of a predicted LATE_START and its flags (R111, R113, R158), or the one END, absorbed by a START of its
transmitter that begins at its time (R158, R159). That an END which a START of the plan has absorbed before is not inserted
again is the model's reading (log entry 27). With 256 events in the plan the scan stands before the END that found no room,
with ALARM PLAN_FULL unless its latch is set (R160). An END that a full plan left over outside a refill is considered first,
and is inserted or left over again: the model's reading (log entry 28). The end of an occurrence passes: an untaken START is dropped
with NOTICE MISSED, detail ENDED or MASKED, and a TAKEN log record leaves the log and raises H to its start (R155, R162,
R164). The command of a timer brings the clock to the timer's end: the model's choice (log entry 2). That a command whose
condition does not hold changes nothing is its choice too (log entry 4). -/
def Obligations.SiteTimePasses : Prop :=
  ∀ s : State, Still s.ctl →
    (s.ctl.plan.time = none → exec .siteSecond s = .next s) ∧
    (∀ t, s.ctl.plan.time = some t →
      (t < 65536 * 86400 - 1 → exec .siteSecond s = .next { s with ctl := { s.ctl with
        clock := max s.ctl.clock (s.ctl.plan.secondFrom + 1000)
        plan := { s.ctl.plan with time := some (t + 1), secondFrom := s.ctl.plan.secondFrom + 1000 } } }) ∧
      (65536 * 86400 - 1 ≤ t → exec .siteSecond s = .next { s with ctl := { s.ctl with
        clock := max s.ctl.clock (s.ctl.plan.secondFrom + 1000)
        plan := { s.ctl.plan with time := none, events := [] } } })) ∧
    ((s.ctl.start.phase ≠ .running ∨ s.ctl.plan.time = none ∨ ∃ t, s.ctl.plan.time = some t ∧ t % 60 ≠ 0) →
      exec .minuteBoundaryRefill s = .next s) ∧
    (∀ now, s.ctl.start.phase = .running → s.ctl.plan.time = some now →
      (∀ high bk, (∀ p ∈ s.ctl.gate.tx, p.2.running = none) → activeBank s.ctl = some bk → high < 65536 * 86400 →
        now < 65536 * 86400 →
        let entries := scheduleEntries (bankRec s.ctl bk)
        (∀ e ∈ entries, e.start < 1440 ∧ e.duration ≤ 1440) →
        (∀ x, x ∈ scanRange s.ctl high ↔ ∃ e ∈ entries, ∃ day ≤ 65535, occursOn (bankRec s.ctl bk) e day = true ∧
          x ∈ bothEvents bk e day ∧ x.key.time ≤ high ∧ afterMark s.ctl.plan.scan x.key = true) ∧
        (∀ x, x ∈ catchUpList s.ctl bk entries now ↔ (∃ e ∈ entries, ∃ day,
            occursOn (bankRec s.ctl bk) e day = true ∧ x ∈ bothEvents bk e day) ∧
          x.key.isStart = true ∧ x.key.time ≤ now ∧ now < x.finish ∧
          (∀ p ∈ s.ctl.cu, p.2.busy = true → p.2.occ ≠ x.occ) ∧
          (∀ r, logRec s.ctl x.occ = some r → r.returned = true) ∧
          (logRec s.ctl x.occ = none → ∀ h, s.ctl.plan.high = some h → h < x.key.time))) ∧
      (now % 60 = 0 → (∀ v ∈ s.ctl.plan.events, now < v.begin_) →
        let high := min (now + 3600) (65536 * 86400 - 1)
        let refilled := fun (k : Link) (events : List Event) =>
          (.next { s with ctl := { s.ctl with
            link := k
            plan := { s.ctl.plan with
              events := events, scan := { time := high, resume := none, left := [] }, fullLatch := false } } } :
            Host.Outcome State Fault Refusal)
        let stopped := fun (bk : Bank) (scan : ScanMark) =>
          (.next { s with ctl := { s.ctl with
            link := (if s.ctl.plan.fullLatch = true then s.ctl.link else withReport (reportNow s.ctl .planFull
              (.bank bk ((bankRec s.ctl bk).header.season.getD 0)) 0 0 none none) s.ctl.link)
            plan := { s.ctl.plan with fullLatch := true, scan := scan } } } : Host.Outcome State Fault Refusal)
        (s.ctl.plan.scan.left = [] →
        ((scanRange s.ctl high = [] ∨ activeBank s.ctl = none ∧ ∀ p ∈ s.ctl.gate.tx, p.2.running = none) →
          exec .minuteBoundaryRefill s = refilled s.ctl.link s.ctl.plan.events) ∧
        (∀ x e st a target, scanRange s.ctl high = [x] → x.key.isStart = true → x.entry = some e → now < x.key.time →
          now < x.finish → s.ctl.plan.events = [] → s.ctl.plan.log = [] → s.ctl.plan.high = none →
          siteTests s.ctl.site.work e = none → txStatic s.ctl e.tx = some st → antStatic s.ctl e.ant = some a →
          mapBearing s.ctl.site.work a e.bearing = some target → s.ctl.link.reports.length < 31 →
          let g := figuresOf s.ctl st a e target x.key.time now
          now < g.begin_ →
          let subject := Subject.entry x.occ.bank x.occ.id
          let clamped := match g.clampedFrom with
            | some n => withReport (reportNow s.ctl .leadClamped subject 0 0 (some n) none) s.ctl.link
            | none => s.ctl.link
          exec .minuteBoundaryRefill s = refilled
            (if x.key.time < g.rf then withReport (reportNow s.ctl .lateStart subject 0 1
                (some (max (-2147483647) (min ((g.rf : Int) - x.key.time) 2147483647))) none) clamped
              else clamped)
            [{ kind := .start, occ := x.occ, tx := x.tx, priority := x.key.priority, time := x.key.time,
               occStart := x.start, occEnd := x.finish, lead := g.lead, begin_ := g.begin_, rf := g.rf,
               leadClamped := g.clampedFrom.isSome, late := g.late,
               masked := decide (x.key.priority < s.ctl.plan.holdLevel), wait := none, absorbed := none,
               returnEnd := none }]) ∧
        (∀ x rest, scanRange s.ctl high = x :: rest → x.key.isStart = false → now < x.finish →
          (∀ v ∈ s.ctl.plan.events, v.kind = .finish → v.occ ≠ x.occ) →
          (rest = [] → s.ctl.plan.events = [] →
            exec .minuteBoundaryRefill s = refilled s.ctl.link
              [{ kind := .finish, occ := x.occ, tx := x.tx, priority := x.key.priority, time := x.finish,
                 occStart := x.start, occEnd := x.finish, lead := 0, begin_ := x.finish, rf := x.finish, leadClamped := false,
                 late := false, masked := false, wait := none, absorbed := none, returnEnd := none }]) ∧
          (∀ v, rest = [] → s.ctl.plan.events = [v] → v.kind = .start → v.tx = x.tx → v.begin_ = x.finish →
            v.masked = false → v.absorbed = none → v.occ ≠ x.occ →
            exec .minuteBoundaryRefill s = refilled s.ctl.link
              [{ v with absorbed := some { occ := x.occ, priority := x.key.priority, start := x.start,
                                           finish := x.finish } }]) ∧
          (∀ v a, rest = [] → s.ctl.plan.events = [v] → v.kind = .start → v.tx = x.tx → v.absorbed = some a →
            a.occ = x.occ → exec .minuteBoundaryRefill s = refilled s.ctl.link [v]) ∧
          (∀ bk, 256 ≤ s.ctl.plan.events.length → (∀ v ∈ s.ctl.plan.events, v.tx ≠ x.tx) → activeBank s.ctl = some bk →
            s.ctl.link.reports.length < 32 →
            exec .minuteBoundaryRefill s = stopped bk { time := x.key.time, resume := some x.key, left := [] }))) ∧
        (∀ x, s.ctl.plan.scan.left = [x] → x.key.isStart = false →
          (x.entry = none ∨ ∃ e, x.entry = some e ∧ activeBank s.ctl = some x.occ.bank ∧
            e ∈ scheduleEntries (bankRec s.ctl x.occ.bank)) →
          (s.ctl.plan.events = [] → scanRange s.ctl high = [] → (now < x.key.time ∨ s.ctl.hall.inForce = true) →
            let at_ := max x.key.time now
            exec .minuteBoundaryRefill s = refilled s.ctl.link
              [{ kind := .finish, occ := x.occ, tx := x.tx, priority := x.key.priority, time := at_,
                 occStart := x.start, occEnd := x.finish, lead := 0, begin_ := at_, rf := at_, leadClamped := false,
                 late := false, masked := false, wait := none, absorbed := none, returnEnd := none }]) ∧
          (∀ bk, 256 ≤ s.ctl.plan.events.length → (∀ v ∈ s.ctl.plan.events, v.tx ≠ x.tx) →
            (∀ v ∈ s.ctl.plan.events, v.kind = .finish → v.occ ≠ x.occ) → activeBank s.ctl = some bk →
            s.ctl.link.reports.length < 32 → exec .minuteBoundaryRefill s = stopped bk s.ctl.plan.scan))) ∧
      (∀ v, s.ctl.plan.events = [v] → v.kind = .start → v.occEnd ≤ now → v.absorbed = none → s.ctl.plan.log = [] →
        s.ctl.link.reports.length < 32 →
        exec (.occurrenceEndPassed v.occ) s = .next { s with ctl := { s.ctl with
          link := (withReport (reportNow s.ctl .missed (.entry v.occ.bank v.occ.id) (if v.masked then 79 else 78) 0
            (some v.occ.day) none) s.ctl.link)
          plan := { s.ctl.plan with events := [] } } }) ∧
      (∀ r, s.ctl.plan.events = [] → s.ctl.plan.log = [r] → r.returned = false → r.occEnd ≤ now →
        exec (.occurrenceEndPassed r.occ) s = .next { s with ctl := { s.ctl with
          plan := { s.ctl.plan with
            log := [], high := some (match s.ctl.plan.high with | some h => max h r.start | none => r.start) } } }))

/-- A due event, the only one of the plan, is taken by the lowest free context. A START whose entry passes the re-check and
maps to a position is taken at its begin, or returned before when the end named at its return is reached: it leaves the plan,
H rises to its begin, its log record is TAKEN, and the context takes it with the entry's fields (R163, R164, R170). Its
transmitter, with no owner, and with no occurrence running but one whose end has come or whose END this START has absorbed,
comes into the context's hand, and such an occurrence stays recorded. While the transmitter is live the context is in
MUTING, its CARRIER_OFF offered and its deadline Tm + 10 s away (R171, R173). Where it is off, with no occurrence running, and
stands tuned on a PROVEN path to the antenna, at its target, the context passes in the same instant through MUTING, RELEASING,
AWAIT_ANTENNA, SETTING and PROVING, in which it finds nothing to do, to RAISING, its FEED offered and its deadline Tu + 10 s away (R173 to R175, R177 to
R182). An END of the running occurrence of a live transmitter that no context owns is taken too, in MUTING; of another
occurrence it leaves the plan without effect (R163, R185). Which event the command without operand means, and that the
context's sub-steps are NOT_NEEDED until SETTING decides them, are the model's choices (log entries 9 and 40). -/
def Obligations.ADueStartIsTaken : Prop :=
  ∀ (s : State) (v : Event) (st : TxStatic) (d : TxDyn) (now : SiteTime), Calm
      { s.ctl with plan := { s.ctl.plan with events := [] } } →
    s.ctl.plan.time = some now → s.ctl.plan.events = [v] → v.masked = false → v.begin_ ≤ now →
    txStatic s.ctl v.tx = some st → txDyn s.ctl v.tx = some d →
    stationClass s.ctl.site.work st.station = some .transmitter → txOfStation s.ctl.site.work st.station = some v.tx →
    s.ctl.link.plantQueue.length < 32 →
    let taken := fun (order : PlantVerb) (paths : List Path) (high : SiteTime) (log : List LogRec) (x : Ctx) =>
      (.next { s with ctl := { s.ctl with
        link := withOwn { dest := st.station, verb := order, cls := .internal,
                          origin := .ctx 1 { occ := v.occ, isEnd := x.isEnd } } s.ctl.link
        gate := { s.ctl.gate with tx := tset v.tx { d with owner := .ctx 1 } s.ctl.gate.tx }
        matrix := { s.ctl.matrix with paths := paths }
        plan := { s.ctl.plan with events := [], high := some high, log := log }
        cu := tset 1 x s.ctl.cu } } : Host.Outcome State Fault Refusal)
    (∀ (e : EntryRec) (target : Target), v.kind = .start → v.begin_ < v.time → startTarget s.ctl v = some (e, target) →
      s.ctl.plan.high = none → d.owner = .none →
      (∀ r, d.running = some r → r.endTime ≤ now ∨ ∃ a, v.absorbed = some a ∧ a.occ = r.occ) →
      let goes := fun (order : PlantVerb) (paths : List Path) (phase : CtxPhase) (seconds : Nat) (prior : Option Nat) =>
        taken order paths v.begin_ [{ occ := v.occ, start := v.time, occEnd := v.occEnd, returned := false }]
          { busy := true, isEnd := false, occ := v.occ, startTime := v.occ.day * 86400 + e.start * 60, endTime := v.occEnd,
            tx := v.tx, priority := v.priority, tFreq := e.freq, tAnt := e.ant, tPos := target, tPower := e.power,
            tFeed := e.feed, phase := phase, deadline := some (s.ctl.clock + seconds * 1000), retune := Sub.idle,
            path := Sub.idle, position := Sub.idle, prior := prior, begin_ := v.begin_, rf := v.rf, actual := none,
            outcome := .none, reason := none, cause := 0, tuned := false, raised := false, preempting := none }
      (d.live = true → s.ctl.matrix.paths = [] →
        let muting := goes .carrierOff [] .muting (st.tm + 10) none
        (v.wait = none → s.ctl.plan.log = [] → exec .eventDue s = muting) ∧
        (∀ t, v.wait = some .transmitter → v.returnEnd = some t → t ≤ now →
          s.ctl.plan.log = [{ occ := v.occ, start := v.time, occEnd := v.occEnd, returned := true }] →
          exec (.returnEndReached v.occ) s = muting)) ∧
      (∀ p, d.live = false → d.running = none → s.ctl.matrix.paths = [p] → p.tx = v.tx → p.ant = e.ant → p.state = .proven →
        p.reference = none → (xpAt s.ctl p.row p.col).state = .closed →
        retuneStage s.ctl.site.work st (ratableFreq d) e.freq = 0 → positionNeeded s.ctl e.ant target = false →
        localFlag s.ctl v.tx d = false → 1 ≤ e.feed → e.feed ≤ 32 → v.wait = none → s.ctl.plan.log = [] →
        exec .eventDue s = goes (.feed e.feed) [{ p with owner := .ctx 1 }] .raising (st.tu + 10) (some e.ant))) ∧
    (v.kind = .finish → v.wait = none →
      (∀ r, d.running = some r → r.occ = v.occ → ownedByCtx d = false → d.live = true → s.ctl.plan.log = [] →
        exec .eventDue s = taken .carrierOff s.ctl.matrix.paths
          (match s.ctl.plan.high with | some h => max h v.begin_ | none => v.begin_) []
          { busy := true, isEnd := true, occ := v.occ, startTime := v.occStart, endTime := v.occEnd, tx := v.tx,
            priority := v.priority, tFreq := 0, tAnt := 0, tPos := .none, tPower := 0, tFeed := 0, phase := .muting,
            deadline := some (s.ctl.clock + (st.tm + 10) * 1000), retune := Sub.idle, path := Sub.idle,
            position := Sub.idle, prior := none, begin_ := v.begin_, rf := v.rf, actual := none, outcome := .none,
            reason := none, cause := 0, tuned := false, raised := false, preempting := none }) ∧
      ((∀ r, d.running = some r → r.occ ≠ v.occ) →
        exec .eventDue s = .next { s with ctl := { s.ctl with plan := { s.ctl.plan with events := [] } } }))

/-- Site time reaches the epoch of a STANDBY bank that holds no valid record, the other bank not being STANDBY, with no
occurrence running: the bank is ACTIVE at once, an ACTIVE other bank becomes RETIRED, the header writes stand in the
activation place, the retirement first, the watch is cleared, the records of the other bank leave the log, NOTICE
BANK_ACTIVATED is raised and the plan rebuilt (R117, R165). -/
def Obligations.ASeasonIsActivated : Prop :=
  ∀ (s : State) (bk : Bank) (now t : SiteTime), Calm s.ctl → s.ctl.plan.time = some now → s.ctl.plan.watch = some t →
    t ≤ now → (bankRec s.ctl bk).header.state = .standby → (bankRec s.ctl (otherBank bk)).header.state ≠ .standby →
    validRecords (bankRec s.ctl bk) = [] → (∀ n d, (n, d) ∈ s.ctl.gate.tx → d.running = none) →
    (∀ n d, txDyn s.ctl n = some d → d.running = none) → s.ctl.link.reports.length < 32 →
    let old := otherBank bk
    let retires := (bankRec s.ctl old).header.state = .active
    let store := { endWindow s.ctl.store with
      activation := s.ctl.store.activation ++ (if retires then [(old, .retire), (bk, .activate)] else [(bk, .activate)]) }
    exec .seasonActivation s = .next { s with ctl := { s.ctl with
      link := (withReport (reportNow s.ctl .bankActivated (.bank bk ((bankRec s.ctl bk).header.season.getD 0)) 0 0 none
        none) s.ctl.link)
      store := (withBank bk (fun r => { r with header := { r.header with state := .active }, change := .activate })
        (if retires then
          withBank old (fun r => { r with header := { r.header with state := .retired }, change := .activate }) store
        else store))
      plan := { s.ctl.plan with
        watch := none
        log := s.ctl.plan.log.filter (fun r => decide (r.occ.bank ≠ old))
        scan := { time := min (now + 3600) (65536 * 86400 - 1), resume := none, left := [] }
        fullLatch := false } } }

/-! ## The Changeover Unit -/

/-- The deadlines of a START context, the only BUSY one: the phase's deadline, or a PENDING or RUNNING sub-step's, expires,
and the context ends FAILED with the reason of the phase or the sub-step, cause 0, and ALARM CHANGEOVER_FAILED with reason,
phase and context number (R173, R174, R177, R181, R182, R186); and once its occurrence's end has passed it ends MISSED, with
NOTICE MISSED and detail ENDED, or ANTENNA_HELD while it awaits its antenna (R184). With it goes the cleanup of R187: a
CARRIER_OFF to its transmitter where that is live and no CARRIER_OFF that spares it is under way; its job is withdrawn; its
path passes to OPERATIONS, as it is or, with a proof in progress or in SETTING, UNPROVEN, and a SETTING one for which nothing
was moved is removed, its close request withdrawn from the movement queue; and the transmitter's owner becomes NONE. At PROVING's deadline the proof runs on with the path UNPROVEN
(R181; how it meets R187 is the model's reading, log entry 35). Whether no movement was granted is read as log entry 34 says.
The command of a timer brings the clock to the timer's end: the model's choice (log entry 2). -/
def Obligations.ContextsRunOut : Prop :=
  ∀ (s : State) (n : Nat) (x : Ctx) (d : TxDyn) (st : TxStatic),
    Quiet { s.ctl with matrix := { s.ctl.matrix with queue := [] } } → s.ctl.cu = [(n, x)] → x.busy = true →
    x.isEnd = false → txStatic s.ctl x.tx = some st → txDyn s.ctl x.tx = some d → d.owner = .ctx n → d.running = none →
    stationClass s.ctl.site.work st.station = some .transmitter → txOfStation s.ctl.site.work st.station = some x.tx →
    s.ctl.link.plantQueue.length < 32 → s.ctl.link.reports.length < 32 →
    let spared := framePending s.ctl.link (sparesCleanup st.station)
    let slotsFull := ∀ k ∈ [1, 2, 3, 4], (tget k s.ctl.matrix.slots).isSome = true
    let ended := fun (now : Millis) (paths : List Path × List MoveReq) (r : Report) (y : Ctx) =>
      (.next { s with ctl := { s.ctl with
        clock := now
        link := withReport r (if d.live = true ∧ spared = false then
            withOwn { dest := st.station, verb := .carrierOff, cls := .internal, origin := .gate .cleanup } s.ctl.link
          else s.ctl.link)
        gate := { s.ctl.gate with tx := tset x.tx { d with owner := .none } s.ctl.gate.tx }
        matrix := { s.ctl.matrix with paths := paths.1, queue := paths.2 }
        aerial := s.ctl.aerial.map (fun a => (a.1, { a.2 with
          job := a.2.job.filter (fun j => decide (j.requester ≠ .ctx n { occ := x.occ, isEnd := false })) }))
        cu := [(n, { y with busy := false })] } } : Host.Outcome State Fault Refusal)
    let subject := Subject.entry x.occ.bank x.occ.id
    let fails := fun (now : Millis) (paths : List Path × List MoveReq) (reason : Failure) (y : Ctx) =>
      ended now paths (reportNow s.ctl .changeoverFailed subject reason.code x.phase.code (some n) none)
        { y with outcome := .failed, reason := some reason, cause := 0 }
    (∀ p, s.ctl.matrix.paths = [p] → p.owner = .ctx n → p.tx = x.tx → (p.state = .setting → d.live = false) →
      (slotsFull ∨ ∀ r ∈ s.ctl.matrix.queue, p.state = .setting ∧ p.proof = .none ∧ r.pid = p.pid) →
      let left := fun (now : Millis) (runsOn : Bool) =>
        let unproven := { p with
          owner := .operations, state := .unproven, since := if p.state = .unproven then p.since else now, stage := none
          proof := if runsOn then p.proof else .none, reference := none }
        let withdrawn := s.ctl.matrix.queue.filter (fun r => decide (r.pid ≠ p.pid))
        if p.proof ≠ .none then ([unproven], if runsOn then s.ctl.matrix.queue else withdrawn)
        else if p.state = .setting then
          (if p.granted = false ∧ (xpAt s.ctl p.row p.col).state = .opened then [] else [unproven], withdrawn)
        else ([{ p with owner := .operations }], s.ctl.matrix.queue)
      (∀ t, x.deadline = some t →
        let now := max s.ctl.clock t
        (x.phase = .muting → exec (.muteDeadline n) s = fails now (left now false) .muteTimeout x) ∧
        (x.phase = .releasing → exec (.releaseDeadline n) s = fails now (left now false) .releaseTimeout x) ∧
        (x.phase = .proving → exec (.proveDeadline n) s = fails now (left now true) .proveFailed x) ∧
        (x.phase = .raising → exec (.raiseDeadline n) s = fails now (left now false) .raiseTimeout x)) ∧
      (x.phase = .setting →
        (∀ t, x.retune.deadline = some t → (x.retune.status = .pending ∨ x.retune.status = .running) →
          let now := max s.ctl.clock t
          exec (.substepDeadline n .retune) s =
            fails now (left now false) .retuneFailed { x with retune := { status := .failed, deadline := some t } }) ∧
        (∀ t, x.path.deadline = some t → (x.path.status = .pending ∨ x.path.status = .running) →
          let now := max s.ctl.clock t
          exec (.substepDeadline n .path) s =
            fails now (left now false) .pathFailed { x with path := { status := .failed, deadline := some t } }) ∧
        (∀ t, x.position.deadline = some t → (x.position.status = .pending ∨ x.position.status = .running) →
          let now := max s.ctl.clock t
          exec (.substepDeadline n .position) s =
            fails now (left now false) .positionFailed { x with position := { status := .failed, deadline := some t } })) ∧
      (∀ now, s.ctl.plan.time = some now → x.endTime ≤ now → x.phase ≠ .awaitAntenna →
        exec (.contextMissed n) s = ended s.ctl.clock (left s.ctl.clock false)
          (reportNow s.ctl .missed subject 78 0 (some x.occ.day) none) { x with outcome := .missed })) ∧
    (∀ now, (∀ p ∈ s.ctl.matrix.paths, p.owner ≠ .ctx n) → s.ctl.plan.time = some now → x.endTime ≤ now →
      x.phase = .awaitAntenna → (slotsFull ∨ s.ctl.matrix.queue = []) →
      exec (.contextMissed n) s = ended s.ctl.clock (s.ctl.matrix.paths, s.ctl.matrix.queue)
        (reportNow s.ctl .missed subject 80 0 (some x.occ.day) none) { x with outcome := .missed })

/-! ## Start-up -/

/-- POWER_UP, with no store operation in progress and the push off, keeps of the controller only the banks' stored
contents and header images, the site area, the levels at the panel and what the operations side holds; the working copy is
the latest valid saved one, or the erased values, its records start afresh, every page's failure count falls to 0, the
panel is sampled, and start-up stands at STORE_CHECK (R16, R38, R92, R116, R118, R139, R151, R155, R191, R192, R196). What the specification does not name here is kept
or reset as log entry 12 says. -/
def Obligations.PowerUpStartsAfresh : Prop :=
  (∀ (r : BankRec) (p : Nat), 1 ≤ p → p ≤ 16 → pageAt (withoutFailures r) p = { pageAt r p with failures := 0 }) ∧
  (∀ s : State, s.ctl.panel.raw.push = false → s.ctl.store.op = none → s.ctl.link.opsInput = [] →
    let tables := match latestSite s.ctl.site with | some i => i.tables | none => Tables.erased
    let fresh := fun (r : BankRec) => withoutFailures { r with
      header := (match latestHeader r with | some i => i.header | none => Header.blank)
      fault := false, change := .none, highest := 0 }
    exec .powerUp s = .next { s with ctl := { Ctl.reset with
      clock := s.ctl.clock
      free := s.ctl.free
      link := { Link.initial with opsHeldOff := s.ctl.link.opsHeldOff }
      gate := { tx := tables.tx.map (fun p => (p.1, TxDyn.initial)), held := [], powerSent := [] }
      aerial := tables.ant.map (fun p => (p.1, AntDyn.initial p.2.kind))
      site := { work := tables, unsaved := false, image1 := s.ctl.site.image1, image2 := s.ctl.site.image2 }
      store := { Ctl.reset.store with bankA := fresh s.ctl.store.bankA, bankB := fresh s.ctl.store.bankB }
      panel := { raw := s.ctl.panel.raw, cond := s.ctl.panel.raw, edges := [] } } })

/-- The store check ends on an erased store: with a working copy that names no station there is nothing to survey or to
adopt, and start-up reaches RUNNING with NOTICE STARTUP_DONE, which names the kind of the start (R138, R197, R198, R200).
And the survey runs out, 10 s after it began and with a frame of it still pending, at an installation with a matrix station
only and no crosspoint CLOSED: the survey frames not yet sent are removed, the entries of those sent stay in the table; a
matrix station not heard in the survey becomes silent, with ALARM STATION_NO_ANSWER unless it was silent before; and start-up
reaches RUNNING (R197, R198, R200). The command of a timer brings the clock to the timer's end: the model's choice (log entry
2). When the survey ends is its reading (log entry 18). -/
def Obligations.StartUpReachesRunning : Prop :=
  ∀ s : State, Still s.ctl → s.ctl.link.urgentWaiters = [] → s.ctl.matrix.slots = [] → s.ctl.matrix.paths = [] →
    s.ctl.matrix.queue = [] → s.ctl.gate.tx = [] → s.ctl.plan.time = none → s.ctl.start.retire = none →
    s.ctl.site.work.tx = [] → s.ctl.site.work.ant = [] → s.ctl.link.reports.length < 31 →
    let done := reportNow s.ctl .startupDone .none 0 (match s.ctl.start.last with | .powerUp => 1 | .restart => 2) none none
    (s.ctl.start.phase = .storeCheck → s.ctl.site.work.site.geometry = none → s.ctl.store.bankA = BankRec.blank →
      s.ctl.store.bankB = BankRec.blank → s.ctl.link.plantQueue = [] → s.ctl.link.table = [] →
      s.ctl.link.internalWaiters = [] → s.ctl.matrix.xps = [] →
      exec .storeCheckEnd s = .next { s with ctl := { s.ctl with
        link := withReport done s.ctl.link
        store := { s.ctl.store with checked := true }
        plan := { s.ctl.plan with watch := none }
        start := { s.ctl.start with phase := .running, surveyAt := s.ctl.clock, heard := [] } } }) ∧
    (∀ g, s.ctl.start.phase = .survey → s.ctl.site.work.site.geometry = some g →
      (∀ q ∈ s.ctl.link.plantQueue, q.frame.origin = .survey) → (∀ f ∈ s.ctl.link.internalWaiters, f.origin = .survey) →
      (s.ctl.link.plantQueue ≠ [] ∨ s.ctl.link.internalWaiters ≠ [] ∨ ∃ e ∈ s.ctl.link.table, e.origin = .survey) →
      (∀ q ∈ allXps s.ctl.site.work, (xpAt s.ctl q.1 q.2).state ≠ .closed) →
      let emptied := { s.ctl.link with plantQueue := [], internalWaiters := [] }
      exec .surveyTimeout s = .next { s with ctl := { s.ctl with
        clock := max s.ctl.clock (s.ctl.start.surveyAt + 10000)
        link := withReport done (if g.station ∈ s.ctl.start.heard ∨ g.station ∈ s.ctl.link.silent then emptied
          else withReport (reportNow s.ctl .stationNoAnswer (.station g.station) 0 0 none none)
            { emptied with silent := nins g.station s.ctl.link.silent })
        start := { s.ctl.start with phase := .running } } })
end

