-- ==== Sys2Proof/Laws/Claim.lean ====
section
/-! SUPPORT. The tests of CLAIM, said once: which running occurrence a claim names or preempts, and that one which is over for
the claim has no part in it. -/

namespace Sys2Proof.Laws
open Sys2Proof.Machine

variable {c : Ctl} {n priority : Nat} {v : Event} {d : TxDyn}

/-- All that the tests of CLAIM can answer (R171). A claim is returned without an end for another context or the operators' hold;
it names the end of a running occurrence which is not over for it and whose priority is not lower, or preempts one whose
priority is lower; it preempts the operators' hold; and it takes the transmitter where nothing of this stands against it. -/
theorem claimTests_cases :
    claimTests c n priority v d = .returned none ∧
        (otherCtxOwns n d = true ∨ d.owner = .operations ∧ priority ≤ c.site.work.site.manualPriority) ∨
      (∃ r, d.running = some r ∧ overForClaim c v r = false ∧
        (priority ≤ r.priority ∧ claimTests c n priority v d = .returned (some r.endTime) ∨
          r.priority < priority ∧ d.owner ≠ .operations ∧ claimTests c n priority v d = .preempt)) ∨
      d.owner = .operations ∧ claimTests c n priority v d = .hold ∨
      d.owner ≠ .operations ∧ (∀ r, d.running = some r → overForClaim c v r = true) ∧
        claimTests c n priority v d = .free := by
  unfold claimTests
  dsimp only
  by_cases ho : otherCtxOwns n d = true
  · simp [ho]
  by_cases hm : d.owner = .operations ∧ priority ≤ c.site.work.site.manualPriority
  · simp [ho, hm]
  rw [if_neg ho, if_neg hm]
  cases hr : d.running with
  | none => by_cases hp : d.owner = .operations <;> simp [hp]
  | some r =>
    by_cases hv : overForClaim c v r = true
    · by_cases hp : d.owner = .operations <;> simp [hp, hv, Option.filter]
    · have hv : overForClaim c v r = false := by simpa using hv
      by_cases hk : priority ≤ r.priority
      · simp [hv, hk, Option.filter]
      · by_cases hp : d.owner = .operations <;> simp [hp, hv, hk, Option.filter, Nat.lt_of_not_le hk]

/-- An occurrence whose END the START has absorbed is over for its claim (R159, R171). -/
theorem overForClaim_absorbed {a : Absorbed} {r : Running} (h : v.absorbed = some a) (ho : a.occ = r.occ) :
    overForClaim c v r = true := by simp [overForClaim, h, ho]

/-- Where what its transmitter runs is over for the claim, the claim names no end and preempts no occurrence (R171). -/
theorem claimTests_over (h : ∀ r, d.running = some r → overForClaim c v r = true) :
    claimTests c n priority v d = .returned none ∨ claimTests c n priority v d = .hold ∨
      claimTests c n priority v d = .free := by
  rcases claimTests_cases (c := c) (n := n) (priority := priority) (v := v) (d := d) with
    h1 | ⟨r, hr, hv, -⟩ | h1 | h1
  · exact .inl h1.1
  · simp [h r hr] at hv
  · exact .inr (.inl h1.2)
  · exact .inr (.inr h1.2.2)

end Sys2Proof.Laws
end

