-- ==== Sys2Proof/Laws/State.lean ====
section
/-! SUPPORT. One lemma for each field and each update of the controller: what a block update, a signal, a clock reading or a
drawn value leaves as it was, and what it sets. -/

namespace Sys2Proof.Laws
open Sys2Proof.Machine

@[simp] theorem onLink_clock (f : Link → Link) (c : Ctl) : (c.onLink f).clock = c.clock := rfl
@[simp] theorem onLink_free (f : Link → Link) (c : Ctl) : (c.onLink f).free = c.free := rfl
@[simp] theorem onLink_agenda (f : Link → Link) (c : Ctl) : (c.onLink f).agenda = c.agenda := rfl
@[simp] theorem onLink_link (f : Link → Link) (c : Ctl) : (c.onLink f).link = f c.link := rfl
@[simp] theorem onLink_gate (f : Link → Link) (c : Ctl) : (c.onLink f).gate = c.gate := rfl
@[simp] theorem onLink_matrix (f : Link → Link) (c : Ctl) : (c.onLink f).matrix = c.matrix := rfl
@[simp] theorem onLink_aerial (f : Link → Link) (c : Ctl) : (c.onLink f).aerial = c.aerial := rfl
@[simp] theorem onLink_site (f : Link → Link) (c : Ctl) : (c.onLink f).site = c.site := rfl
@[simp] theorem onLink_store (f : Link → Link) (c : Ctl) : (c.onLink f).store = c.store := rfl
@[simp] theorem onLink_load (f : Link → Link) (c : Ctl) : (c.onLink f).load = c.load := rfl
@[simp] theorem onLink_plan (f : Link → Link) (c : Ctl) : (c.onLink f).plan = c.plan := rfl
@[simp] theorem onLink_cu (f : Link → Link) (c : Ctl) : (c.onLink f).cu = c.cu := rfl
@[simp] theorem onLink_panel (f : Link → Link) (c : Ctl) : (c.onLink f).panel = c.panel := rfl
@[simp] theorem onLink_hall (f : Link → Link) (c : Ctl) : (c.onLink f).hall = c.hall := rfl
@[simp] theorem onLink_start (f : Link → Link) (c : Ctl) : (c.onLink f).start = c.start := rfl

@[simp] theorem onGate_clock (f : Gate → Gate) (c : Ctl) : (c.onGate f).clock = c.clock := rfl
@[simp] theorem onGate_free (f : Gate → Gate) (c : Ctl) : (c.onGate f).free = c.free := rfl
@[simp] theorem onGate_agenda (f : Gate → Gate) (c : Ctl) : (c.onGate f).agenda = c.agenda := rfl
@[simp] theorem onGate_link (f : Gate → Gate) (c : Ctl) : (c.onGate f).link = c.link := rfl
@[simp] theorem onGate_gate (f : Gate → Gate) (c : Ctl) : (c.onGate f).gate = f c.gate := rfl
@[simp] theorem onGate_matrix (f : Gate → Gate) (c : Ctl) : (c.onGate f).matrix = c.matrix := rfl
@[simp] theorem onGate_aerial (f : Gate → Gate) (c : Ctl) : (c.onGate f).aerial = c.aerial := rfl
@[simp] theorem onGate_site (f : Gate → Gate) (c : Ctl) : (c.onGate f).site = c.site := rfl
@[simp] theorem onGate_store (f : Gate → Gate) (c : Ctl) : (c.onGate f).store = c.store := rfl
@[simp] theorem onGate_load (f : Gate → Gate) (c : Ctl) : (c.onGate f).load = c.load := rfl
@[simp] theorem onGate_plan (f : Gate → Gate) (c : Ctl) : (c.onGate f).plan = c.plan := rfl
@[simp] theorem onGate_cu (f : Gate → Gate) (c : Ctl) : (c.onGate f).cu = c.cu := rfl
@[simp] theorem onGate_panel (f : Gate → Gate) (c : Ctl) : (c.onGate f).panel = c.panel := rfl
@[simp] theorem onGate_hall (f : Gate → Gate) (c : Ctl) : (c.onGate f).hall = c.hall := rfl
@[simp] theorem onGate_start (f : Gate → Gate) (c : Ctl) : (c.onGate f).start = c.start := rfl

@[simp] theorem onMatrix_clock (f : Matrix → Matrix) (c : Ctl) : (c.onMatrix f).clock = c.clock := rfl
@[simp] theorem onMatrix_free (f : Matrix → Matrix) (c : Ctl) : (c.onMatrix f).free = c.free := rfl
@[simp] theorem onMatrix_agenda (f : Matrix → Matrix) (c : Ctl) : (c.onMatrix f).agenda = c.agenda := rfl
@[simp] theorem onMatrix_link (f : Matrix → Matrix) (c : Ctl) : (c.onMatrix f).link = c.link := rfl
@[simp] theorem onMatrix_gate (f : Matrix → Matrix) (c : Ctl) : (c.onMatrix f).gate = c.gate := rfl
@[simp] theorem onMatrix_matrix (f : Matrix → Matrix) (c : Ctl) : (c.onMatrix f).matrix = f c.matrix := rfl
@[simp] theorem onMatrix_aerial (f : Matrix → Matrix) (c : Ctl) : (c.onMatrix f).aerial = c.aerial := rfl
@[simp] theorem onMatrix_site (f : Matrix → Matrix) (c : Ctl) : (c.onMatrix f).site = c.site := rfl
@[simp] theorem onMatrix_store (f : Matrix → Matrix) (c : Ctl) : (c.onMatrix f).store = c.store := rfl
@[simp] theorem onMatrix_load (f : Matrix → Matrix) (c : Ctl) : (c.onMatrix f).load = c.load := rfl
@[simp] theorem onMatrix_plan (f : Matrix → Matrix) (c : Ctl) : (c.onMatrix f).plan = c.plan := rfl
@[simp] theorem onMatrix_cu (f : Matrix → Matrix) (c : Ctl) : (c.onMatrix f).cu = c.cu := rfl
@[simp] theorem onMatrix_panel (f : Matrix → Matrix) (c : Ctl) : (c.onMatrix f).panel = c.panel := rfl
@[simp] theorem onMatrix_hall (f : Matrix → Matrix) (c : Ctl) : (c.onMatrix f).hall = c.hall := rfl
@[simp] theorem onMatrix_start (f : Matrix → Matrix) (c : Ctl) : (c.onMatrix f).start = c.start := rfl

@[simp] theorem onAerial_clock (f : Table AntDyn → Table AntDyn) (c : Ctl) : (c.onAerial f).clock = c.clock := rfl
@[simp] theorem onAerial_free (f : Table AntDyn → Table AntDyn) (c : Ctl) : (c.onAerial f).free = c.free := rfl
@[simp] theorem onAerial_agenda (f : Table AntDyn → Table AntDyn) (c : Ctl) : (c.onAerial f).agenda = c.agenda := rfl
@[simp] theorem onAerial_link (f : Table AntDyn → Table AntDyn) (c : Ctl) : (c.onAerial f).link = c.link := rfl
@[simp] theorem onAerial_gate (f : Table AntDyn → Table AntDyn) (c : Ctl) : (c.onAerial f).gate = c.gate := rfl
@[simp] theorem onAerial_matrix (f : Table AntDyn → Table AntDyn) (c : Ctl) : (c.onAerial f).matrix = c.matrix := rfl
@[simp] theorem onAerial_aerial (f : Table AntDyn → Table AntDyn) (c : Ctl) : (c.onAerial f).aerial = f c.aerial := rfl
@[simp] theorem onAerial_site (f : Table AntDyn → Table AntDyn) (c : Ctl) : (c.onAerial f).site = c.site := rfl
@[simp] theorem onAerial_store (f : Table AntDyn → Table AntDyn) (c : Ctl) : (c.onAerial f).store = c.store := rfl
@[simp] theorem onAerial_load (f : Table AntDyn → Table AntDyn) (c : Ctl) : (c.onAerial f).load = c.load := rfl
@[simp] theorem onAerial_plan (f : Table AntDyn → Table AntDyn) (c : Ctl) : (c.onAerial f).plan = c.plan := rfl
@[simp] theorem onAerial_cu (f : Table AntDyn → Table AntDyn) (c : Ctl) : (c.onAerial f).cu = c.cu := rfl
@[simp] theorem onAerial_panel (f : Table AntDyn → Table AntDyn) (c : Ctl) : (c.onAerial f).panel = c.panel := rfl
@[simp] theorem onAerial_hall (f : Table AntDyn → Table AntDyn) (c : Ctl) : (c.onAerial f).hall = c.hall := rfl
@[simp] theorem onAerial_start (f : Table AntDyn → Table AntDyn) (c : Ctl) : (c.onAerial f).start = c.start := rfl

@[simp] theorem onSite_clock (f : Site → Site) (c : Ctl) : (c.onSite f).clock = c.clock := rfl
@[simp] theorem onSite_free (f : Site → Site) (c : Ctl) : (c.onSite f).free = c.free := rfl
@[simp] theorem onSite_agenda (f : Site → Site) (c : Ctl) : (c.onSite f).agenda = c.agenda := rfl
@[simp] theorem onSite_link (f : Site → Site) (c : Ctl) : (c.onSite f).link = c.link := rfl
@[simp] theorem onSite_gate (f : Site → Site) (c : Ctl) : (c.onSite f).gate = c.gate := rfl
@[simp] theorem onSite_matrix (f : Site → Site) (c : Ctl) : (c.onSite f).matrix = c.matrix := rfl
@[simp] theorem onSite_aerial (f : Site → Site) (c : Ctl) : (c.onSite f).aerial = c.aerial := rfl
@[simp] theorem onSite_site (f : Site → Site) (c : Ctl) : (c.onSite f).site = f c.site := rfl
@[simp] theorem onSite_store (f : Site → Site) (c : Ctl) : (c.onSite f).store = c.store := rfl
@[simp] theorem onSite_load (f : Site → Site) (c : Ctl) : (c.onSite f).load = c.load := rfl
@[simp] theorem onSite_plan (f : Site → Site) (c : Ctl) : (c.onSite f).plan = c.plan := rfl
@[simp] theorem onSite_cu (f : Site → Site) (c : Ctl) : (c.onSite f).cu = c.cu := rfl
@[simp] theorem onSite_panel (f : Site → Site) (c : Ctl) : (c.onSite f).panel = c.panel := rfl
@[simp] theorem onSite_hall (f : Site → Site) (c : Ctl) : (c.onSite f).hall = c.hall := rfl
@[simp] theorem onSite_start (f : Site → Site) (c : Ctl) : (c.onSite f).start = c.start := rfl

@[simp] theorem onStore_clock (f : Store → Store) (c : Ctl) : (c.onStore f).clock = c.clock := rfl
@[simp] theorem onStore_free (f : Store → Store) (c : Ctl) : (c.onStore f).free = c.free := rfl
@[simp] theorem onStore_agenda (f : Store → Store) (c : Ctl) : (c.onStore f).agenda = c.agenda := rfl
@[simp] theorem onStore_link (f : Store → Store) (c : Ctl) : (c.onStore f).link = c.link := rfl
@[simp] theorem onStore_gate (f : Store → Store) (c : Ctl) : (c.onStore f).gate = c.gate := rfl
@[simp] theorem onStore_matrix (f : Store → Store) (c : Ctl) : (c.onStore f).matrix = c.matrix := rfl
@[simp] theorem onStore_aerial (f : Store → Store) (c : Ctl) : (c.onStore f).aerial = c.aerial := rfl
@[simp] theorem onStore_site (f : Store → Store) (c : Ctl) : (c.onStore f).site = c.site := rfl
@[simp] theorem onStore_store (f : Store → Store) (c : Ctl) : (c.onStore f).store = f c.store := rfl
@[simp] theorem onStore_load (f : Store → Store) (c : Ctl) : (c.onStore f).load = c.load := rfl
@[simp] theorem onStore_plan (f : Store → Store) (c : Ctl) : (c.onStore f).plan = c.plan := rfl
@[simp] theorem onStore_cu (f : Store → Store) (c : Ctl) : (c.onStore f).cu = c.cu := rfl
@[simp] theorem onStore_panel (f : Store → Store) (c : Ctl) : (c.onStore f).panel = c.panel := rfl
@[simp] theorem onStore_hall (f : Store → Store) (c : Ctl) : (c.onStore f).hall = c.hall := rfl
@[simp] theorem onStore_start (f : Store → Store) (c : Ctl) : (c.onStore f).start = c.start := rfl

@[simp] theorem onLoad_clock (f : Load → Load) (c : Ctl) : (c.onLoad f).clock = c.clock := rfl
@[simp] theorem onLoad_free (f : Load → Load) (c : Ctl) : (c.onLoad f).free = c.free := rfl
@[simp] theorem onLoad_agenda (f : Load → Load) (c : Ctl) : (c.onLoad f).agenda = c.agenda := rfl
@[simp] theorem onLoad_link (f : Load → Load) (c : Ctl) : (c.onLoad f).link = c.link := rfl
@[simp] theorem onLoad_gate (f : Load → Load) (c : Ctl) : (c.onLoad f).gate = c.gate := rfl
@[simp] theorem onLoad_matrix (f : Load → Load) (c : Ctl) : (c.onLoad f).matrix = c.matrix := rfl
@[simp] theorem onLoad_aerial (f : Load → Load) (c : Ctl) : (c.onLoad f).aerial = c.aerial := rfl
@[simp] theorem onLoad_site (f : Load → Load) (c : Ctl) : (c.onLoad f).site = c.site := rfl
@[simp] theorem onLoad_store (f : Load → Load) (c : Ctl) : (c.onLoad f).store = c.store := rfl
@[simp] theorem onLoad_load (f : Load → Load) (c : Ctl) : (c.onLoad f).load = f c.load := rfl
@[simp] theorem onLoad_plan (f : Load → Load) (c : Ctl) : (c.onLoad f).plan = c.plan := rfl
@[simp] theorem onLoad_cu (f : Load → Load) (c : Ctl) : (c.onLoad f).cu = c.cu := rfl
@[simp] theorem onLoad_panel (f : Load → Load) (c : Ctl) : (c.onLoad f).panel = c.panel := rfl
@[simp] theorem onLoad_hall (f : Load → Load) (c : Ctl) : (c.onLoad f).hall = c.hall := rfl
@[simp] theorem onLoad_start (f : Load → Load) (c : Ctl) : (c.onLoad f).start = c.start := rfl

@[simp] theorem onPlan_clock (f : Plan → Plan) (c : Ctl) : (c.onPlan f).clock = c.clock := rfl
@[simp] theorem onPlan_free (f : Plan → Plan) (c : Ctl) : (c.onPlan f).free = c.free := rfl
@[simp] theorem onPlan_agenda (f : Plan → Plan) (c : Ctl) : (c.onPlan f).agenda = c.agenda := rfl
@[simp] theorem onPlan_link (f : Plan → Plan) (c : Ctl) : (c.onPlan f).link = c.link := rfl
@[simp] theorem onPlan_gate (f : Plan → Plan) (c : Ctl) : (c.onPlan f).gate = c.gate := rfl
@[simp] theorem onPlan_matrix (f : Plan → Plan) (c : Ctl) : (c.onPlan f).matrix = c.matrix := rfl
@[simp] theorem onPlan_aerial (f : Plan → Plan) (c : Ctl) : (c.onPlan f).aerial = c.aerial := rfl
@[simp] theorem onPlan_site (f : Plan → Plan) (c : Ctl) : (c.onPlan f).site = c.site := rfl
@[simp] theorem onPlan_store (f : Plan → Plan) (c : Ctl) : (c.onPlan f).store = c.store := rfl
@[simp] theorem onPlan_load (f : Plan → Plan) (c : Ctl) : (c.onPlan f).load = c.load := rfl
@[simp] theorem onPlan_plan (f : Plan → Plan) (c : Ctl) : (c.onPlan f).plan = f c.plan := rfl
@[simp] theorem onPlan_cu (f : Plan → Plan) (c : Ctl) : (c.onPlan f).cu = c.cu := rfl
@[simp] theorem onPlan_panel (f : Plan → Plan) (c : Ctl) : (c.onPlan f).panel = c.panel := rfl
@[simp] theorem onPlan_hall (f : Plan → Plan) (c : Ctl) : (c.onPlan f).hall = c.hall := rfl
@[simp] theorem onPlan_start (f : Plan → Plan) (c : Ctl) : (c.onPlan f).start = c.start := rfl

@[simp] theorem onCu_clock (f : Table Ctx → Table Ctx) (c : Ctl) : (c.onCu f).clock = c.clock := rfl
@[simp] theorem onCu_free (f : Table Ctx → Table Ctx) (c : Ctl) : (c.onCu f).free = c.free := rfl
@[simp] theorem onCu_agenda (f : Table Ctx → Table Ctx) (c : Ctl) : (c.onCu f).agenda = c.agenda := rfl
@[simp] theorem onCu_link (f : Table Ctx → Table Ctx) (c : Ctl) : (c.onCu f).link = c.link := rfl
@[simp] theorem onCu_gate (f : Table Ctx → Table Ctx) (c : Ctl) : (c.onCu f).gate = c.gate := rfl
@[simp] theorem onCu_matrix (f : Table Ctx → Table Ctx) (c : Ctl) : (c.onCu f).matrix = c.matrix := rfl
@[simp] theorem onCu_aerial (f : Table Ctx → Table Ctx) (c : Ctl) : (c.onCu f).aerial = c.aerial := rfl
@[simp] theorem onCu_site (f : Table Ctx → Table Ctx) (c : Ctl) : (c.onCu f).site = c.site := rfl
@[simp] theorem onCu_store (f : Table Ctx → Table Ctx) (c : Ctl) : (c.onCu f).store = c.store := rfl
@[simp] theorem onCu_load (f : Table Ctx → Table Ctx) (c : Ctl) : (c.onCu f).load = c.load := rfl
@[simp] theorem onCu_plan (f : Table Ctx → Table Ctx) (c : Ctl) : (c.onCu f).plan = c.plan := rfl
@[simp] theorem onCu_cu (f : Table Ctx → Table Ctx) (c : Ctl) : (c.onCu f).cu = f c.cu := rfl
@[simp] theorem onCu_panel (f : Table Ctx → Table Ctx) (c : Ctl) : (c.onCu f).panel = c.panel := rfl
@[simp] theorem onCu_hall (f : Table Ctx → Table Ctx) (c : Ctl) : (c.onCu f).hall = c.hall := rfl
@[simp] theorem onCu_start (f : Table Ctx → Table Ctx) (c : Ctl) : (c.onCu f).start = c.start := rfl

@[simp] theorem onPanel_clock (f : Panel → Panel) (c : Ctl) : (c.onPanel f).clock = c.clock := rfl
@[simp] theorem onPanel_free (f : Panel → Panel) (c : Ctl) : (c.onPanel f).free = c.free := rfl
@[simp] theorem onPanel_agenda (f : Panel → Panel) (c : Ctl) : (c.onPanel f).agenda = c.agenda := rfl
@[simp] theorem onPanel_link (f : Panel → Panel) (c : Ctl) : (c.onPanel f).link = c.link := rfl
@[simp] theorem onPanel_gate (f : Panel → Panel) (c : Ctl) : (c.onPanel f).gate = c.gate := rfl
@[simp] theorem onPanel_matrix (f : Panel → Panel) (c : Ctl) : (c.onPanel f).matrix = c.matrix := rfl
@[simp] theorem onPanel_aerial (f : Panel → Panel) (c : Ctl) : (c.onPanel f).aerial = c.aerial := rfl
@[simp] theorem onPanel_site (f : Panel → Panel) (c : Ctl) : (c.onPanel f).site = c.site := rfl
@[simp] theorem onPanel_store (f : Panel → Panel) (c : Ctl) : (c.onPanel f).store = c.store := rfl
@[simp] theorem onPanel_load (f : Panel → Panel) (c : Ctl) : (c.onPanel f).load = c.load := rfl
@[simp] theorem onPanel_plan (f : Panel → Panel) (c : Ctl) : (c.onPanel f).plan = c.plan := rfl
@[simp] theorem onPanel_cu (f : Panel → Panel) (c : Ctl) : (c.onPanel f).cu = c.cu := rfl
@[simp] theorem onPanel_panel (f : Panel → Panel) (c : Ctl) : (c.onPanel f).panel = f c.panel := rfl
@[simp] theorem onPanel_hall (f : Panel → Panel) (c : Ctl) : (c.onPanel f).hall = c.hall := rfl
@[simp] theorem onPanel_start (f : Panel → Panel) (c : Ctl) : (c.onPanel f).start = c.start := rfl

@[simp] theorem onHall_clock (f : HallStop → HallStop) (c : Ctl) : (c.onHall f).clock = c.clock := rfl
@[simp] theorem onHall_free (f : HallStop → HallStop) (c : Ctl) : (c.onHall f).free = c.free := rfl
@[simp] theorem onHall_agenda (f : HallStop → HallStop) (c : Ctl) : (c.onHall f).agenda = c.agenda := rfl
@[simp] theorem onHall_link (f : HallStop → HallStop) (c : Ctl) : (c.onHall f).link = c.link := rfl
@[simp] theorem onHall_gate (f : HallStop → HallStop) (c : Ctl) : (c.onHall f).gate = c.gate := rfl
@[simp] theorem onHall_matrix (f : HallStop → HallStop) (c : Ctl) : (c.onHall f).matrix = c.matrix := rfl
@[simp] theorem onHall_aerial (f : HallStop → HallStop) (c : Ctl) : (c.onHall f).aerial = c.aerial := rfl
@[simp] theorem onHall_site (f : HallStop → HallStop) (c : Ctl) : (c.onHall f).site = c.site := rfl
@[simp] theorem onHall_store (f : HallStop → HallStop) (c : Ctl) : (c.onHall f).store = c.store := rfl
@[simp] theorem onHall_load (f : HallStop → HallStop) (c : Ctl) : (c.onHall f).load = c.load := rfl
@[simp] theorem onHall_plan (f : HallStop → HallStop) (c : Ctl) : (c.onHall f).plan = c.plan := rfl
@[simp] theorem onHall_cu (f : HallStop → HallStop) (c : Ctl) : (c.onHall f).cu = c.cu := rfl
@[simp] theorem onHall_panel (f : HallStop → HallStop) (c : Ctl) : (c.onHall f).panel = c.panel := rfl
@[simp] theorem onHall_hall (f : HallStop → HallStop) (c : Ctl) : (c.onHall f).hall = f c.hall := rfl
@[simp] theorem onHall_start (f : HallStop → HallStop) (c : Ctl) : (c.onHall f).start = c.start := rfl

@[simp] theorem onStart_clock (f : StartUp → StartUp) (c : Ctl) : (c.onStart f).clock = c.clock := rfl
@[simp] theorem onStart_free (f : StartUp → StartUp) (c : Ctl) : (c.onStart f).free = c.free := rfl
@[simp] theorem onStart_agenda (f : StartUp → StartUp) (c : Ctl) : (c.onStart f).agenda = c.agenda := rfl
@[simp] theorem onStart_link (f : StartUp → StartUp) (c : Ctl) : (c.onStart f).link = c.link := rfl
@[simp] theorem onStart_gate (f : StartUp → StartUp) (c : Ctl) : (c.onStart f).gate = c.gate := rfl
@[simp] theorem onStart_matrix (f : StartUp → StartUp) (c : Ctl) : (c.onStart f).matrix = c.matrix := rfl
@[simp] theorem onStart_aerial (f : StartUp → StartUp) (c : Ctl) : (c.onStart f).aerial = c.aerial := rfl
@[simp] theorem onStart_site (f : StartUp → StartUp) (c : Ctl) : (c.onStart f).site = c.site := rfl
@[simp] theorem onStart_store (f : StartUp → StartUp) (c : Ctl) : (c.onStart f).store = c.store := rfl
@[simp] theorem onStart_load (f : StartUp → StartUp) (c : Ctl) : (c.onStart f).load = c.load := rfl
@[simp] theorem onStart_plan (f : StartUp → StartUp) (c : Ctl) : (c.onStart f).plan = c.plan := rfl
@[simp] theorem onStart_cu (f : StartUp → StartUp) (c : Ctl) : (c.onStart f).cu = c.cu := rfl
@[simp] theorem onStart_panel (f : StartUp → StartUp) (c : Ctl) : (c.onStart f).panel = c.panel := rfl
@[simp] theorem onStart_hall (f : StartUp → StartUp) (c : Ctl) : (c.onStart f).hall = c.hall := rfl
@[simp] theorem onStart_start (f : StartUp → StartUp) (c : Ctl) : (c.onStart f).start = f c.start := rfl

@[simp] theorem push_clock (l : List Signal) (c : Ctl) : (push l c).clock = c.clock := rfl
@[simp] theorem push_free (l : List Signal) (c : Ctl) : (push l c).free = c.free := rfl
@[simp] theorem push_agenda (l : List Signal) (c : Ctl) : (push l c).agenda = c.agenda ++ l := rfl
@[simp] theorem push_link (l : List Signal) (c : Ctl) : (push l c).link = c.link := rfl
@[simp] theorem push_gate (l : List Signal) (c : Ctl) : (push l c).gate = c.gate := rfl
@[simp] theorem push_matrix (l : List Signal) (c : Ctl) : (push l c).matrix = c.matrix := rfl
@[simp] theorem push_aerial (l : List Signal) (c : Ctl) : (push l c).aerial = c.aerial := rfl
@[simp] theorem push_site (l : List Signal) (c : Ctl) : (push l c).site = c.site := rfl
@[simp] theorem push_store (l : List Signal) (c : Ctl) : (push l c).store = c.store := rfl
@[simp] theorem push_load (l : List Signal) (c : Ctl) : (push l c).load = c.load := rfl
@[simp] theorem push_plan (l : List Signal) (c : Ctl) : (push l c).plan = c.plan := rfl
@[simp] theorem push_cu (l : List Signal) (c : Ctl) : (push l c).cu = c.cu := rfl
@[simp] theorem push_panel (l : List Signal) (c : Ctl) : (push l c).panel = c.panel := rfl
@[simp] theorem push_hall (l : List Signal) (c : Ctl) : (push l c).hall = c.hall := rfl
@[simp] theorem push_start (l : List Signal) (c : Ctl) : (push l c).start = c.start := rfl

@[simp] theorem clockReaches_clock (t : Millis) (c : Ctl) : (clockReaches t c).clock = max c.clock t := rfl
@[simp] theorem clockReaches_free (t : Millis) (c : Ctl) : (clockReaches t c).free = c.free := rfl
@[simp] theorem clockReaches_agenda (t : Millis) (c : Ctl) : (clockReaches t c).agenda = c.agenda := rfl
@[simp] theorem clockReaches_link (t : Millis) (c : Ctl) : (clockReaches t c).link = c.link := rfl
@[simp] theorem clockReaches_gate (t : Millis) (c : Ctl) : (clockReaches t c).gate = c.gate := rfl
@[simp] theorem clockReaches_matrix (t : Millis) (c : Ctl) : (clockReaches t c).matrix = c.matrix := rfl
@[simp] theorem clockReaches_aerial (t : Millis) (c : Ctl) : (clockReaches t c).aerial = c.aerial := rfl
@[simp] theorem clockReaches_site (t : Millis) (c : Ctl) : (clockReaches t c).site = c.site := rfl
@[simp] theorem clockReaches_store (t : Millis) (c : Ctl) : (clockReaches t c).store = c.store := rfl
@[simp] theorem clockReaches_load (t : Millis) (c : Ctl) : (clockReaches t c).load = c.load := rfl
@[simp] theorem clockReaches_plan (t : Millis) (c : Ctl) : (clockReaches t c).plan = c.plan := rfl
@[simp] theorem clockReaches_cu (t : Millis) (c : Ctl) : (clockReaches t c).cu = c.cu := rfl
@[simp] theorem clockReaches_panel (t : Millis) (c : Ctl) : (clockReaches t c).panel = c.panel := rfl
@[simp] theorem clockReaches_hall (t : Millis) (c : Ctl) : (clockReaches t c).hall = c.hall := rfl
@[simp] theorem clockReaches_start (t : Millis) (c : Ctl) : (clockReaches t c).start = c.start := rfl

/-- A free value keeps the range of its field. -/
theorem freeBelow_lt {n : Nat} (k : Nat) (h : 0 < n) : freeBelow n k < n := Nat.mod_lt _ h

@[simp] theorem drawFree_clock (n : Nat) (c : Ctl) : (drawFree n c).clock = c.clock := rfl
@[simp] theorem drawFree_free (n : Nat) (c : Ctl) : (drawFree n c).free = c.free + n := rfl
@[simp] theorem drawFree_agenda (n : Nat) (c : Ctl) : (drawFree n c).agenda = c.agenda := rfl
@[simp] theorem drawFree_link (n : Nat) (c : Ctl) : (drawFree n c).link = c.link := rfl
@[simp] theorem drawFree_gate (n : Nat) (c : Ctl) : (drawFree n c).gate = c.gate := rfl
@[simp] theorem drawFree_matrix (n : Nat) (c : Ctl) : (drawFree n c).matrix = c.matrix := rfl
@[simp] theorem drawFree_aerial (n : Nat) (c : Ctl) : (drawFree n c).aerial = c.aerial := rfl
@[simp] theorem drawFree_site (n : Nat) (c : Ctl) : (drawFree n c).site = c.site := rfl
@[simp] theorem drawFree_store (n : Nat) (c : Ctl) : (drawFree n c).store = c.store := rfl
@[simp] theorem drawFree_load (n : Nat) (c : Ctl) : (drawFree n c).load = c.load := rfl
@[simp] theorem drawFree_plan (n : Nat) (c : Ctl) : (drawFree n c).plan = c.plan := rfl
@[simp] theorem drawFree_cu (n : Nat) (c : Ctl) : (drawFree n c).cu = c.cu := rfl
@[simp] theorem drawFree_panel (n : Nat) (c : Ctl) : (drawFree n c).panel = c.panel := rfl
@[simp] theorem drawFree_hall (n : Nat) (c : Ctl) : (drawFree n c).hall = c.hall := rfl
@[simp] theorem drawFree_start (n : Nat) (c : Ctl) : (drawFree n c).start = c.start := rfl

@[simp] theorem pushOnce_clock (x : Signal) (c : Ctl) : (pushOnce x c).clock = c.clock := by
  unfold pushOnce; split <;> rfl
@[simp] theorem pushOnce_free (x : Signal) (c : Ctl) : (pushOnce x c).free = c.free := by
  unfold pushOnce; split <;> rfl
@[simp] theorem pushOnce_link (x : Signal) (c : Ctl) : (pushOnce x c).link = c.link := by
  unfold pushOnce; split <;> rfl
@[simp] theorem pushOnce_gate (x : Signal) (c : Ctl) : (pushOnce x c).gate = c.gate := by
  unfold pushOnce; split <;> rfl
@[simp] theorem pushOnce_matrix (x : Signal) (c : Ctl) : (pushOnce x c).matrix = c.matrix := by
  unfold pushOnce; split <;> rfl
@[simp] theorem pushOnce_aerial (x : Signal) (c : Ctl) : (pushOnce x c).aerial = c.aerial := by
  unfold pushOnce; split <;> rfl
@[simp] theorem pushOnce_site (x : Signal) (c : Ctl) : (pushOnce x c).site = c.site := by
  unfold pushOnce; split <;> rfl
@[simp] theorem pushOnce_store (x : Signal) (c : Ctl) : (pushOnce x c).store = c.store := by
  unfold pushOnce; split <;> rfl
@[simp] theorem pushOnce_load (x : Signal) (c : Ctl) : (pushOnce x c).load = c.load := by
  unfold pushOnce; split <;> rfl
@[simp] theorem pushOnce_plan (x : Signal) (c : Ctl) : (pushOnce x c).plan = c.plan := by
  unfold pushOnce; split <;> rfl
@[simp] theorem pushOnce_cu (x : Signal) (c : Ctl) : (pushOnce x c).cu = c.cu := by
  unfold pushOnce; split <;> rfl
@[simp] theorem pushOnce_panel (x : Signal) (c : Ctl) : (pushOnce x c).panel = c.panel := by
  unfold pushOnce; split <;> rfl
@[simp] theorem pushOnce_hall (x : Signal) (c : Ctl) : (pushOnce x c).hall = c.hall := by
  unfold pushOnce; split <;> rfl
@[simp] theorem pushOnce_start (x : Signal) (c : Ctl) : (pushOnce x c).start = c.start := by
  unfold pushOnce; split <;> rfl

/-- A consequence is noted once. -/
theorem pushOnce_agenda (x : Signal) (c : Ctl) :
    (pushOnce x c).agenda = if x ∈ c.agenda then c.agenda else c.agenda ++ [x] := by
  unfold pushOnce; split <;> rfl

end Sys2Proof.Laws
end

