-- ==== Sys2Proof/Laws/Tables.lean ====
section
/-! SUPPORT. The finite maps of the state: what a read gives after each operation, and that each operation keeps the
canonical form (keys strictly rising, and no entry equal to what an unlisted key reads as). -/

namespace Sys2Proof.Laws
open Sys2Proof.Machine

variable {α : Type}

/-- Every key of the map lies above `k`. -/
def Above (k : Nat) (t : Table α) : Prop := ∀ p ∈ t, k < p.1

/-- A map in canonical form: keys strictly rising. -/
def Rising (t : Table α) : Prop := t.Pairwise (fun p q => p.1 < q.1)

/-- The executable check of the canonical form says the same. -/
theorem tableRising_iff (t : Table α) : tableRising t = true ↔ Rising t := by
  induction t with
  | nil => simp [tableRising, Rising]
  | cons p t ih =>
    cases t with
    | nil => simp [tableRising, Rising]
    | cons q t =>
      simp only [tableRising, Bool.and_eq_true, decide_eq_true_eq, ih, Rising]
      rw [List.pairwise_cons (a := p)]
      refine and_congr_left (fun h => ⟨fun hlt r hr => ?_, fun hall => hall q (by simp)⟩)
      rcases List.mem_cons.mp hr with rfl | hr
      · exact hlt
      · exact Nat.lt_trans hlt ((List.pairwise_cons.mp h).1 r hr)

theorem tget_above {k : Nat} {t : Table α} (h : Above k t) : tget k t = none := by
  induction t with
  | nil => rfl
  | cons p t ih =>
    have hp := h p (by simp)
    simp only [tget]
    rw [if_neg (by omega)]
    exact ih (fun q hq => h q (by simp [hq]))

@[simp] theorem tget_tset_same (k : Nat) (v : α) (t : Table α) : tget k (tset k v t) = some v := by
  induction t with
  | nil => simp [tset, tget]
  | cons p t ih =>
    obtain ⟨j, w⟩ := p
    by_cases h1 : k < j
    · simp [tset, h1, tget]
    · by_cases h2 : k = j
      · simp [tset, h2, tget]
      · simp [tset, h1, h2, tget, ih, Ne.symm h2]

theorem tget_tset_other {k j : Nat} (v : α) (t : Table α) (h : j ≠ k) : tget j (tset k v t) = tget j t := by
  induction t with
  | nil => simp [tset, tget, Ne.symm h]
  | cons p t ih =>
    obtain ⟨i, w⟩ := p
    by_cases h1 : k < i
    · simp [tset, h1, tget, Ne.symm h]
    · by_cases h2 : k = i
      · subst h2; simp [tset, tget, Ne.symm h]
      · simp [tset, h1, h2, tget, ih]

@[simp] theorem tget_terase_same (k : Nat) (t : Table α) : tget k (terase k t) = none := by
  induction t with
  | nil => rfl
  | cons p t ih =>
    obtain ⟨i, w⟩ := p
    by_cases h : i = k <;> simp [terase, tget, h, ih]

theorem tget_terase_other {k j : Nat} (t : Table α) (h : j ≠ k) : tget j (terase k t) = tget j t := by
  induction t with
  | nil => rfl
  | cons p t ih =>
    obtain ⟨i, w⟩ := p
    by_cases h1 : i = k
    · subst h1; simp [terase, tget, Ne.symm h, ih]
    · by_cases h2 : i = j
      · subst h2; simp [terase, tget, h]
      · simp [terase, tget, h1, h2, ih]

/-- A write to another key of a map with a default leaves this key as it reads. -/
theorem tget_tput_other [DecidableEq α] {k j : Nat} (d v : α) (t : Table α) (h : j ≠ k) :
    tget j (tput d k v t) = tget j t := by
  unfold tput; split
  · exact tget_terase_other t h
  · exact tget_tset_other v t h

/-- A written key of a map with a default reads as what was written. -/
theorem tget_tput_same [DecidableEq α] (d v : α) (k : Nat) (t : Table α) :
    (tget k (tput d k v t)).getD d = v := by
  unfold tput; split
  · rename_i h; simp [h]
  · simp

theorem tget_mem {k : Nat} {t : Table α} {v : α} (h : tget k t = some v) : (k, v) ∈ t := by
  induction t with
  | nil => cases h
  | cons p t ih =>
    obtain ⟨j, w⟩ := p
    unfold tget at h
    split at h
    · rename_i hj; cases h; subst hj; exact List.mem_cons_self
    · exact List.mem_cons_of_mem _ (ih h)

theorem mem_tset {k : Nat} {v : α} {t : Table α} {p : Nat × α} (h : p ∈ tset k v t) : p = (k, v) ∨ p ∈ t := by
  induction t with
  | nil => simpa [tset] using h
  | cons q t ih =>
    obtain ⟨i, w⟩ := q
    simp only [tset] at h
    split at h
    · simp at h ⊢; tauto
    · split at h
      · simp at h ⊢; tauto
      · simp only [List.mem_cons] at h ⊢
        rcases h with h | h
        · exact .inr (.inl h)
        · rcases ih h with h | h
          · exact .inl h
          · exact .inr (.inr h)

theorem mem_terase {k : Nat} {t : Table α} {p : Nat × α} (h : p ∈ terase k t) : p ∈ t := by
  induction t with
  | nil => simp [terase] at h
  | cons q t ih =>
    simp only [terase] at h
    split at h
    · exact List.mem_cons_of_mem _ (ih h)
    · rcases List.mem_cons.mp h with h | h
      · simp [h]
      · exact List.mem_cons_of_mem _ (ih h)

theorem tset_rising {k : Nat} {v : α} {t : Table α} (h : Rising t) : Rising (tset k v t) := by
  induction t with
  | nil => simp [tset, Rising]
  | cons q t ih =>
    obtain ⟨i, w⟩ := q
    obtain ⟨ha, ht⟩ := List.pairwise_cons.mp h
    simp only [tset]
    split
    · refine List.pairwise_cons.mpr ⟨?_, h⟩
      intro p hp
      rcases List.mem_cons.mp hp with rfl | hp
      · assumption
      · have := ha p hp; simp only at this ⊢; omega
    · split
      · rename_i hk; subst hk; exact List.pairwise_cons.mpr ⟨ha, ht⟩
      · refine List.pairwise_cons.mpr ⟨?_, ih ht⟩
        intro p hp
        rcases mem_tset hp with rfl | hp
        · simp only; omega
        · exact ha p hp

theorem terase_rising {k : Nat} {t : Table α} (h : Rising t) : Rising (terase k t) := by
  induction t with
  | nil => simp [terase, Rising]
  | cons q t ih =>
    obtain ⟨ha, ht⟩ := List.pairwise_cons.mp h
    simp only [terase]
    split
    · exact ih ht
    · exact List.pairwise_cons.mpr ⟨fun p hp => ha p (mem_terase hp), ih ht⟩

theorem tmod_rising {k : Nat} {f : α → α} {t : Table α} (h : Rising t) : Rising (tmod k f t) := by
  unfold tmod; split
  · exact tset_rising h
  · exact h

/-- A write to a map with a default keeps its canonical form. -/
theorem tput_rising [DecidableEq α] {d v : α} {k : Nat} {t : Table α} (h : Rising t) : Rising (tput d k v t) := by
  unfold tput; split
  · exact terase_rising h
  · exact tset_rising h

theorem tput_no_default [DecidableEq α] {d v : α} {k : Nat} {t : Table α} (h : ∀ p ∈ t, p.2 ≠ d) :
    ∀ p ∈ tput d k v t, p.2 ≠ d := by
  unfold tput
  split
  · exact fun p hp => h p (mem_terase hp)
  · rename_i hv
    intro p hp
    rcases mem_tset hp with rfl | hp
    · exact hv
    · exact h p hp

end Sys2Proof.Laws
end

