-- ==== Sys2Proof/Laws/Settle.lean ====
section
/-! SUPPORT. How the consequences of a step settle: a consequence that finds nothing to do leaves everything as it is, and
a step whose consequences are all of that kind ends with them removed. -/

namespace Sys2Proof.Laws
open Sys2Proof.Machine

/-- A consequence that changes nothing, whatever else is still due. -/
def Inert (x : Signal) (c : Ctl) : Prop := ∀ l, handle x { c with agenda := l } = { c with agenda := l }

/-- Whatever of a controller the columns are not judged by may change unnoted. -/
theorem sameColumns_of_reads {c c' : Ctl} (hp : c'.matrix.paths.map Path.view = c.matrix.paths.map Path.view)
    (ht : ∀ n, (txDyn c' n).map TxDyn.view = (txDyn c n).map TxDyn.view) : sameColumns c c' = true := by
  simp only [sameColumns, hp, ht, decide_true, Bool.true_and]
  simp

theorem sameColumns_of {c c' : Ctl} (hp : c'.matrix.paths = c.matrix.paths) (ht : c'.gate.tx = c.gate.tx) :
    sameColumns c c' = true :=
  sameColumns_of_reads (by rw [hp]) (fun n => by simp only [txDyn, ht])

/-- A change of a transmitter's record that leaves what columns are judged by. -/
theorem txDyn_modTx_view {n k : Nat} {f : TxDyn → TxDyn} {c : Ctl} (hf : ∀ d, (f d).view = d.view) :
    (txDyn (modTx n f c) k).map TxDyn.view = (txDyn c k).map TxDyn.view := by
  simp only [txDyn, modTx, Ctl.onGate, tmod]
  split
  · next d h =>
    by_cases hk : k = n
    · subst hk; simp [h, hf]
    · rw [tget_tset_other _ _ hk]
  · rfl

theorem noteColumns_same {before c : Ctl} (h : sameColumns before c = true) : noteColumns before c = c := by
  simp [noteColumns, h]

theorem noteColumns_of {before c : Ctl} (hp : c.matrix.paths = before.matrix.paths) (ht : c.gate.tx = before.gate.tx) :
    noteColumns before c = c :=
  noteColumns_same (sameColumns_of hp ht)

/-- All that noting a change can do: the contexts are to judge their columns again. -/
theorem noteColumns_eq (before c : Ctl) :
    noteColumns before c = c ∨ noteColumns before c = { c with agenda := c.agenda ++ [.columns] } := by
  unfold noteColumns pushOnce push
  repeat' split
  · exact .inl rfl
  · exact .inl rfl
  · exact .inr rfl

theorem settle_nil {c : Ctl} (h : c.agenda = []) (fuel : Nat) : settle fuel c = c := by
  cases fuel <;> simp [settle, h]

theorem settle_inert : ∀ (fuel : Nat) (c : Ctl), (∀ x ∈ c.agenda, Inert x c) → c.agenda.length ≤ fuel →
    settle fuel c = { c with agenda := [] }
  | 0, c, _, hl => by
    have : c.agenda = [] := List.eq_nil_of_length_eq_zero (Nat.le_zero.mp hl)
    rw [settle_nil this, ← this]
  | fuel + 1, c, h, hl => by
    match hc : c.agenda with
    | [] => rw [settle_nil hc, ← hc]
    | x :: rest =>
      simp only [settle, hc]
      rw [hc] at hl
      rw [h x (by simp [hc]) rest, noteColumns_of (before := c) (c := { c with agenda := rest }) rfl rfl]
      exact settle_inert fuel { c with agenda := rest } (fun y hy l => h y (by simp [hc, hy]) l)
        (by simpa using hl)

theorem opsChoose_taken {c : Ctl} (h : (c.link.opsTx.isSome || c.link.opsHeldOff) = true) : opsChoose c = c := by
  simp only [opsChoose, h, if_true]

/-- The end of a step whose consequences find nothing to do, while the operations transmitter does not choose. -/
theorem finish_inert {c : Ctl} (h : ∀ x ∈ c.agenda, Inert x c) (hl : c.agenda.length ≤ 16384)
    (ho : (c.link.opsTx.isSome || c.link.opsHeldOff) = true) : finish c = { c with agenda := [] } := by
  rw [finish, settle_inert settleLimit c h hl]
  exact opsChoose_taken ho

theorem finish_still {c : Ctl} (h : c.agenda = []) (ho : (c.link.opsTx.isSome || c.link.opsHeldOff) = true) :
    finish c = c := by
  rw [finish, settle_nil h, opsChoose_taken ho]

/-- A step whose command changes nothing that columns are judged by settles what the command leaves due, and no more. -/
theorem act_unnoted {f : Ctl → Ctl} {s : State} (hp : (f s.ctl).matrix.paths = s.ctl.matrix.paths)
    (ht : (f s.ctl).gate.tx = s.ctl.gate.tx) : act f s = .next { s with ctl := finish (f s.ctl) } := by
  rw [act, noteColumns_of hp ht]

/-- Whatever a step's command changes, one consequence at most is due beyond those the command leaves. -/
theorem act_eq (f : Ctl → Ctl) (s : State) :
    act f s = .next { s with ctl := finish (f s.ctl) } ∨
    act f s = .next { s with ctl := finish { f s.ctl with agenda := (f s.ctl).agenda ++ [.columns] } } := by
  unfold act
  rcases noteColumns_eq s.ctl (f s.ctl) with h | h <;> rw [h]
  · exact .inl rfl
  · exact .inr rfl

/-! ## Consequences that find nothing to do -/

theorem inert_slot {c : Ctl} (h1 : c.link.urgentWaiters = []) (h2 : c.link.internalWaiters = []) : Inert .slot c := by
  intro l; simp [handle, giveSlot, h1, h2]

theorem inert_opsTake {c : Ctl} (h : c.link.opsInput = []) : Inert .opsTake c := by
  intro l; simp [handle, opsTake, h]

theorem arbiterRound_empty {c : Ctl} (h : c.matrix.queue = []) : ∀ fuel, arbiterRound fuel c = c
  | 0 => rfl
  | fuel + 1 => by
    simp only [arbiterRound, h, insertSort]
    split
    · rfl
    · rfl

theorem inert_arbiter {c : Ctl} (h : c.matrix.queue = []) : Inert .arbiter c := by
  intro l; exact arbiterRound_empty (c := { c with agenda := l }) h _

theorem busyCtx_none {c : Ctl} (h : ∀ p ∈ c.cu, p.2.busy = false) (n : Nat) : busyCtx c n = none := by
  have key : ∀ (t : Table Ctx), (∀ p ∈ t, p.2.busy = false) → ∀ x, tget n t = some x → x.busy = false := by
    intro t
    induction t with
    | nil => intro _ x hx; simp [tget] at hx
    | cons p t ih =>
      intro ht x hx
      simp only [tget] at hx
      split at hx
      · cases hx; exact ht p (by simp)
      · exact ih (fun q hq => ht q (by simp [hq])) x hx
  unfold busyCtx
  split
  · next x hx => simp [key c.cu h x hx]
  · rfl

theorem busyCtxs_none {c : Ctl} (h : ∀ p ∈ c.cu, p.2.busy = false) : busyCtxs c = [] := by
  simp only [busyCtxs, List.filter_eq_nil_iff]
  intro p hp; simp [h p hp]

theorem forEach_id {α : Type} {f : α → Ctl → Ctl} {c : Ctl} (l : List α) (h : ∀ x ∈ l, f x c = c) :
    forEach l f c = c := by
  induction l with
  | nil => rfl
  | cons x t ih =>
    simp only [forEach, List.foldl_cons] at *
    rw [h x (by simp)]
    exact ih (fun y hy => h y (by simp [hy]))

theorem forEach_nil {α : Type} (f : α → Ctl → Ctl) (c : Ctl) : forEach [] f c = c := rfl

theorem forEach_cons {α : Type} (x : α) (t : List α) (f : α → Ctl → Ctl) (c : Ctl) :
    forEach (x :: t) f c = forEach t f (f x c) := rfl

theorem inert_columns {c : Ctl} (h : ∀ p ∈ c.cu, p.2.busy = false) : Inert .columns c := by
  intro l
  refine forEach_id _ (fun n _ => ?_)
  have : busyCtx { c with agenda := l } n = none := busyCtx_none h n
  simp [this]

theorem inert_engine {c : Ctl} (h : c.store.op.isSome = true) : Inert .engine c := by
  intro l; simp [handle, engine, h]

theorem inert_intake {c : Ctl} (h : c.load.state = .none) : Inert .intake c := by
  intro l; simp [handle, intake, h]

theorem offerWhere_empty {c : Ctl} (h : c.plan.events = []) (p : Event → Bool) : offerWhere p c = c := by
  simp [offerWhere, h, forEach]

theorem inert_dispatch {c : Ctl} (h : c.plan.events = []) : Inert .dispatch c :=
  fun l => offerWhere_empty (c := { c with agenda := l }) h _
theorem inert_ctxFreed {c : Ctl} (h : c.plan.events = []) : Inert .ctxFreed c :=
  fun l => offerWhere_empty (c := { c with agenda := l }) h _
theorem inert_offerLog {c : Ctl} (h : c.plan.events = []) : Inert .offerLog c :=
  fun l => offerWhere_empty (c := { c with agenda := l }) h _
theorem inert_offerReturned {c : Ctl} (h : c.plan.events = []) (n : Nat) : Inert (.offerReturned n) c :=
  fun l => offerWhere_empty (c := { c with agenda := l }) h _

theorem removeEvents_empty {c : Ctl} (h : c.plan.events = []) (p : Event → Bool) : removeEvents p c = c := by
  simp only [removeEvents, Ctl.onPlan]
  rw [show (c.plan.events.filter (fun v => !p v)) = c.plan.events by simp [h]]

theorem inert_occFailed {c : Ctl} (h : c.plan.events = []) (o : Occ) : Inert (.occFailed o) c :=
  fun l => removeEvents_empty (c := { c with agenda := l }) h _

theorem recheckWhere_empty {c : Ctl} (h : c.gate.held = []) (p : Held → Bool) : recheckWhere p c = c := by
  simp [recheckWhere, h, forEach]

theorem inert_recheckPath {c : Ctl} (h : c.gate.held = []) (n : Nat) : Inert (.recheckPath n) c :=
  fun l => recheckWhere_empty (c := { c with agenda := l }) h _
theorem inert_recheckPower {c : Ctl} (h : c.gate.held = []) (n : Nat) : Inert (.recheckPower n) c :=
  fun l => recheckWhere_empty (c := { c with agenda := l }) h _
theorem inert_recheckTx {c : Ctl} (h : c.gate.held = []) (n : Nat) : Inert (.recheckTx n) c :=
  fun l => recheckWhere_empty (c := { c with agenda := l }) h _

theorem inert_watch {c : Ctl} (h : c.hall.inForce = false) (n : Nat) : Inert (.watch n) c := by
  intro l
  have hs : txStatic { c with agenda := l } n = txStatic c n := rfl
  simp only [handle, carrierWatch, hs, h, Bool.false_eq_true, false_and, if_false]
  split <;> rfl

theorem inert_surveyCheck {c : Ctl} (h : c.start.phase = .running) : Inert .surveyCheck c := by
  intro l; simp [handle, surveyCheck, h]
theorem inert_adoptCheck {c : Ctl} (h : c.start.phase = .running) : Inert .adoptCheck c := by
  intro l; simp [handle, adoptCheck, h]

/-- The interlock does nothing for a transmitter whose interlock condition is not met. -/
theorem inert_interlock {c : Ctl} {n : Nat} (h : interlockCondition c n = false) : Inert (.interlock n) c := by
  intro l
  have hd : txDyn { c with agenda := l } n = txDyn c n := rfl
  have hi : interlockCondition { c with agenda := l } n = interlockCondition c n := rfl
  simp only [handle, interlock, interlockNow, hd, hi, h]
  split
  · split <;> simp
  · rfl

/-- No withdrawal is due for a transmitter that no queued CARRIER_ON is for. -/
theorem inert_withdraw {c : Ctl} {n : Nat}
    (h : ∀ q ∈ c.link.plantQueue, q.frame.verb ≠ .carrierOn ∨ ∀ st, txStatic c n = some st → q.frame.dest ≠ st.station) :
    Inert (.withdraw n) c := by
  intro l
  simp only [handle, withdraw, txStatic, txDyn, carrierOnQueued]
  split
  · next st d hs hd =>
    have : (c.link.plantQueue.any (fun q => q.frame.dest == st.station && q.frame.verb == .carrierOn)) = false := by
      simp only [List.any_eq_false]
      intro q hq
      rcases h q hq with hv | hv
      · simp [hv]
      · simp [hv st hs]
    simp [this]
  · rfl

/-- No withdrawal is due for a transmitter that is not live, where every queued CARRIER_ON has its transmitter live. -/
theorem inert_withdraw_live {c : Ctl} {n : Nat} (h : CarriersLive c) (hl : txLive c n = false) : Inert (.withdraw n) c := by
  refine inert_withdraw (fun q hq => ?_)
  by_cases hv : q.frame.verb = .carrierOn
  · refine .inr (fun st hs hd => ?_)
    have := h q hq hv (n, st) (tget_mem hs) hd.symm
    rw [hl] at this
    exact Bool.false_ne_true this
  · exact .inl hv

/-- No queued POWER is to be fitted for a transmitter whose row has no proven path. -/
theorem inert_fitPower {c : Ctl} {n : Nat} (h : ∀ p, claimPath c n = some p → p.state ≠ .proven) :
    Inert (.fitPower n) c := by
  intro l
  have h3 : claimPath { c with agenda := l } n = claimPath c n := rfl
  simp only [handle, fitPower, h3]
  split
  · next p _ _ hp => simp [h p hp]
  · rfl

/-- No queued POWER is to be fitted where the plant queue holds none for the transmitter's station. -/
theorem inert_fitPower_empty {c : Ctl} {n : Nat} (h : c.link.plantQueue = []) : Inert (.fitPower n) c := by
  intro l
  simp only [handle, fitPower, removeQueued, h, rewritePowers, Ctl.onLink, List.filter_nil, List.map_nil,
    List.isEmpty_nil, if_true]
  repeat' split
  all_goals first
    | rfl
    | rw [← h]; done
    | rw [forEach_nil, ← h]

theorem inert_holdEnd {c : Ctl} {n : Nat} (h : ∀ d, txDyn c n = some d → d.owner ≠ .operations) :
    Inert (.holdEnd n) c := by
  intro l
  have hd : txDyn { c with agenda := l } n = txDyn c n := rfl
  simp only [handle, endOpsHold, hd]
  split
  · next d h1 => simp [h d h1]
  · rfl

theorem inert_ctxRecord {c : Ctl} {n : Nat} {report : Bool} (h : ∀ p ∈ c.cu, p.2.busy = false) :
    Inert (.ctxRecord n report) c := by
  intro l
  have hd : txDyn { c with agenda := l } n = txDyn c n := rfl
  have hb : ∀ k, busyCtx { c with agenda := l } k = none := fun k => busyCtx_none h k
  simp only [handle, ctxRecord, hd]
  split
  · rfl
  · split
    · simp [hb]
    · rfl

theorem inert_activation {c : Ctl} (h : activationDue c = none) : Inert .activation c := by
  intro l
  have hd : activationDue { c with agenda := l } = activationDue c := rfl
  simp [handle, activation, hd, h]

/-- The end of an exchange of operations origin that no job is behind. -/
theorem inert_ended_ops {c : Ctl} {e : Entry} {o : Option Outcome} {code st tag : Nat}
    (ho : e.origin = .ops st tag) (h : jobOf c (entryFrame e) = none) : Inert (.ended e o code) c := by
  intro l
  have hd : jobOf { c with agenda := l } (entryFrame e) = jobOf c (entryFrame e) := rfl
  simp only [handle, exchangeEnded, ho, jobExchangeEnded, hd, h]

/-- The plant port, while it sends, does not choose. -/
theorem inert_port {c : Ctl} (h : c.link.plantTx.isSome = true) : Inert .port c := by
  intro l; simp [handle, portChoose, h]

/-! ## The line of consequences -/

theorem pushOnce_new {x : Signal} {c : Ctl} (h : x ∉ c.agenda) : pushOnce x c = { c with agenda := c.agenda ++ [x] } := by
  simp [pushOnce, push, h]

theorem pushOnce_again {x : Signal} {c : Ctl} (h : x ∈ c.agenda) : pushOnce x c = c := by
  simp [pushOnce, h]

theorem portChoose_taken {c : Ctl} (h : c.link.plantTx.isSome = true) : portChoose c = c := by simp [portChoose, h]

end Sys2Proof.Laws
end

