-- ==== Sys2Proof/Laws/Ports.lean ====
section
/-! SUPPORT. What the Link Interface does with a frame it takes, said once: a frame to the controller reaches its owner, a
frame to a plant station reaches the gate, and an answer goes into the place the frame reserved. -/

namespace Sys2Proof.Laws
open Sys2Proof.Machine

/-- The place a taken frame reserves. -/
def reserve (c : Ctl) : Ctl := c.onLink (fun k => { k with reserved := k.reserved + 1 })

theorem takes_frame {c : Ctl} {f : Frame} (h : Takes c f.src f.tag f.payload)
    (hk : f.kind = .order ∨ f.kind = .latch ∨ (f.kind = .load ∧ f.dest = 120)) :
    opsFrameEnds f c = routeOps f (reserve c) := by
  obtain ⟨h1, h2, h3, h4, h5, h6⟩ := h
  have hd : opsDiscards f = false := by
    have a1 : ¬ 128 ≤ f.tag := by omega
    have a2 : ¬ Config.maxPayload < f.payload.length := by simp only [Config.maxPayload]; omega
    rcases hk with hk | hk | ⟨hk, hd⟩
    · simp [opsDiscards, isOpsAddress, Config.opsLow, Config.opsHigh, h1, h2, a1, a2, hk]
    · simp [opsDiscards, isOpsAddress, Config.opsLow, Config.opsHigh, h1, h2, a1, a2, hk]
    · simp [opsDiscards, isOpsAddress, Config.opsLow, Config.opsHigh, h1, h2, a1, a2, hk, hd, Config.ownStation]
  have hr : opsRoom c.link = true := by simp [opsRoom, Config.opsPlaces, h5]
  simp [opsFrameEnds, hd, hr, h6, takeOps, reserve]

theorem takes_ownOrder {c : Ctl} {o : OwnOrder} {v : Nat} {f : OwnOrder → Ctl → Ctl} (h : Takes c o.src o.tag o.payload)
    (hv : ownerOf v = some f) : opsFrameEnds (ownOrder v o) c = f o (reserve c) := by
  rw [takes_frame (f := ownOrder v o) h (Or.inl rfl)]
  simp [routeOps, ownOrder, routeOwn, hv, Machine.orderOf]

theorem takes_loadFrame {c : Ctl} {o : OwnOrder} {v : Nat} (h : Takes c o.src o.tag o.payload) :
    opsFrameEnds (loadFrame v o) c = routeOwn (loadFrame v o) (reserve c) := by
  rw [takes_frame (f := loadFrame v o) h (Or.inr (Or.inr ⟨rfl, rfl⟩))]
  simp [routeOps, loadFrame]

theorem takes_plant {c : Ctl} {f : Frame} (h : Takes c f.src f.tag f.payload) (hk : f.kind = .order ∨ f.kind = .latch)
    (hd : f.dest ≤ 119) : opsFrameEnds f c = routePlant f (reserve c) := by
  rw [takes_frame h (by tauto)]
  have a1 : ¬ f.dest = 120 := by omega
  have a2 : ¬ 121 ≤ f.dest := by omega
  simp [routeOps, Config.ownStation, isOpsAddress, Config.opsLow, Config.opsHigh, a1, a2]

/-- No slot that this step has freed is still to be given: the waiters go on waiting. -/
theorem fillSlots_idle {c : Ctl} (h : Signal.slot ∉ c.agenda) : fillSlots c = c := by simp [fillSlots, h]

/-- Nobody waits for a slot. -/
theorem fillSlots_empty {c : Ctl} (h1 : c.link.urgentWaiters = []) (h2 : c.link.internalWaiters = []) :
    fillSlots c = c := by simp [fillSlots, h1, h2, giveSlots]

/-- A frame of the class's verbs to a transmitter goes to the gate. -/
theorem takes_transmitter {c : Ctl} {o : PlantOrder} {v : Nat} (h : Takes c o.src o.tag o.payload)
    (hs : Signal.slot ∉ c.agenda) (hd : o.dest ≤ 119) (hc : stationClass c.site.work o.dest = some .transmitter) (hv : 1 ≤ v ∧ v ≤ 6) :
    opsFrameEnds (plantOrder v o) c =
      takeFrame (gateFrame o (parseTransmitterVerb v o.payload)) (reserve c) := by
  rw [takes_plant (f := plantOrder v o) h (Or.inl rfl) hd]
  have hc' : stationClass (reserve c).site.work o.dest = some .transmitter := hc
  simp [routePlant, plantOrder, hc', verbOfClass, hv, gatePassed, offer, fillSlots_idle (c := reserve c) hs, offerNow,
    gateFrame]

/-- A frame of the class's verbs to a drive goes to the gate. -/
theorem takes_drive {c : Ctl} {o : PlantOrder} {v : Nat} (h : Takes c o.src o.tag o.payload)
    (hs : Signal.slot ∉ c.agenda) (hd : o.dest ≤ 119) (hc : stationClass c.site.work o.dest = some .drive) (hv : 6 ≤ v ∧ v ≤ 9) :
    opsFrameEnds (plantOrder v o) c =
      takeFrame (gateFrame o (parseDriveVerb v o.payload)) (reserve c) := by
  rw [takes_plant (f := plantOrder v o) h (Or.inl rfl) hd]
  have hc' : stationClass (reserve c).site.work o.dest = some .drive := hc
  simp [routePlant, plantOrder, hc', verbOfClass, hv, gatePassed, offer, fillSlots_idle (c := reserve c) hs, offerNow,
    gateFrame]

/-! ## Answers into the reserved place -/

theorem reserve_answerOps (dest tag verb : Nat) (p : List Byte) (c : Ctl) :
    answerOps dest tag verb p (reserve c) =
      { c with link := withAnswer { dest := dest, src := 120, tag := tag, verb := verb, payload := p } c.link } := by
  simp [answerOps, reserve, Ctl.onLink, withAnswer, Config.ownStation]

theorem reserve_answerDone (dest tag verb : Nat) (p : List Byte) (c : Ctl) :
    answerDone dest tag verb p (reserve c) =
      { c with link := withAnswer (ownAnswer dest tag verb 1 0 p) c.link } := by
  simp [answerDone, reserve_answerOps, u8, ownAnswer]

theorem reserve_answerAccepted (dest tag verb : Nat) (c : Ctl) :
    answerAccepted dest tag verb (reserve c) =
      { c with link := withAnswer (ownAnswer dest tag verb 2 0 []) c.link } := by
  simp [answerAccepted, reserve_answerOps, u8, ownAnswer]

theorem reserve_answerRefused (dest tag verb code : Nat) (p : List Byte) (c : Ctl) :
    answerRefused dest tag verb code p (reserve c) =
      { c with link := withAnswer (ownAnswer dest tag verb 3 code p) c.link } := by
  simp [answerRefused, reserve_answerOps, u8, ownAnswer]

end Sys2Proof.Laws
end

