-- ==== Sys2Proof/Laws/Gate.lean ====
section
/-! SUPPORT. What the Traffic Gate does with a frame of an operations station, said once: its verdict at a ready
transmitter or drive, the answer to one it refuses, and the place in the plant queue of one it passes. -/

namespace Sys2Proof.Laws
open Sys2Proof.Machine

theorem verdict_reserve (f : PFrame) (c : Ctl) : gateVerdict f (reserve c) = gateVerdict f c := rfl

theorem ops_fills (o : PlantOrder) (v : PlantVerb) : fillsRecords (.ops o.src o.tag) v = false := by simp [fillsRecords, ownOrigin]

/-- At a ready transmitter the verdict is the rule of the verb. -/
theorem verdict_transmitter {c : Ctl} {o : PlantOrder} {v : PlantVerb} {n : Nat} {st : TxStatic} {d : TxDyn}
    (h : TxReady c o.dest n st d) : gateVerdict (gateFrame o v) c = transmitterVerbVerdict c n st d v := by
  have hw : ownedByOther d (.ops o.src o.tag) = false := by
    have := h.notOwned
    unfold ownedByCtx at this; unfold ownedByOther
    cases hd : d.owner <;> simp_all
  simp [gateVerdict, gateFrame, h.known, h.here, h.static, h.dynamic, transmitterVerdict, ops_fills, h.running, h.notLocal,
    hw]

/-- At a ready drive the verdict is that of the checks of R53. -/
theorem verdict_drive {c : Ctl} {o : PlantOrder} {v : PlantVerb} {a : Nat} {st : AntStatic} {d : AntDyn}
    (h : DriveReady c o.dest a st d) : gateVerdict (gateFrame o v) c = driveVerdict c a st (gateFrame o v) := by
  simp [gateVerdict, gateFrame, h.known, h.here, h.static]

/-- A refused frame of an operations station is answered into the place its order reserved. -/
theorem take_refused {c : Ctl} {o : PlantOrder} {v : PlantVerb} {r : Reason}
    (h : gateVerdict (gateFrame o v) c = .refuse r) :
    takeFrame (gateFrame o v) (reserve c) =
      { c with link := withAnswer (ownAnswer o.src o.tag v.code 3 r.code (gateDetail r)) c.link } := by
  simp only [takeFrame, verdict_reserve, h, refuseBy, refuseFrame]
  exact reserve_answerRefused _ _ _ _ _ _

/-- A frame of an operations station that the gate passes, rewritten or not, joins the plant queue if there is room. -/
theorem take_passed {c : Ctl} {o : PlantOrder} {v w : PlantVerb} {clamped : Option (Nat × Nat)}
    (h : gateVerdict (gateFrame o v) c = .pass w clamped) (hp : PortRoom c)
    (ht : (clampNotice o.dest clamped (onAdmission { tag := o.tag, frame := gateFrame o w }
      { c with link := withPassed o w c.link })).link.plantTx.isSome = true) :
    takeFrame (gateFrame o v) (reserve c) =
      clampNotice o.dest clamped (onAdmission { tag := o.tag, frame := gateFrame o w }
        { c with link := withPassed o w c.link }) := by
  have hr : roomForPassed (reserve c).link = true := hp.room
  have he : enqueue (gateFrame o w) clamped (reserve c) = portChoose (clampNotice o.dest clamped
      (onAdmission { tag := o.tag, frame := gateFrame o w } { c with link := withPassed o w c.link })) := rfl
  have hf : ({ gateFrame o v with verb := w } : PFrame) = gateFrame o w := rfl
  have hc : (gateFrame o w).cls = .passed := rfl
  simp only [takeFrame, verdict_reserve, h, hf, place, hc, hr, if_true, he]
  exact portChoose_taken ht

/-! ## A band that becomes known or changes (R51) -/

@[simp] theorem bandNews_self (n : Nat) (c : Ctl) : bandNews n c c = [] := by simp [bandNews]

/-- All that a record can do about the power: nothing, or ask that the queued POWER frames be fitted to another band. -/
theorem bandNews_cases (n : Nat) (b c : Ctl) :
    bandNews n b c = [] ∧ bandKnown c n = bandKnown b n ∨
      bandNews n b c = [.fitPower n] ∧ bandKnown c n ≠ bandKnown b n := by
  unfold bandNews; split <;> simp_all

/-! ## The tag of a proof's READ (R78, R82) -/

/-- All that a change of the tag can do to a path: its proof had the old tag and has the new, or the path is as it was. -/
theorem retag_cases (o n : Option Nat) (p : Path) :
    p.proof = .inProgress o ∧ p.retag o n = { p with proof := .inProgress n } ∨
      p.proof ≠ .inProgress o ∧ p.retag o n = p := by
  unfold Path.retag; split <;> simp_all

@[simp] theorem retag_pid (o n : Option Nat) (p : Path) : (p.retag o n).pid = p.pid := by unfold Path.retag; split <;> rfl
@[simp] theorem retag_tx (o n : Option Nat) (p : Path) : (p.retag o n).tx = p.tx := by unfold Path.retag; split <;> rfl
@[simp] theorem retag_state (o n : Option Nat) (p : Path) : (p.retag o n).state = p.state := by
  unfold Path.retag; split <;> rfl

end Sys2Proof.Laws
end

