-- ==== Sys2Proof/Laws/Keeps.lean ====
section
/-! SUPPORT. One relation between two states that every operation of the controller keeps: soundness is carried over, a
number of places of the operations send queue stay reserved beyond those owed, and the controller's clock does not go
back. Its lemmas for the updates and the shared operations of every block. -/

namespace Sys2Proof.Laws
open Sys2Proof.Machine

set_option Elab.async false

variable {due : Nat}

/-- From `c0` to `c`, soundness is carried over, `due` reserved places are left for orders that the step still owes an
answer, and the clock has not gone back. -/
structure Keeps (due : Nat) (c0 c : Ctl) : Prop where
  sound : Sound c0 → Sound c
  spare : Sound c0 → owedPlaces c + due ≤ c.link.reserved
  clock : c0.clock ≤ c.clock

theorem Keeps.refl (c : Ctl) : Keeps 0 c c := ⟨id, fun s => s.bounds.owed, Nat.le_refl _⟩

theorem Keeps.trans {c0 c1 c2 : Ctl} (h : Keeps 0 c0 c1) (h' : Keeps due c1 c2) : Keeps due c0 c2 :=
  ⟨fun s => h'.sound (h.sound s), fun s => h'.spare (h.sound s), Nat.le_trans h.clock h'.clock⟩

/-- A reserved place that no order needs may stay. -/
theorem Keeps.fewer {n : Nat} {c0 c : Ctl} (h : Keeps (due + n) c0 c) : Keeps due c0 c :=
  ⟨h.sound, fun s => by have := h.spare s; omega, h.clock⟩

/-! ## Updates of one block -/

/-- Everything soundness asks of the Link Interface; `rest` places are owed elsewhere or due. -/
structure LinkSound (rest : Nat) (k : Link) : Prop where
  plantQueue : k.plantQueue.length ≤ 32
  passed : (k.plantQueue.filter (fun q => q.frame.cls == .passed)).length ≤ 16
  table : k.table.length ≤ 10
  others : (k.table.filter (fun e => e.cls != .urgent)).length ≤ 8
  reports : k.reports.length ≤ 32
  places : k.reserved + k.answers.length ≤ 64
  owed : owedOf (·.frame.origin) k.plantQueue + owedOf (·.origin) k.table + owedOf (·.origin) k.urgentWaiters +
    owedOf (·.origin) k.internalWaiters + rest ≤ k.reserved

/-- Places owed outside the Link Interface. -/
def owedElsewhere (c : Ctl) : Nat := owedOf (·.frame.origin) c.gate.held + c.load.close.toList.length

theorem Keeps.link {c0 c : Ctl} (h : Keeps due c0 c) (s : Sound c0) : LinkSound (owedElsewhere c + due) c.link := by
  obtain ⟨b, _, _, _⟩ := h.sound s
  refine ⟨b.plantQueue, b.passed, b.table, b.others, b.reports, b.places, ?_⟩
  have := h.spare s
  unfold owedPlaces at this; unfold owedElsewhere; omega

/-- A state is sound as far as the Link Interface allows, where the rest is as it was. -/
theorem Keeps.relink {due' : Nat} {c0 c c' : Ctl} (h : Keeps due c0 c)
    (hl : Sound c0 → LinkSound (owedElsewhere c + due) c.link → LinkSound (owedElsewhere c' + due') c'.link)
    (hh : Sound c0 → c.gate.held.length ≤ 12 → c'.gate.held.length ≤ 12 := by exact fun _ h => h)
    (hm : Sound c0 → c.matrix.queue.length ≤ 32 → c'.matrix.queue.length ≤ 32 := by exact fun _ h => h)
    (hk : Sound c0 → (tableRising c.matrix.slots = true ∧ ∀ p ∈ c.matrix.slots, 1 ≤ p.1 ∧ p.1 ≤ 4) →
      (tableRising c'.matrix.slots = true ∧ ∀ p ∈ c'.matrix.slots, 1 ≤ p.1 ∧ p.1 ≤ 4) := by exact fun _ h => h)
    (hq : Sound c0 → c.store.queue.length ≤ 8 → c'.store.queue.length ≤ 8 := by exact fun _ h => h)
    (he : Sound c0 → c.plan.events.length ≤ 256 → c'.plan.events.length ≤ 256 := by exact fun _ h => h)
    (hp : Sound c0 → PanelSound c.panel → PanelSound c'.panel := by exact fun _ h => h)
    (hs : Sound c0 → SiteSound c → SiteSound c' := by exact fun _ h => ⟨h.1, h.2, h.3, h.4⟩)
    (hst : Sound c0 → HallSound c.hall → HallSound c'.hall := by exact fun _ h => h)
    (hc : c.clock ≤ c'.clock := by exact Nat.le_refl _) : Keeps due' c0 c' := by
  have all : Sound c0 → Sound c' ∧ owedPlaces c' + due' ≤ c'.link.reserved := fun s => by
    obtain ⟨b, p, q, u⟩ := h.sound s
    have k := hl s (h.link s)
    have ho := k.owed
    unfold owedElsewhere at ho
    refine ⟨⟨⟨k.places, ?_, k.plantQueue, k.passed, k.table, k.others, k.reports, hh s b.held, hm s b.moves,
      hk s b.slots, hq s b.storeQueue, he s b.plan⟩, hp s p, hs s q, hst s u⟩, ?_⟩ <;> (unfold owedPlaces; omega)
  exact ⟨fun s => (all s).1, fun s => (all s).2, Nat.le_trans h.clock hc⟩

/-- An update that leaves all that soundness reads as it was. -/
theorem Keeps.same {c0 c c' : Ctl} (h : Keeps due c0 c)
    (hl : LinkSound (owedElsewhere c + due) c.link → LinkSound (owedElsewhere c' + due) c'.link := by
      exact fun k => ⟨k.1, k.2, k.3, k.4, k.5, k.6, k.7⟩)
    (h1 : c'.gate.held = c.gate.held := by exact rfl) (h2 : c'.matrix.queue = c.matrix.queue := by exact rfl)
    (h3 : c'.matrix.slots = c.matrix.slots := by exact rfl) (h4 : c'.store.queue = c.store.queue := by exact rfl)
    (h5 : c'.plan.events = c.plan.events := by exact rfl) (h6 : c'.panel = c.panel := by exact rfl)
    (h7 : c'.site.work = c.site.work := by exact rfl) (h8 : c'.site.image1 = c.site.image1 := by exact rfl)
    (h9 : c'.site.image2 = c.site.image2 := by exact rfl) (h10 : c'.store.op = c.store.op := by exact rfl)
    (h11 : c'.hall = c.hall := by exact rfl) (h12 : c.clock ≤ c'.clock := by exact Nat.le_refl _) :
    Keeps due c0 c' :=
  h.relink (fun _ k => hl k) (fun _ x => h1 ▸ x) (fun _ x => h2 ▸ x) (fun _ x => h3 ▸ x) (fun _ x => h4 ▸ x)
    (fun _ x => h5 ▸ x) (fun _ x => h6 ▸ x) (fun _ x => ⟨h7 ▸ x.1, h8 ▸ x.2, h9 ▸ x.3, h10 ▸ x.4⟩) (fun _ x => h11 ▸ x) h12

theorem onLink_keepsIf {due' : Nat} {c0 c : Ctl} {f : Link → Link}
    (hf : Sound c0 → ∀ n, LinkSound (n + due) c.link → LinkSound (n + due') (f c.link)) (h : Keeps due c0 c) :
    Keeps due' c0 (c.onLink f) := h.relink (fun s k => hf s _ k)

theorem onLink_keeps {due' : Nat} {c0 c : Ctl} {f : Link → Link}
    (hf : ∀ n, LinkSound (n + due) c.link → LinkSound (n + due') (f c.link)) (h : Keeps due c0 c) :
    Keeps due' c0 (c.onLink f) := onLink_keepsIf (fun _ => hf) h

/-- An update of the Link Interface that leaves its queues and its places as they were. -/
theorem onLink_same {c0 c : Ctl} {f : Link → Link} (h : Keeps due c0 c)
    (h1 : (f c.link).plantQueue = c.link.plantQueue := by exact rfl) (h2 : (f c.link).table = c.link.table := by exact rfl)
    (h3 : (f c.link).reports = c.link.reports := by exact rfl) (h4 : (f c.link).reserved = c.link.reserved := by exact rfl)
    (h5 : (f c.link).answers = c.link.answers := by exact rfl)
    (h6 : (f c.link).urgentWaiters = c.link.urgentWaiters := by exact rfl)
    (h7 : (f c.link).internalWaiters = c.link.internalWaiters := by exact rfl) : Keeps due c0 (c.onLink f) :=
  onLink_keeps (fun _ k => ⟨h1 ▸ k.1, h1 ▸ k.2, h2 ▸ k.3, h2 ▸ k.4, h3 ▸ k.5, by rw [h4, h5]; exact k.6,
    by rw [h1, h2, h4, h6, h7]; exact k.7⟩) h

theorem onGate_keeps {due' : Nat} {c0 c : Ctl} {f : Gate → Gate} (h : Keeps due c0 c)
    (hf : c.gate.held.length ≤ 12 → (f c.gate).held.length ≤ 12)
    (ho : owedOf (·.frame.origin) (f c.gate).held + due' ≤ owedOf (·.frame.origin) c.gate.held + due) :
    Keeps due' c0 (c.onGate f) :=
  h.relink (fun _ k => ⟨k.1, k.2, k.3, k.4, k.5, k.6, by
    have := k.7; unfold owedElsewhere at *; simp only [Ctl.onGate]; omega⟩) (fun _ => hf)

theorem onGate_same {c0 c : Ctl} {f : Gate → Gate} (h : Keeps due c0 c) (hf : (f c.gate).held = c.gate.held) :
    Keeps due c0 (c.onGate f) := onGate_keeps h (fun x => hf ▸ x) (by rw [hf])

theorem onMatrix_keeps {c0 c : Ctl} {f : Matrix → Matrix} (h : Keeps due c0 c)
    (hf : c.matrix.queue.length ≤ 32 → (f c.matrix).queue.length ≤ 32)
    (hs : (f c.matrix).slots = c.matrix.slots := by exact rfl) :
    Keeps due c0 (c.onMatrix f) := h.relink (fun _ k => k) (hm := fun _ => hf) (hk := fun _ x => hs ▸ x)

/-- An update of the movement slots that keeps their numbers. -/
theorem onMatrix_slots {c0 c : Ctl} {f : Matrix → Matrix} (h : Keeps due c0 c)
    (hf : c.matrix.queue.length ≤ 32 → (f c.matrix).queue.length ≤ 32)
    (hk : (tableRising c.matrix.slots = true ∧ ∀ p ∈ c.matrix.slots, 1 ≤ p.1 ∧ p.1 ≤ 4) →
      (tableRising (f c.matrix).slots = true ∧ ∀ p ∈ (f c.matrix).slots, 1 ≤ p.1 ∧ p.1 ≤ 4)) :
    Keeps due c0 (c.onMatrix f) := h.relink (fun _ k => k) (hm := fun _ => hf) (hk := fun _ => hk)

theorem onMatrix_same {c0 c : Ctl} {f : Matrix → Matrix} (h : Keeps due c0 c) (hf : (f c.matrix).queue = c.matrix.queue)
    (hs : (f c.matrix).slots = c.matrix.slots := by exact rfl) :
    Keeps due c0 (c.onMatrix f) := onMatrix_keeps h (fun x => hf ▸ x) hs

theorem onAerial_keeps {c0 c : Ctl} {f : Table AntDyn → Table AntDyn} (h : Keeps due c0 c) : Keeps due c0 (c.onAerial f) :=
  h.same
theorem onLoad_keeps {due' : Nat} {c0 c : Ctl} {f : Load → Load} (h : Keeps due c0 c)
    (hf : (f c.load).close.toList.length + due' ≤ c.load.close.toList.length + due) : Keeps due' c0 (c.onLoad f) :=
  h.relink (fun _ k => ⟨k.1, k.2, k.3, k.4, k.5, k.6, by
    have := k.7; unfold owedElsewhere at *; simp only [Ctl.onLoad]; omega⟩)
theorem onLoad_same {c0 c : Ctl} {f : Load → Load} (h : Keeps due c0 c) (hf : (f c.load).close = c.load.close) :
    Keeps due c0 (c.onLoad f) := onLoad_keeps h (by rw [hf])
theorem onPlan_keeps {c0 c : Ctl} {f : Plan → Plan} (h : Keeps due c0 c)
    (hf : c.plan.events.length ≤ 256 → (f c.plan).events.length ≤ 256) : Keeps due c0 (c.onPlan f) :=
  h.relink (fun _ k => k) (he := fun _ => hf)
theorem onPlan_same {c0 c : Ctl} {f : Plan → Plan} (h : Keeps due c0 c) (hf : (f c.plan).events = c.plan.events) :
    Keeps due c0 (c.onPlan f) := onPlan_keeps h (fun x => hf ▸ x)
theorem onCu_keeps {c0 c : Ctl} {f : Table Ctx → Table Ctx} (h : Keeps due c0 c) : Keeps due c0 (c.onCu f) := h.same
theorem onHall_keeps {c0 c : Ctl} {f : HallStop → HallStop} (h : Keeps due c0 c)
    (hf : HallSound c.hall → HallSound (f c.hall)) : Keeps due c0 (c.onHall f) :=
  h.relink (fun _ k => k) (hst := fun _ => hf)
theorem onStart_keeps {c0 c : Ctl} {f : StartUp → StartUp} (h : Keeps due c0 c) : Keeps due c0 (c.onStart f) := h.same

theorem onStore_same {c0 c : Ctl} {f : Store → Store} (h : Keeps due c0 c) (hf : (f c.store).op = c.store.op)
    (hq : (f c.store).queue.length ≤ c.store.queue.length := by exact Nat.le_refl _) : Keeps due c0 (c.onStore f) :=
  h.relink (fun _ k => k) (hq := fun _ x => Nat.le_trans hq x) (hs := fun _ x => ⟨x.1, x.2, x.3, fun t ht => x.4 t (hf ▸ ht)⟩)

/-- A store update after which no tables are being saved, and the queue is no longer than it was. -/
theorem onStore_keeps {c0 c : Ctl} {f : Store → Store} (h : Keeps due c0 c)
    (hf : savedTables (f c.store).op = none ∨ (f c.store).op = c.store.op)
    (hq : (f c.store).queue.length ≤ c.store.queue.length := by exact Nat.le_refl _) : Keeps due c0 (c.onStore f) :=
  h.relink (fun _ k => k) (hq := fun _ x => Nat.le_trans hq x) (hs := fun _ x => ⟨x.1, x.2, x.3, fun t ht => by
    rcases hf with hf | hf
    · rw [show (c.onStore f).store.op = (f c.store).op from rfl, hf] at ht; cases ht
    · exact x.4 t (hf ▸ ht)⟩)

theorem onSite_keeps {c0 c : Ctl} {f : Site → Site} (h : Keeps due c0 c)
    (hw : Consistent c.site.work → Consistent (f c.site).work)
    (h1 : ∀ i, (f c.site).image1 = some i → c.site.image1 = some i ∨ Consistent i.tables)
    (h2 : ∀ i, (f c.site).image2 = some i → c.site.image2 = some i ∨ Consistent i.tables) :
    Keeps due c0 (c.onSite f) :=
  h.relink (fun _ k => k) (hs := fun _ x =>
    ⟨hw x.1, fun i hi => (h1 i hi).elim (x.2 i) id, fun i hi => (h2 i hi).elim (x.3 i) id, x.4⟩)

theorem onSite_same {c0 c : Ctl} {f : Site → Site} (h : Keeps due c0 c) (h1 : (f c.site).work = c.site.work)
    (h2 : (f c.site).image1 = c.site.image1) (h3 : (f c.site).image2 = c.site.image2) : Keeps due c0 (c.onSite f) :=
  h.same (h7 := h1) (h8 := h2) (h9 := h3)

theorem onPanel_keeps {c0 c : Ctl} {f : Panel → Panel} (h : Keeps due c0 c)
    (hf : PanelSound c.panel → PanelSound (f c.panel)) : Keeps due c0 (c.onPanel f) :=
  h.relink (fun _ k => k) (hp := fun _ => hf)

/-! ## Signals, clock, free values, iteration -/

theorem agenda_keeps {c0 c : Ctl} (l : List Signal) (h : Keeps due c0 c) : Keeps due c0 { c with agenda := l } := h.same

theorem push_keeps {c0 c : Ctl} {l : List Signal} (h : Keeps due c0 c) : Keeps due c0 (push l c) := agenda_keeps _ h

theorem pushOnce_keeps {c0 c : Ctl} {x : Signal} (h : Keeps due c0 c) : Keeps due c0 (pushOnce x c) := by
  unfold pushOnce; split
  · exact h
  · exact push_keeps h

theorem clockReaches_keeps {c0 c : Ctl} {t : Millis} (h : Keeps due c0 c) : Keeps due c0 (clockReaches t c) :=
  h.same (h12 := Nat.le_max_left _ _)

theorem drawFree_keeps {c0 c : Ctl} {n : Nat} (h : Keeps due c0 c) : Keeps due c0 (drawFree n c) := h.same

theorem forEach_keeps {α : Type} {c0 : Ctl} {f : α → Ctl → Ctl} (hf : ∀ x c, Keeps due c0 c → Keeps due c0 (f x c))
    (l : List α) : ∀ {c : Ctl}, Keeps due c0 c → Keeps due c0 (forEach l f c) := by
  unfold forEach
  induction l with
  | nil => intro c h; exact h
  | cons x t ih => intro c h; exact ih (hf x c h)

/-- Each element uses up the places due to it. -/
theorem forEach_pays {α : Type} {c0 : Ctl} {f : α → Ctl → Ctl} (price : α → Nat)
    (hf : ∀ n x c, Keeps (n + price x) c0 c → Keeps n c0 (f x c)) (l : List α) :
    ∀ {c : Ctl}, Keeps (due + (l.map price).sum) c0 c → Keeps due c0 (forEach l f c) := by
  unfold forEach
  induction l with
  | nil => intro c h; exact h
  | cons x t ih =>
    intro c h
    refine ih (hf _ x c ?_)
    have e : due + ((x :: t).map price).sum = due + (t.map price).sum + price x := by
      simp only [List.map_cons, List.sum_cons]; omega
    exact e ▸ h

/-! ## Lists -/

/-- One, where the origin is an operations station that is owed an answer. -/
def priceOf (o : Origin) : Nat := if ownOrigin o then 0 else 1

theorem owedOf_nil {α : Type} (g : α → Origin) : owedOf g [] = 0 := rfl

theorem owedOf_cons {α : Type} (g : α → Origin) (x : α) (l : List α) : owedOf g (x :: l) = owedOf g l + priceOf (g x) := by
  unfold owedOf priceOf; rw [List.countP_cons]; cases ownOrigin (g x) <;> simp

theorem owedOf_append {α : Type} (g : α → Origin) (l m : List α) : owedOf g (l ++ m) = owedOf g l + owedOf g m := by
  unfold owedOf; exact List.countP_append

theorem owedOf_filter_le {α : Type} (g : α → Origin) (p : α → Bool) (l : List α) : owedOf g (l.filter p) ≤ owedOf g l := by
  induction l with
  | nil => exact Nat.le_refl _
  | cons x t ih =>
    rw [List.filter_cons, owedOf_cons]
    split
    · rw [owedOf_cons]; omega
    · omega

/-- A list falls into the elements that `p` holds of and the others. -/
theorem owedOf_split {α : Type} (g : α → Origin) (p : α → Bool) (l : List α) :
    owedOf g (l.filter (fun x => !p x)) + ((l.filter p).map (fun x => priceOf (g x))).sum = owedOf g l := by
  induction l with
  | nil => rfl
  | cons x t ih =>
    rw [owedOf_cons]
    simp only [List.filter_cons]
    cases hp : p x
    · simp only [Bool.not_false, Bool.false_eq_true, if_true, if_false, owedOf_cons]; omega
    · simp only [Bool.not_true, Bool.false_eq_true, if_true, if_false, List.map_cons, List.sum_cons]; omega

theorem owedOf_dropFirst_le {α : Type} (g : α → Origin) (p : α → Bool) (l : List α) :
    owedOf g (dropFirst p l) ≤ owedOf g l := by
  induction l with
  | nil => exact Nat.le_refl _
  | cons x t ih =>
    unfold dropFirst; split
    · rw [owedOf_cons]; omega
    · rw [owedOf_cons, owedOf_cons]; omega

/-- The removal of an element of the list. -/
theorem owedOf_drop {α : Type} [DecidableEq α] (g : α → Origin) {y : α} {l : List α} (hm : y ∈ l) :
    owedOf g (dropFirst (fun x => decide (x = y)) l) + priceOf (g y) = owedOf g l := by
  induction l with
  | nil => cases hm
  | cons x t ih =>
    unfold dropFirst
    by_cases hx : x = y
    · subst hx; simp only [decide_true, if_true]; rw [owedOf_cons]
    · simp only [hx, decide_false, Bool.false_eq_true, if_false]
      have := ih ((List.mem_cons.1 hm).resolve_left (fun h => hx h.symm))
      rw [owedOf_cons, owedOf_cons]; omega

theorem owedOf_mapFirst {α : Type} (g : α → Origin) (p : α → Bool) (f : α → α) (hf : ∀ x, g (f x) = g x) (l : List α) :
    owedOf g (mapFirst p f l) = owedOf g l := by
  induction l with
  | nil => rfl
  | cons x t ih =>
    unfold mapFirst; split
    · rw [owedOf_cons, owedOf_cons, hf]
    · rw [owedOf_cons, owedOf_cons, ih]

theorem owedOf_map {α : Type} (g : α → Origin) (f : α → α) (hf : ∀ x, g (f x) = g x) (l : List α) :
    owedOf g (l.map f) = owedOf g l := by
  induction l with
  | nil => rfl
  | cons x t ih => rw [List.map_cons, owedOf_cons, owedOf_cons, hf, ih]

theorem length_dropFirst_le {α : Type} (p : α → Bool) (l : List α) : (dropFirst p l).length ≤ l.length := by
  induction l with
  | nil => exact Nat.le_refl _
  | cons x t ih =>
    unfold dropFirst; split
    · exact Nat.le_succ _
    · exact Nat.succ_le_succ ih

theorem filter_dropFirst_le {α : Type} (q p : α → Bool) (l : List α) :
    ((dropFirst p l).filter q).length ≤ (l.filter q).length := by
  induction l with
  | nil => exact Nat.le_refl _
  | cons x t ih =>
    unfold dropFirst; split
    · simp only [List.filter_cons]; split <;> simp
    · simp only [List.filter_cons]; split <;> simp [ih]

theorem length_mapFirst {α : Type} (p : α → Bool) (f : α → α) (l : List α) : (mapFirst p f l).length = l.length := by
  induction l with
  | nil => rfl
  | cons x t ih => unfold mapFirst; split <;> simp [ih]

theorem filter_mapFirst {α : Type} (q p : α → Bool) (f : α → α) (hf : ∀ x, q (f x) = q x) (l : List α) :
    ((mapFirst p f l).filter q).length = (l.filter q).length := by
  induction l with
  | nil => rfl
  | cons x t ih =>
    unfold mapFirst; split
    · simp only [List.filter_cons, hf]; split <;> rfl
    · simp only [List.filter_cons]; split <;> simp [ih]

/-! ## The movement slots -/

theorem slots_tset {t : Table Movement} {k : Nat} {v : Movement} (hk : 1 ≤ k ∧ k ≤ 4)
    (h : tableRising t = true ∧ ∀ p ∈ t, 1 ≤ p.1 ∧ p.1 ≤ 4) :
    tableRising (tset k v t) = true ∧ ∀ p ∈ tset k v t, 1 ≤ p.1 ∧ p.1 ≤ 4 :=
  ⟨(tableRising_iff _).2 (tset_rising ((tableRising_iff _).1 h.1)), fun p hp =>
    (mem_tset hp).elim (fun e => e ▸ hk) (h.2 p)⟩

/-- A change of one movement slot keeps the numbers of the slots. -/
theorem slots_tmod {t : Table Movement} (k : Nat) (f : Movement → Movement)
    (h : tableRising t = true ∧ ∀ p ∈ t, 1 ≤ p.1 ∧ p.1 ≤ 4) :
    tableRising (tmod k f t) = true ∧ ∀ p ∈ tmod k f t, 1 ≤ p.1 ∧ p.1 ≤ 4 := by
  unfold tmod; split
  · rename_i hv; exact slots_tset (h.2 _ (tget_mem hv)) h
  · exact h

theorem slots_terase {t : Table Movement} (k : Nat) (h : tableRising t = true ∧ ∀ p ∈ t, 1 ≤ p.1 ∧ p.1 ≤ 4) :
    tableRising (terase k t) = true ∧ ∀ p ∈ terase k t, 1 ≤ p.1 ∧ p.1 ≤ 4 :=
  ⟨(tableRising_iff _).2 (terase_rising ((tableRising_iff _).1 h.1)), fun p hp => h.2 p (mem_terase hp)⟩

/-! ## Reports -/

theorem queueReport_sound {n : Nat} {r : Report} {k : Link} (h : LinkSound n k) : LinkSound n (queueReport r k) := by
  obtain ⟨h1, h2, h3, h4, h5, h6, h7⟩ := h
  unfold queueReport
  split
  · exact ⟨h1, h2, h3, h4, by simp only [List.length_append, List.length_singleton]; unfold Config.reportQueueSize at *; omega, h6, h7⟩
  · split
    · split
      · rename_i rs hrs
        refine ⟨h1, h2, h3, h4, ?_, h6, h7⟩
        unfold withoutOldestNotice at hrs
        split at hrs
        · rename_i hany
          cases hrs
          have : (dropFirst (fun r => !r.kind.isAlarm) k.reports).length + 1 ≤ k.reports.length := by
            clear h5
            generalize k.reports = l at hany
            induction l with
            | nil => simp at hany
            | cons x t ih =>
              unfold dropFirst
              split
              · simp
              · rename_i hx
                simp only [List.any_cons, hx, Bool.false_or] at hany
                have := ih (by simpa using hany)
                simp only [List.length_cons]; omega
          simp only [List.length_append, List.length_singleton]; omega
        · cases hrs
      · exact ⟨h1, h2, h3, h4, h5, h6, h7⟩
    · exact ⟨h1, h2, h3, h4, h5, h6, h7⟩

theorem raise_keeps {c0 c : Ctl} {kind : ReportKind} {subject : Subject} {detail qualifier : Nat} {figure : Option Int}
    {ref : Option Ref} (h : Keeps due c0 c) : Keeps due c0 (raise kind subject detail qualifier figure ref c) :=
  onLink_keeps (fun _ => queueReport_sound) h

end Sys2Proof.Laws
end

