-- ==== Sys2Proof/Laws/KeepsGate.lean ====
section
/-! SUPPORT. The operations of the Link Interface and the Traffic Gate carry soundness over and do not turn the clock
    back. -/

set_option linter.unreachableTactic false
set_option linter.unusedTactic false

namespace Sys2Proof.Laws
open Sys2Proof.Machine

variable {due : Nat}

theorem setXp_keeps {c0 c : Ctl} {row col : Nat} {x : Xp} (h : Keeps due c0 c) : Keeps due c0 (setXp row col x c) := by
  unfold setXp
  repeat' (with_reducible first
    | exact h | apply onMatrix_same | rfl)
  all_goals rfl

theorem setPathRec_keeps {c0 c : Ctl} {p : Path} (h : Keeps due c0 c) : Keeps due c0 (setPathRec p c) := by
  unfold setPathRec
  repeat' (with_reducible first
    | exact h | apply onMatrix_same | rfl | split)
  all_goals rfl

/-- An answer takes one of the places due. -/
theorem answerOps_keeps {c0 c : Ctl} {dest tag verb : Nat} {payload : List Byte} (h : Keeps (due + 1) c0 c) :
    Keeps due c0 (answerOps dest tag verb payload c) :=
  onLink_keeps (fun _ k => ⟨k.1, k.2, k.3, k.4, k.5, by
    have h6 := k.6; have h7 := k.7
    simp only [List.length_append, List.length_singleton]; omega, by have h7 := k.7; simp only; omega⟩) h

theorem answerDone_keeps {c0 c : Ctl} {dest tag verb : Nat} {result : List Byte} (h : Keeps (due + 1) c0 c) : Keeps due c0
    (answerDone dest tag verb result c) := by
  unfold answerDone
  repeat' (with_reducible first
    | exact h | apply answerOps_keeps)

theorem answerAccepted_keeps {c0 c : Ctl} {dest tag verb : Nat} (h : Keeps (due + 1) c0 c) : Keeps due c0 (answerAccepted dest tag
    verb c) := by
  unfold answerAccepted
  repeat' (with_reducible first
    | exact h | apply answerOps_keeps)

theorem answerRefused_keeps {c0 c : Ctl} {dest tag verb code : Nat} {detail : List Byte} (h : Keeps (due + 1) c0 c) : Keeps due c0
    (answerRefused dest tag verb code detail c) := by
  unfold answerRefused
  repeat' (with_reducible first
    | exact h | apply answerOps_keeps)

theorem releasePlace_keeps {c0 c : Ctl} (h : Keeps (due + 1) c0 c) : Keeps due c0 (releasePlace c) :=
  pushOnce_keeps (onLink_keeps (fun _ k => ⟨k.1, k.2, k.3, k.4, k.5, by have h6 := k.6; simp only; omega, by
    have h7 := k.7; simp only; omega⟩) h)

/-- A frame is taken, and reserves a place. -/
theorem reserve_keeps {c0 c : Ctl} (hr : opsRoom c.link = true) (h : Keeps due c0 c) :
    Keeps (due + 1) c0 (c.onLink (fun k => { k with reserved := k.reserved + 1 })) :=
  onLink_keeps (fun _ k => ⟨k.1, k.2, k.3, k.4, k.5, by
    have hr := of_decide_eq_true hr; unfold Config.opsPlaces at hr; simp only; omega, by
    have h7 := k.7; simp only; omega⟩) h

theorem forwardStray_keeps {c0 c : Ctl} {a : Answer} (h : Keeps due c0 c) : Keeps due c0 (forwardStray a c) := by
  unfold forwardStray
  split
  · rename_i hr
    exact onLink_keeps (fun _ k => ⟨k.1, k.2, k.3, k.4, k.5, by
      have hr := of_decide_eq_true hr; unfold Config.opsPlaces at hr
      simp only [List.length_append, List.length_singleton]; omega, k.7⟩) h
  · exact h

/-- The operations transmitter's choice marks the record it sends and changes no length. -/
theorem opsChoose_keeps {c0 c : Ctl} (h : Keeps due c0 c) : Keeps due c0 (opsChoose c) := by
  unfold opsChoose
  split
  · exact h
  · split
    · exact h.same
    · split
      · exact h.same
      · split
        · rename_i r rs hr
          exact h.relink (fun _ k => ⟨k.1, k.2, k.3, k.4, by have h5 := k.5; rw [hr] at h5; exact h5, k.6, k.7⟩)
        · exact h

theorem opsSent_keeps {c0 c : Ctl} (h : Keeps due c0 c) : Keeps due c0 (opsSent c) := by
  unfold opsSent
  split
  · exact pushOnce_keeps (onLink_keeps (fun _ k => ⟨k.1, k.2, k.3, k.4, k.5, by
      have h6 := k.6; simp only [List.length_drop]; omega, k.7⟩) h)
  · exact onLink_keeps (fun _ k => ⟨k.1, k.2, k.3, k.4, Nat.le_trans (length_dropFirst_le _ _) k.5, k.6, k.7⟩) h
  · exact onLink_same h
  · exact h

theorem stationHeard_keeps {c0 c : Ctl} {addr : Nat} (h : Keeps due c0 c) : Keeps due c0 (stationHeard addr c) :=
  h.same

theorem stationSilent_keeps {c0 c : Ctl} {addr : Nat} (h : Keeps due c0 c) : Keeps due c0 (stationSilent addr c) := by
  unfold stationSilent
  repeat' (with_reducible first
    | exact h | apply raise_keeps | apply onLink_same | rfl | split)
  all_goals rfl

theorem ofWork_keeps {c0 c : Ctl} {o : Origin} {f : Ctx → Ctx} (h : Keeps due c0 c) : Keeps due c0 (ofWork o f c) := by
  unfold ofWork
  repeat' (with_reducible first
    | exact h | apply onCu_keeps | split)

theorem jobLeft_keeps {c0 c : Ctl} {f : PFrame} (h : Keeps due c0 c) : Keeps due c0 (jobLeft f c) := by
  unfold jobLeft
  repeat' (with_reducible first
    | exact h | apply onAerial_keeps | split)

theorem noteLeft_keeps {c0 c : Ctl} {q : Queued} (h : Keeps due c0 c) : Keeps due c0 (noteLeft q c) := by
  unfold noteLeft
  repeat' (with_reducible first
    | exact h | apply jobLeft_keeps | apply ofWork_keeps | apply onGate_same | split)
  · exact onMatrix_slots h id (slots_tmod _ _)
  all_goals rfl

theorem portHead_mem {k : Link} {q : Queued} (h : portHead k = some q) : q ∈ k.plantQueue := by
  unfold portHead at h
  split at h
  · rename_i hq; cases h; exact List.mem_of_find?_eq_some hq
  · split at h
    · rename_i hq; cases h; exact List.mem_of_find?_eq_some hq
    · exact List.mem_of_head? h

/-- The port takes a frame only where the outstanding-order table has room for its class. -/
theorem portChoose_keeps {c0 c : Ctl} (h : Keeps due c0 c) : Keeps due c0 (portChoose c) := by
  unfold portChoose
  split
  · exact h
  · split
    · exact h
    · rename_i q hq
      split
      · rename_i hroom
        refine pushOnce_keeps (noteLeft_keeps (onLink_keeps (fun _ k => ?_) h))
        unfold tableRoom at hroom
        simp only [Bool.and_eq_true, decide_eq_true_eq, Bool.or_eq_true] at hroom
        simp only [Config.tableSize, Config.tableOtherLimit] at hroom
        refine ⟨Nat.le_trans (length_dropFirst_le _ _) k.1, Nat.le_trans (filter_dropFirst_le _ _ _) k.2, ?_, ?_, k.5,
          k.6, ?_⟩
        · simp only [List.length_append, List.length_singleton]; omega
        · simp only [List.filter_append, List.length_append]
          have := k.4
          by_cases hu : q.frame.cls = .urgent
          · simp [entryFor, hu]; simpa using this
          · have hlt : (c.link.table.filter (fun e => e.cls != .urgent)).length < 8 := by
              rcases hroom.2 with hh | hh
              · exact absurd (by simpa using hh) hu
              · exact hh
            have h1 : ([entryFor q].filter (fun e => e.cls != .urgent)).length ≤ 1 :=
              List.length_filter_le _ _
            omega
        · have h7 := k.7
          have hd := owedOf_drop (·.frame.origin) (portHead_mem hq)
          simp only [owedOf_append, owedOf_cons, owedOf_nil]
          have : priceOf (entryFor q).origin = priceOf q.frame.origin := rfl
          omega
      · exact h

theorem plantSent_keeps {c0 c : Ctl} (h : Keeps due c0 c) : Keeps due c0 (plantSent c) := by
  unfold plantSent
  split
  · exact h
  · refine portChoose_keeps (onLink_keeps (fun _ k => ⟨k.1, k.2, ?_, ?_, k.5, k.6, ?_⟩) h)
    · rw [length_mapFirst]; exact k.3
    · exact (filter_mapFirst _ _ (fun e => { e with sent := some c.clock }) (fun _ => rfl) _).le.trans k.4
    · have h7 := k.7
      simp only
      rw [owedOf_mapFirst (fun e : Entry => e.origin) _ (fun e => { e with sent := some c.clock }) (fun _ => rfl)]
      exact h7

/-- The end of an entry makes the place of its order due. -/
theorem endEntry_keeps {c0 c : Ctl} {e : Entry} (he : e ∈ c.link.table) (h : Keeps due c0 c) :
    Keeps (due + priceOf e.origin) c0 (endEntry e c) :=
  onLink_keeps (fun _ k => ⟨k.1, k.2, Nat.le_trans (length_dropFirst_le _ _) k.3,
    Nat.le_trans (filter_dropFirst_le _ _ _) k.4, k.5, k.6, by
      have h7 := k.7
      have hd := owedOf_drop (·.origin) he
      simp only; omega⟩) h

/-- A refused frame of an operations station takes the place due to it. -/
theorem refuseFrame_keeps {c0 c : Ctl} {f : PFrame} {code : Nat} {detail : List Byte}
    (h : Keeps (due + priceOf f.origin) c0 c) : Keeps due c0 (refuseFrame f code detail c) := by
  unfold refuseFrame
  split
  · rename_i ho; rw [ho] at h; exact answerRefused_keeps h
  · exact push_keeps h.fewer

theorem refuseBy_keeps {c0 c : Ctl} {f : PFrame} {r : Reason} (h : Keeps (due + priceOf f.origin) c0 c) :
    Keeps due c0 (refuseBy f r c) := by
  unfold refuseBy
  repeat' (with_reducible first
    | exact h | apply refuseFrame_keeps)

theorem modTx_keeps {c0 c : Ctl} {n : Nat} {f : TxDyn → TxDyn} (h : Keeps due c0 c) : Keeps due c0 (modTx n f c) := by
  unfold modTx
  repeat' (with_reducible first
    | exact h | apply onGate_same | rfl)
  all_goals rfl

theorem carrierChanged_keeps {c0 c : Ctl} (h : Keeps due c0 c) : Keeps due c0 (carrierChanged c) := by
  unfold carrierChanged
  repeat' (with_reducible first
    | exact h | apply pushOnce_keeps)

theorem unadmitted_keeps {c0 c : Ctl} {f : PFrame} (h : Keeps due c0 c) : Keeps due c0 (unadmitted f c) := by
  unfold unadmitted
  repeat' (with_reducible first
    | exact h | apply ofWork_keeps | split)

theorem setProofTag_keeps {c0 c : Ctl} {pid : Nat} {old new : Option Nat} (h : Keeps due c0 c) :
    Keeps due c0 (setProofTag pid old new c) := by
  unfold setProofTag
  repeat' (with_reducible first
    | exact h | apply onMatrix_same | rfl)
  all_goals rfl

theorem releaseTag_keeps {c0 c : Ctl} {q : Queued} (h : Keeps due c0 c) : Keeps due c0 (releaseTag q c) := by
  unfold releaseTag
  repeat' (with_reducible first
    | exact h | apply setProofTag_keeps | split)

theorem undoAdmission_keeps {c0 c : Ctl} {q : Queued} (h : Keeps due c0 c) : Keeps due c0 (undoAdmission q c) := by
  unfold undoAdmission
  repeat' (with_reducible first
    | exact h | apply push_keeps | apply carrierChanged_keeps | apply modTx_keeps | apply unadmitted_keeps
    | apply releaseTag_keeps | split | dsimp only)

theorem filter_filter_le {α : Type} (p q : α → Bool) (l : List α) :
    ((l.filter p).filter q).length ≤ (l.filter q).length := by
  rw [List.filter_filter, List.filter_congr (fun x _ => Bool.and_comm (q x) (p x)), ← List.filter_filter]
  exact List.length_filter_le _ _

/-- Frames leave the plant queue; each is dealt with in its place. -/
theorem removeQueued_keeps {c0 c : Ctl} {p : Queued → Bool} {f : Queued → Ctl → Ctl}
    (hf : ∀ n q c, Keeps (n + priceOf q.frame.origin) c0 c → Keeps n c0 (f q c)) (h : Keeps due c0 c) :
    Keeps due c0 (removeQueued p f c) := by
  unfold removeQueued
  dsimp only
  split
  · exact h
  · refine forEach_pays (fun q => priceOf q.frame.origin) hf _ (pushOnce_keeps (onLink_keeps (fun _ k =>
      ⟨Nat.le_trans (List.length_filter_le _ _) k.1, Nat.le_trans (filter_filter_le _ _ _) k.2, k.3, k.4, k.5, k.6, ?_⟩) h))
    have h7 := k.7
    have hs := owedOf_split (fun q : Queued => q.frame.origin) p c.link.plantQueue
    simp only; omega

theorem displaceCarrierOns_keeps {c0 c : Ctl} {dest : Nat} (h : Keeps due c0 c) : Keeps due c0 (displaceCarrierOns dest c) :=
    by
  unfold displaceCarrierOns
  repeat' (with_reducible first
    | exact h | assumption | apply drawFree_keeps | apply refuseFrame_keeps | refine removeQueued_keeps ?_ ?_
    | apply undoAdmission_keeps | intro _ _ _ _ | split | dsimp only)

theorem opsJob_keeps {c0 c : Ctl} {station tag dest : Nat} {target : Target} (h : Keeps due c0 c) : Keeps due c0 (opsJob
    station tag dest target c) := by
  unfold opsJob
  repeat' (with_reducible first
    | exact h | apply push_keeps | apply onAerial_keeps | split | dsimp only)

theorem opsStopJob_keeps {c0 c : Ctl} {dest : Nat} (h : Keeps due c0 c) : Keeps due c0 (opsStopJob dest c) := by
  unfold opsStopJob
  repeat' (with_reducible first
    | exact h | apply onAerial_keeps | split)

theorem opsJobLost_keeps {c0 c : Ctl} {f : PFrame} (h : Keeps due c0 c) : Keeps due c0 (opsJobLost f c) := by
  unfold opsJobLost
  repeat' (with_reducible first
    | exact h | apply onAerial_keeps | split)

theorem abortOwner_keeps {c0 c : Ctl} {n : Nat} {reason : Failure} (h : Keeps due c0 c) : Keeps due c0 (abortOwner n reason
    c) := by
  unfold abortOwner
  repeat' (with_reducible first
    | exact h | apply push_keeps | split)

theorem onAdmission_keeps {c0 c : Ctl} {q : Queued} (h : Keeps due c0 c) : Keeps due c0 (onAdmission q c) := by
  unfold onAdmission
  repeat' (with_reducible first
    | exact h | apply abortOwner_keeps | apply carrierChanged_keeps | apply displaceCarrierOns_keeps | apply push_keeps
    | apply modTx_keeps | apply opsJob_keeps | apply opsStopJob_keeps | apply ofWork_keeps | apply setProofTag_keeps
    | rfl | split | dsimp only)
  all_goals rfl

theorem clampNotice_keeps {c0 c : Ctl} {dest : Nat} {clamped : Option (Nat × Nat)} (h : Keeps due c0 c) : Keeps due c0
    (clampNotice dest clamped c) := by
  unfold clampNotice
  repeat' (with_reducible first
    | exact h | apply raise_keeps | split)

/-- A frame enters the plant queue where it has a place, and a PASSED frame a place of its class. -/
theorem enqueue_keeps {c0 c : Ctl} {f : PFrame} {clamped : Option (Nat × Nat)}
    (hroom : Sound c0 → c.link.plantQueue.length < 32)
    (hpass : Sound c0 → f.cls = .passed → (c.link.plantQueue.filter (fun q => q.frame.cls == .passed)).length < 16)
    (h : Keeps (due + priceOf f.origin) c0 c) : Keeps due c0 (enqueue f clamped c) := by
  refine portChoose_keeps (clampNotice_keeps (onAdmission_keeps (onLink_keepsIf
    (fun s _ k => ⟨?_, ?_, k.3, k.4, k.5, k.6, ?_⟩) h)))
  · have := hroom s; simp only [List.length_append, List.length_singleton]; omega
  · simp only [List.filter_append, List.length_append]
    have h2 := k.2
    by_cases hc : f.cls = .passed
    · have := hpass s hc
      have h1 : ([({ tag := tagFor f c.link, frame := f } : Queued)].filter
          (fun q => q.frame.cls == .passed)).length ≤ 1 := List.length_filter_le _ _
      omega
    · simp [hc]; simpa using h2
  · have h7 := k.7
    simp only [owedOf_append, owedOf_cons, owedOf_nil]; omega

theorem length_takeLast {α : Type} (p : α → Bool) {l l' : List α} {x : α} (h : takeLast p l = some (x, l')) :
    l'.length + 1 = l.length ∧ (∀ q : α → Bool, (l'.filter q).length ≤ (l.filter q).length) ∧
      ∀ g : α → Origin, owedOf g l' + priceOf (g x) = owedOf g l := by
  unfold takeLast at h
  split at h
  · rename_i y hy
    cases h
    constructor
    · have hmem := List.mem_of_find?_eq_some hy
      have hp := List.find?_some hy
      have : ∀ m : List α, x ∈ m → (dropFirst p m).length + 1 = m.length := by
        intro m
        induction m with
        | nil => intro hm; cases hm
        | cons z t ih =>
          intro hm
          unfold dropFirst
          split
          · rfl
          · rename_i hz
            rcases List.mem_cons.1 hm with rfl | hm
            · exact absurd hp hz
            · simpa using ih hm
      rw [List.length_reverse, this _ hmem, List.length_reverse]
    · refine ⟨fun q => ?_, fun g => ?_⟩
      · have := filter_dropFirst_le q p l.reverse
        rw [List.filter_reverse, List.length_reverse]
        rw [List.filter_reverse, List.length_reverse] at this
        exact this
      · have hrev : ∀ m : List α, owedOf g m.reverse = owedOf g m := fun m => List.countP_reverse
        have : ∀ m : List α, m.find? p = some x → owedOf g (dropFirst p m) + priceOf (g x) = owedOf g m := by
          intro m
          induction m with
          | nil => intro hm; cases hm
          | cons z t ih =>
            intro hm
            unfold dropFirst
            rw [List.find?_cons] at hm
            split at hm
            · rename_i hz; cases hm; rw [if_pos hz, owedOf_cons]
            · rename_i hz
              rw [if_neg (by simp [hz]), owedOf_cons, owedOf_cons]
              have := ih hm; omega
        rw [hrev, this _ hy, hrev]
  · cases h

/-- Room is made: where the queue held at most 32 frames it now has a place. -/
theorem makeRoom_keeps {c0 c c' : Ctl} (h : Keeps due c0 c) (hm : makeRoom c = some c') : Keeps due c0 c' := by
  unfold makeRoom at hm
  split at hm
  · rename_i q rest ht
    cases hm
    obtain ⟨hl, hf, ho⟩ := length_takeLast _ ht
    exact refuseBy_keeps (opsJobLost_keeps (undoAdmission_keeps (onLink_keeps (fun _ k =>
      ⟨by have := k.1; change rest.length ≤ 32; omega, Nat.le_trans (hf _) k.2, k.3, k.4, k.5, k.6, by
        have h7 := k.7; have ho := ho (·.frame.origin); simp only; omega⟩) h)))
  · split at hm
    · rename_i q rest ht
      cases hm
      obtain ⟨hl, hf, ho⟩ := length_takeLast _ ht
      exact undoAdmission_keeps (onLink_keeps (fun _ k =>
        ⟨by have := k.1; change rest.length ≤ 32; omega, Nat.le_trans (hf _) k.2, k.3, k.4, k.5, k.6, by
          have h7 := k.7; have ho := ho (·.frame.origin)
          simp only
          split
          · rw [owedOf_cons]; omega
          · omega⟩) h)
    · cases hm

/-- A frame the gate has passed is placed: an URGENT or INTERNAL one only where the queue has a place. -/
theorem place_keeps {c0 c : Ctl} {f : PFrame} {clamped : Option (Nat × Nat)}
    (hroom : Sound c0 → f.cls ≠ .passed → c.link.plantQueue.length < 32) (h : Keeps (due + priceOf f.origin) c0 c) :
    Keeps due c0 (place f clamped c) := by
  unfold place
  split
  · split
    · rename_i hc hr
      simp only [roomForPassed, slotForInternal, Bool.and_eq_true, decide_eq_true_eq] at hr
      simp only [Config.plantQueueSize, Config.passedLimit] at hr
      exact enqueue_keeps (fun _ => hr.1.1.1) (fun _ _ => hr.2) h
    · exact refuseBy_keeps h
  · rename_i hc; exact enqueue_keeps (fun s => hroom s (by simp [hc])) (by simp [hc]) h
  · rename_i hc; exact enqueue_keeps (fun s => hroom s (by simp [hc])) (by simp [hc]) h

theorem offerClamp_keeps {c0 c : Ctl} {station value : Nat} (h : Keeps due c0 c) : Keeps due c0 (offerClamp station value c)
    := by
  unfold offerClamp
  dsimp only
  split
  · rename_i hr
    simp only [slotForInternal, Bool.and_eq_true, decide_eq_true_eq] at hr
    simp only [Config.plantQueueSize] at hr
    split
    · exact enqueue_keeps (fun _ => hr.1.1) (by simp) h
    · exact h
    · exact refuseBy_keeps h
  · exact onLink_keeps (fun _ k => ⟨k.1, k.2, k.3, k.4, k.5, k.6, by
      have h7 := k.7; simp only [owedOf_append, owedOf_cons, owedOf_nil]; exact h7⟩) h

theorem requireClamp_keeps {c0 c : Ctl} {f : PFrame} (h : Keeps due c0 c) : Keeps due c0 (requireClamp f c) := by
  unfold requireClamp
  repeat' (with_reducible first
    | exact h | apply offerClamp_keeps | apply raise_keeps | split | dsimp only)

theorem holdFrame_keeps {c0 c : Ctl} {f : PFrame} {w : HoldWait} (h : Keeps (due + priceOf f.origin) c0 c) :
    Keeps due c0 (holdFrame f w c) := by
  unfold holdFrame
  dsimp only
  split
  · rename_i hl
    have h' : Keeps due c0 (c.onGate (fun g => { g with held := g.held ++ [{ frame := f, waits := w, since := c.clock }]
        })) :=
      onGate_keeps h (fun _ => by
        simp only [List.length_append, List.length_singleton]; unfold Config.holdQueueSize at hl; omega)
        (by simp only [owedOf_append, owedOf_cons, owedOf_nil]; omega)
    split
    · exact requireClamp_keeps h'
    · exact h'
  · exact refuseBy_keeps h

/-- The gate carries out its verdict on a frame for which there is room. -/
theorem takeFrame_keeps {c0 c : Ctl} {f : PFrame} (hroom : Sound c0 → f.cls ≠ .passed → c.link.plantQueue.length < 32)
    (h : Keeps (due + priceOf f.origin) c0 c) : Keeps due c0 (takeFrame f c) := by
  unfold takeFrame
  split
  · exact place_keeps hroom h
  · exact holdFrame_keeps h
  · exact refuseBy_keeps h

theorem refuseFrame_plantQueue (f : PFrame) (code : Nat) (detail : List Byte) (c : Ctl) :
    (refuseFrame f code detail c).link.plantQueue = c.link.plantQueue := by
  unfold refuseFrame; split <;> rfl

theorem unadmitted_link (f : PFrame) (c : Ctl) : (unadmitted f c).link = c.link := by
  unfold unadmitted ofWork; repeat' (first | rfl | split)

theorem releaseTag_link (q : Queued) (c : Ctl) : (releaseTag q c).link = c.link := by
  unfold releaseTag; split <;> rfl

theorem undoAdmission_plantQueue (q : Queued) (c : Ctl) :
    (undoAdmission q c).link.plantQueue = c.link.plantQueue := by
  refine Eq.trans ?_ (congrArg Link.plantQueue (releaseTag_link q c))
  unfold undoAdmission
  dsimp only
  split
  · rfl
  · split
    · exact congrArg Link.plantQueue (unadmitted_link q.frame _)
    · refine Eq.trans ?_ (congrArg Link.plantQueue (unadmitted_link q.frame _))
      simp only [carrierChanged, pushOnce, push]; split <;> rfl
    · rfl

theorem opsJobLost_plantQueue (f : PFrame) (c : Ctl) : (opsJobLost f c).link.plantQueue = c.link.plantQueue := by
  unfold opsJobLost; split <;> rfl

/-- Room is made: the queue is a frame shorter. -/
theorem makeRoom_plantQueue {c c' : Ctl} (hm : makeRoom c = some c') :
    c'.link.plantQueue.length + 1 = c.link.plantQueue.length := by
  unfold makeRoom at hm
  split at hm
  · rename_i ht
    cases hm
    rw [refuseBy, refuseFrame_plantQueue, opsJobLost_plantQueue, undoAdmission_plantQueue]
    exact (length_takeLast _ ht).1
  · split at hm
    · rename_i ht
      cases hm
      rw [undoAdmission_plantQueue]
      exact (length_takeLast _ ht).1
    · cases hm

/-- A frame waits for a slot. -/
theorem waits_keeps {c0 c : Ctl} {f : PFrame} (h : Keeps (due + priceOf f.origin) c0 c) :
    Keeps due c0 (c.onLink (fun k => { k with internalWaiters := k.internalWaiters ++ [f] })) :=
  onLink_keeps (fun _ k => ⟨k.1, k.2, k.3, k.4, k.5, k.6, by
    have h7 := k.7; simp only [owedOf_append, owedOf_cons, owedOf_nil]; omega⟩) h

theorem giveSlot_keeps {c0 c : Ctl} (h : Keeps due c0 c) : Keeps due c0 (giveSlot c) := by
  unfold giveSlot
  split
  · rename_i hr
    unfold Config.plantQueueSize at hr
    split
    · rename_i hw
      exact pushOnce_keeps (takeFrame_keeps (fun _ _ => hr) (onLink_keeps (fun _ k => ⟨k.1, k.2, k.3, k.4, k.5, k.6, by
        have h7 := k.7; rw [hw, owedOf_cons] at h7; simp only; omega⟩) h))
    · split
      · rename_i hw
        exact pushOnce_keeps (takeFrame_keeps (fun _ _ => hr) (onLink_keeps (fun _ k => ⟨k.1, k.2, k.3, k.4, k.5, k.6, by
          have h7 := k.7; rw [hw, owedOf_cons] at h7; simp only; omega⟩) h))
      · exact h
  · exact h

theorem giveSlots_keeps {c0 : Ctl} : ∀ (n : Nat) {c : Ctl}, Keeps due c0 c → Keeps due c0 (giveSlots n c)
  | 0, _, h => h
  | n + 1, _, h => giveSlots_keeps n (giveSlot_keeps h)

theorem fillSlots_keeps {c0 c : Ctl} (h : Keeps due c0 c) : Keeps due c0 (fillSlots c) := by
  unfold fillSlots
  split
  · exact giveSlots_keeps _ h
  · exact h

/-- An offered frame: it is admitted, held, refused, or waits. Where room is made for an URGENT frame the queue held at
most 32 frames before, so that it has a place now. -/
theorem offerNow_keeps {c0 c : Ctl} {f : PFrame} (h : Keeps (due + priceOf f.origin) c0 c) :
    Keeps due c0 (offerNow f c) := by
  unfold offerNow
  split
  · rename_i hc; exact takeFrame_keeps (by simp [hc]) h
  · split
    · rename_i hr
      simp only [slotForInternal, Bool.and_eq_true, decide_eq_true_eq] at hr
      simp only [Config.plantQueueSize] at hr
      exact takeFrame_keeps (fun _ _ => hr.1.1) h
    · exact waits_keeps h
  · split
    · rename_i hr
      exact takeFrame_keeps (fun _ _ => by have := hr.1; unfold Config.plantQueueSize at this; exact this) h
    · split
      · rename_i c' hm
        refine takeFrame_keeps (fun s _ => ?_) (makeRoom_keeps h hm)
        have hb := (h.sound s).bounds.plantQueue
        have hl := makeRoom_plantQueue hm
        omega
      · exact onLink_keeps (fun _ k => ⟨k.1, k.2, k.3, k.4, k.5, k.6, by
          have h7 := k.7; simp only [owedOf_append, owedOf_cons, owedOf_nil]; omega⟩) h

theorem offer_keeps {c0 c : Ctl} {f : PFrame} (h : Keeps (due + priceOf f.origin) c0 c) : Keeps due c0 (offer f c) :=
  offerNow_keeps (fillSlots_keeps h)

/-- A frame of the controller's own is offered. -/
theorem offerOwn_keeps {c0 c : Ctl} {f : PFrame} (ho : priceOf f.origin = 0) (h : Keeps due c0 c) :
    Keeps due c0 (offer f c) := offer_keeps (by rw [ho]; exact h)

theorem offerCarrierOff_keeps {c0 c : Ctl} {n : Nat} {cls : Cls} {o : Origin} (ho : priceOf o = 0) (h : Keeps due c0 c) :
    Keeps due c0 (offerCarrierOff n cls o c) := by
  unfold offerCarrierOff
  split
  · exact offerOwn_keeps ho h
  · exact h

/-- A frame that leaves the hold queue makes its place due. -/
theorem dropHeld_keeps {c0 c : Ctl} {x : Held} (hx : x ∈ c.gate.held) (h : Keeps due c0 c) :
    Keeps (due + priceOf x.frame.origin) c0 (dropHeld x c) :=
  onGate_keeps h (fun hl => Nat.le_trans (length_dropFirst_le _ _) hl)
    (by have := owedOf_drop (·.frame.origin) hx; simp only; omega)

theorem releaseHeld_keeps {c0 c : Ctl} {x : Held} {v : PlantVerb} {clamped : Option (Nat × Nat)}
    (hx : x ∈ c.gate.held) (h : Keeps due c0 c) : Keeps due c0 (releaseHeld x v clamped c) := by
  unfold releaseHeld
  dsimp only
  split
  · exact waits_keeps (dropHeld_keeps hx h)
  · rename_i hn
    refine place_keeps (fun _ hc => ?_) (dropHeld_keeps hx h)
    simp only [not_and, Bool.not_eq_true, Bool.not_eq_false'] at hn
    have hs : slotForInternal c.link = true := by simpa using hn hc
    simp only [slotForInternal, Bool.and_eq_true, decide_eq_true_eq] at hs
    simp only [Config.plantQueueSize] at hs
    exact hs.1.1

theorem recheckNow_keeps {c0 c : Ctl} {x : Held} (h : Keeps due c0 c) : Keeps due c0 (recheckNow x c) := by
  unfold recheckNow
  dsimp only
  split
  · rename_i hx
    split
    · exact releaseHeld_keeps hx h
    · have h' : ∀ w : HoldWait, Keeps due c0 (c.onGate (fun g =>
          { g with held := mapFirst (fun y => decide (y = x)) (fun y => { y with waits := w }) g.held })) := fun w =>
        onGate_keeps h (fun hl => by rw [length_mapFirst]; exact hl) (by
          simp only
          rw [owedOf_mapFirst (fun y : Held => y.frame.origin) _ (fun y => { y with waits := w }) (fun _ => rfl)])
      split
      · exact requireClamp_keeps (h' _)
      · exact h' _
    · exact refuseBy_keeps (dropHeld_keeps hx h)
  · exact h

theorem recheckHeld_keeps {c0 c : Ctl} {x : Held} (h : Keeps due c0 c) : Keeps due c0 (recheckHeld x c) :=
  recheckNow_keeps (fillSlots_keeps h)

theorem recheckWhere_keeps {c0 c : Ctl} {p : Held → Bool} (h : Keeps due c0 c) : Keeps due c0 (recheckWhere p c) :=
  forEach_keeps (fun _ _ h => recheckHeld_keeps h) _ h

theorem refuseHeld_keeps {c0 c : Ctl} {p : Held → Bool} {code : Nat} {detail : List Byte} (h : Keeps due c0 c) :
    Keeps due c0 (refuseHeld p code detail c) :=
  forEach_pays (fun x => priceOf x.frame.origin) (fun _ _ _ h => refuseFrame_keeps h) _
    (onGate_keeps h (fun hl => Nat.le_trans (List.length_filter_le _ _) hl)
      (by have := owedOf_split (fun x : Held => x.frame.origin) p c.gate.held; simp only; omega))

theorem failPathHolds_keeps {c0 c : Ctl} {n : Nat} (h : Keeps due c0 c) : Keeps due c0 (failPathHolds n c) := by
  unfold failPathHolds
  repeat' (with_reducible first
    | exact h | apply refuseHeld_keeps)

theorem setOwner_keeps {c0 c : Ctl} {n : Nat} {o : TxOwner} (h : Keeps due c0 c) : Keeps due c0 (setOwner n o c) := by
  unfold setOwner
  repeat' (with_reducible first
    | exact h | apply modTx_keeps | apply push_keeps | apply pushOnce_keeps | apply recheckWhere_keeps | split | dsimp only)

theorem invokeInterlock_keeps {c0 c : Ctl} {n : Nat} (h : Keeps due c0 c) : Keeps due c0 (invokeInterlock n c) :=
  push_keeps h

theorem clearRunning_keeps {c0 c : Ctl} {n : Nat} (h : Keeps due c0 c) : Keeps due c0 (clearRunning n c) := by
  unfold clearRunning
  repeat' (with_reducible first
    | exact h | apply modTx_keeps | apply push_keeps | apply pushOnce_keeps)

theorem failRunning_keeps {c0 c : Ctl} {n : Nat} (h : Keeps due c0 c) : Keeps due c0 (failRunning n c) := by
  unfold failRunning
  repeat' (with_reducible first
    | exact h | apply clearRunning_keeps | apply push_keeps | split)

theorem interlockNow_keeps {c0 c : Ctl} {n : Nat} (h : Keeps due c0 c) : Keeps due c0 (interlockNow n c) := by
  unfold interlockNow
  repeat' (with_reducible first
    | exact h | apply abortOwner_keeps | apply failRunning_keeps | apply modTx_keeps
    | refine offerCarrierOff_keeps rfl ?_ | apply raise_keeps | split | dsimp only)

theorem interlock_keeps {c0 c : Ctl} {n : Nat} (h : Keeps due c0 c) : Keeps due c0 (interlock n c) := by
  unfold interlock
  repeat' (with_reducible first
    | exact h | apply interlockNow_keeps | split)

theorem interlockAgain_keeps {c0 c : Ctl} {n : Nat} (h : Keeps due c0 c) : Keeps due c0 (interlockAgain n c) := by
  unfold interlockAgain
  repeat' (with_reducible first
    | exact h | apply interlock_keeps | apply modTx_keeps | refine offerCarrierOff_keeps rfl ?_ | split)

theorem withdraw_keeps {c0 c : Ctl} {n : Nat} (h : Keeps due c0 c) : Keeps due c0 (withdraw n c) := by
  unfold withdraw
  repeat' (with_reducible first
    | exact h | refine offerCarrierOff_keeps rfl ?_ | split | dsimp only)

theorem rewritePowers_keeps {c0 c : Ctl} {station limit : Nat} (h : Keeps due c0 c) :
    Keeps due c0 (rewritePowers station limit c) := by
  refine onLink_keeps (fun _ k => ⟨?_, ?_, k.3, k.4, k.5, k.6, ?_⟩) h
  · rw [List.length_map]; exact k.1
  · rw [List.filter_map, List.length_map]
    refine Nat.le_trans (Nat.le_of_eq (congrArg _ (List.filter_congr fun q _ => ?_))) k.2
    simp only [Function.comp_apply]; split <;> rfl
  · have h7 := k.7
    rw [owedOf_map (fun q : Queued => q.frame.origin) _ (fun q => by split <;> rfl)]
    exact h7

theorem fitPower_keeps {c0 c : Ctl} {n : Nat} (h : Keeps due c0 c) : Keeps due c0 (fitPower n c) := by
  unfold fitPower
  repeat' (with_reducible first
    | exact h | assumption | apply raise_keeps | apply refuseBy_keeps | refine removeQueued_keeps ?_ ?_
    | apply rewritePowers_keeps | refine forEach_keeps ?_ _ ?_ | intro _ _ _ | intro _ | split | dsimp only)

theorem carrierWatch_keeps {c0 c : Ctl} {n : Nat} (h : Keeps due c0 c) : Keeps due c0 (carrierWatch n c) := by
  unfold carrierWatch
  repeat' (with_reducible first
    | exact h | refine offerCarrierOff_keeps rfl ?_ | split)

theorem endOpsHold_keeps {c0 c : Ctl} {n : Nat} (h : Keeps due c0 c) : Keeps due c0 (endOpsHold n c) := by
  unfold endOpsHold
  repeat' (with_reducible first
    | exact h | apply setOwner_keeps | split)

theorem afterRecord_keeps {c0 c before : Ctl} {n : Nat} {report : Bool} (h : Keeps due c0 c) :
    Keeps due c0 (afterRecord n report before c) := by
  unfold afterRecord
  repeat' (with_reducible first
    | exact h | apply fitPower_keeps | apply interlock_keeps | apply push_keeps | apply pushOnce_keeps
    | apply withdraw_keeps)

theorem applyTxReport_keeps {c0 c : Ctl} {n : Nat} {r : TxReport} (h : Keeps due c0 c) : Keeps due c0 (applyTxReport n r c)
    := by
  unfold applyTxReport
  repeat' (with_reducible first
    | exact h | apply afterRecord_keeps | apply modTx_keeps | apply push_keeps | split | dsimp only)

theorem applyTxAnswer_keeps {c0 c : Ctl} {n verb : Nat} {done : Bool} {addr tag : Nat} (h : Keeps due c0 c) : Keeps due c0
    (applyTxAnswer n verb done addr tag c) := by
  unfold applyTxAnswer
  repeat' (with_reducible first
    | exact h | apply afterRecord_keeps | apply drawFree_keeps | apply modTx_keeps | split | dsimp only)

theorem applyTxTimeout_keeps {c0 c : Ctl} {e : Entry} (h : Keeps due c0 c) : Keeps due c0 (applyTxTimeout e c) := by
  unfold applyTxTimeout
  repeat' (with_reducible first
    | exact h | apply afterRecord_keeps | apply interlock_keeps | apply modTx_keeps | apply push_keeps | split)

end Sys2Proof.Laws
end

