-- ==== Sys2Proof/Laws/KeepsMatrix.lean ====
section
/-! SUPPORT. The operations of the Matrix Interlocking, the Antenna Unit and the burst record carry soundness over
    and do not turn the clock back. -/

set_option linter.unreachableTactic false
set_option linter.unusedTactic false

namespace Sys2Proof.Laws
open Sys2Proof.Machine

variable {due : Nat}

theorem offerLatch_keeps {c0 c : Ctl} {v : PlantVerb} {o : Origin} (ho : priceOf o = 0) (h : Keeps due c0 c) :
    Keeps due c0 (offerLatch v o c) := by
  unfold offerLatch
  split
  · exact offerOwn_keeps ho h
  · exact h

theorem offerClear_keeps {c0 c : Ctl} {slot : Nat} {r : MoveReq} (h : Keeps due c0 c) : Keeps due c0 (offerClear slot r c) :=
    by
  unfold offerClear
  repeat' (with_reducible first
    | exact h | refine offerLatch_keeps rfl ?_)

theorem fillQueue_length (n : Nat) (m : Matrix) (h : m.queue.length ≤ 32) : (fillQueue n m).queue.length ≤ 32 := by
  induction n generalizing m with
  | zero => exact h
  | succ k ih =>
    unfold fillQueue
    split
    · split
      · rename_i hl
        unfold Config.moveQueueSize at hl
        exact ih _ (by simp only [List.length_append, List.length_singleton]; omega)
      · exact h
    · exact h

/-- Waiting requests enter the movement queue only where it has a place. -/
theorem settleQueue_length (m : Matrix) (h : m.queue.length ≤ 32) : (settleQueue m).queue.length ≤ 32 :=
  fillQueue_length _ m h

theorem fillQueue_slots (n : Nat) (m : Matrix) : (fillQueue n m).slots = m.slots := by
  induction n generalizing m with
  | zero => rfl
  | succ k ih =>
    unfold fillQueue
    split
    · split
      · exact ih _
      · rfl
    · rfl

theorem settleQueue_slots (m : Matrix) : (settleQueue m).slots = m.slots := fillQueue_slots _ m

theorem requestMove_keeps {c0 c : Ctl} {p : Path} {coil : Coil} (h : Keeps due c0 c) :
    Keeps due c0 (requestMove p coil c) := by
  unfold requestMove
  split
  · exact h
  · exact pushOnce_keeps (onMatrix_keeps h (fun hl => settleQueue_length _ hl) (settleQueue_slots _))

theorem withdrawRequest_keeps {c0 c : Ctl} {pid : Nat} (h : Keeps due c0 c) : Keeps due c0 (withdrawRequest pid c) :=
  pushOnce_keeps (onMatrix_keeps h (fun hl => settleQueue_length _ (Nat.le_trans (List.length_filter_le _ _) hl))
    (settleQueue_slots _))

theorem pathResult_keeps {c0 c : Ctl} {p : Path} {code : Nat} (h : Keeps due c0 c) : Keeps due c0 (pathResult p code c) := by
  unfold pathResult
  repeat' (with_reducible first
    | exact h | apply raise_keeps)

theorem tellCtx_keeps {c0 c : Ctl} {n : Nat} {news : PathNews} (h : Keeps due c0 c) : Keeps due c0 (tellCtx n news c) := by
  unfold tellCtx
  repeat' (with_reducible first
    | exact h | apply push_keeps | split)

theorem tellFailure_keeps {c0 c : Ctl} {p : Path} {news : PathNews} {code : Nat} (h : Keeps due c0 c) : Keeps due c0
    (tellFailure p news code c) := by
  unfold tellFailure
  repeat' (with_reducible first
    | exact h | apply pathResult_keeps | apply tellCtx_keeps | split)

theorem removePath_keeps {c0 c : Ctl} {pid : Nat} (h : Keeps due c0 c) : Keeps due c0 (removePath pid c) := by
  unfold removePath
  repeat' (with_reducible first
    | exact h | apply onMatrix_same | rfl)
  all_goals rfl

theorem dropWaitingRead_keeps {c0 c : Ctl} {pid : Nat} (h : Keeps due c0 c) : Keeps due c0 (dropWaitingRead pid c) := by
  exact onLink_keeps (fun _ k => ⟨k.1, k.2, k.3, k.4, k.5, k.6, by
    have h7 := k.7
    have := owedOf_filter_le (fun f : PFrame => f.origin) (fun f => f.origin != .mi (.proof pid)) c.link.internalWaiters
    simp only; omega⟩) h

theorem tableChanged_keeps {c0 c : Ctl} (h : Keeps due c0 c) : Keeps due c0 (tableChanged c) := by
  unfold tableChanged
  repeat' (with_reducible first
    | exact h | apply pushOnce_keeps | split | dsimp only)

theorem failSetting_keeps {c0 c : Ctl} {p : Path} {code : Nat} (h : Keeps due c0 c) : Keeps due c0 (failSetting p code c) :=
    by
  unfold failSetting
  repeat' (with_reducible first
    | exact h | apply invokeInterlock_keeps | apply dropWaitingRead_keeps | apply failPathHolds_keeps | apply interlock_keeps
    | apply push_keeps | apply removePath_keeps | apply setPathRec_keeps | apply tableChanged_keeps
    | apply tellFailure_keeps | apply withdrawRequest_keeps | split | dsimp only)

theorem failProof_keeps {c0 c : Ctl} {p : Path} {code : Nat} (h : Keeps due c0 c) : Keeps due c0 (failProof p code c) := by
  unfold failProof
  repeat' (with_reducible first
    | exact h | apply withdrawRequest_keeps | apply dropWaitingRead_keeps | apply failPathHolds_keeps | apply setPathRec_keeps
    | apply tableChanged_keeps | apply tellFailure_keeps | split | dsimp only)

theorem proofDone_keeps {c0 c : Ctl} {p : Path} (h : Keeps due c0 c) : Keeps due c0 (proofDone p c) := by
  unfold proofDone
  repeat' (with_reducible first
    | exact h | apply fitPower_keeps | apply pathResult_keeps | apply push_keeps | apply setPathRec_keeps
    | apply tableChanged_keeps | apply tellCtx_keeps | split | dsimp only)

theorem loseProof_keeps {c0 c : Ctl} {p : Path} (h : Keeps due c0 c) : Keeps due c0 (loseProof p c) := by
  unfold loseProof
  repeat' (with_reducible first
    | exact h | apply invokeInterlock_keeps | apply interlock_keeps | apply push_keeps | apply setPathRec_keeps | apply tableChanged_keeps
    | apply tellCtx_keeps | split | dsimp only)

theorem beginProof_keeps {c0 c : Ctl} {p : Path} (h : Keeps due c0 c) : Keeps due c0 (beginProof p c) := by
  unfold beginProof
  repeat' (with_reducible first
    | exact h | apply failProof_keeps | refine offerLatch_keeps rfl ?_ | apply setPathRec_keeps | split)

theorem endRelease_keeps {c0 c : Ctl} {p : Path} (h : Keeps due c0 c) : Keeps due c0 (endRelease p c) := by
  unfold endRelease
  repeat' (with_reducible first
    | exact h | apply invokeInterlock_keeps | apply interlock_keeps | apply push_keeps | apply removePath_keeps | apply tableChanged_keeps
    | dsimp only)

theorem actPath_keeps {c0 c : Ctl} {pid : Nat} (h : Keeps due c0 c) : Keeps due c0 (actPath pid c) := by
  unfold actPath
  repeat' (with_reducible first
    | exact h | apply endRelease_keeps | apply requestMove_keeps | apply setPathRec_keeps
    | apply withdrawRequest_keeps | split)

theorem releasePath_keeps {c0 c : Ctl} {pid priority : Nat} (h : Keeps due c0 c) : Keeps due c0 (releasePath pid priority c)
    := by
  unfold releasePath
  repeat' (with_reducible first
    | exact h | apply invokeInterlock_keeps | apply actPath_keeps | apply dropWaitingRead_keeps | apply failPathHolds_keeps
    | apply interlock_keeps | apply push_keeps | apply setPathRec_keeps | apply tableChanged_keeps
    | apply withdrawRequest_keeps | split | dsimp only)

theorem setPath_keeps {c0 c : Ctl} {tx ant row col : Nat} {owner : PathOwner} {priority : Nat} {reference : Option
    Ref} {releases : List Nat} (h : Keeps due c0 c) : Keeps due c0 (setPath tx ant row col owner priority reference releases
        c) := by
  unfold setPath
  repeat' (with_reducible first
    | exact h | assumption | apply actPath_keeps | apply releasePath_keeps | apply tableChanged_keeps
    | refine forEach_keeps ?_ _ ?_ | apply onMatrix_same | rfl | intro _ _ _ | dsimp only)
  all_goals rfl

theorem becomeStuck_keeps {c0 c : Ctl} {row col : Nat} (h : Keeps due c0 c) : Keeps due c0 (becomeStuck row col c) := by
  unfold becomeStuck
  repeat' (with_reducible first
    | exact h | apply raise_keeps | apply setXp_keeps)

theorem actPathsOf_keeps {c0 c : Ctl} {row col : Nat} (h : Keeps due c0 c) : Keeps due c0 (actPathsOf row col c) := by
  unfold actPathsOf
  repeat' (with_reducible first
    | exact h | apply actPath_keeps | apply push_keeps)

theorem moveEnded_keeps {c0 c : Ctl} {r : MoveReq} (h : Keeps due c0 c) : Keeps due c0 (moveEnded r c) := by
  unfold moveEnded
  repeat' (with_reducible first
    | exact h | apply failSetting_keeps | apply setPathRec_keeps | split)

theorem releaseCoil_keeps {c0 c : Ctl} {slot : Nat} {v : Movement} (h : Keeps due c0 c) : Keeps due c0 (releaseCoil slot v c)
    := by
  exact pushOnce_keeps (actPathsOf_keeps (moveEnded_keeps (offerClear_keeps (onMatrix_slots h id (slots_tmod _ _)))))

theorem moveReached_keeps {c0 c : Ctl} {slot : Nat} {v : Movement} (h : Keeps due c0 c) : Keeps due c0 (moveReached slot v c)
    := by
  unfold moveReached
  repeat' (with_reducible first
    | exact h | apply releaseCoil_keeps | apply setXp_keeps | split | dsimp only)

theorem moveFailed_keeps {c0 c : Ctl} {slot : Nat} {v : Movement} (h : Keeps due c0 c) : Keeps due c0 (moveFailed slot v c)
    := by
  unfold moveFailed
  repeat' (with_reducible first
    | exact h | apply becomeStuck_keeps | apply releaseCoil_keeps)

theorem moveWatch_keeps {c0 c : Ctl} {slot : Nat} {v : Movement} (h : Keeps due c0 c) : Keeps due c0 (moveWatch slot v c) :=
    by
  unfold moveWatch
  repeat' (with_reducible first
    | exact h | apply moveFailed_keeps | apply moveReached_keeps | split)

theorem freeSlot_keeps {c0 c : Ctl} {slot : Nat} (h : Keeps due c0 c) : Keeps due c0 (freeSlot slot c) := by
  unfold freeSlot
  split
  · exact h
  · exact pushOnce_keeps (setXp_keeps (onMatrix_slots h id (slots_terase _)))

theorem coilCleared_keeps {c0 c : Ctl} {bit : Nat} (h : Keeps due c0 c) : Keeps due c0 (coilCleared bit c) := by
  unfold coilCleared
  repeat' (with_reducible first
    | exact h | apply freeSlot_keeps | split)

theorem coilNotCleared_keeps {c0 c : Ctl} {bit : Nat} (h : Keeps due c0 c) : Keeps due c0 (coilNotCleared bit c) := by
  unfold coilNotCleared
  repeat' (with_reducible first
    | exact h | apply offerClear_keeps | split)

theorem requeue_length (r : MoveReq) (m : Matrix) (h : m.queue.length ≤ 32) : (requeue r m).queue.length ≤ 32 := by
  unfold requeue
  dsimp only
  split
  · rename_i hl; exact hl
  · split
    · have : ∀ l : List MoveReq, (orderedInsert (fun a b => decide (a.age < b.age)) r l).length = l.length + 1 := by
        intro l
        induction l with
        | nil => rfl
        | cons y t ih => unfold orderedInsert; split <;> simp [ih]
      rw [List.length_dropLast, this]; exact h
    · exact h

theorem requeue_slots (r : MoveReq) (m : Matrix) : (requeue r m).slots = m.slots := by
  unfold requeue
  dsimp only
  split
  · rfl
  · split <;> rfl

theorem undoGrant_keeps {c0 c : Ctl} {slot : Nat} (h : Keeps due c0 c) : Keeps due c0 (undoGrant slot c) := by
  unfold undoGrant
  dsimp only
  split
  · exact h
  · refine pushOnce_keeps (actPathsOf_keeps ?_)
    split
    · exact onMatrix_keeps (setXp_keeps (onMatrix_slots h id (slots_terase _))) (fun hl => requeue_length _ _ hl)
        (requeue_slots _ _)
    · exact setXp_keeps (onMatrix_slots h id (slots_terase _))

theorem leaveClosed_keeps {c0 c : Ctl} {r : MoveReq} (h : Keeps due c0 c) : Keeps due c0 (leaveClosed r c) := by
  unfold leaveClosed
  repeat' (with_reducible first
    | exact h | assumption | apply failProof_keeps | apply failSetting_keeps | refine forEach_keeps ?_ _ ?_
    | intro _ _ _ | split | dsimp only)

theorem freeSlotOf_range {m : Matrix} {slot : Nat} (h : freeSlotOf m = some slot) : 1 ≤ slot ∧ slot ≤ 4 := by
  have := List.mem_of_find?_eq_some h
  simp only [upTo, Config.moveSlots, List.mem_map, List.mem_range] at this
  omega

theorem grant_keeps {c0 c : Ctl} {slot : Nat} {r : MoveReq} (hk : 1 ≤ slot ∧ slot ≤ 4) (h : Keeps due c0 c) :
    Keeps due c0 (grant slot r c) := by
  unfold grant
  dsimp only
  have h' : ∀ (x : Xp) (m : Movement) (g : Path → Path), Keeps due c0 (setXp r.row r.col x
      (c.onMatrix (fun t => settleQueue { t with
        queue := dropFirst (fun q => decide (q = r)) t.queue
        slots := tset slot m t.slots
        paths := t.paths.map g }))) := fun x m g =>
    setXp_keeps (onMatrix_slots h (fun hl => settleQueue_length _ (Nat.le_trans (length_dropFirst_le _ _) hl))
      (fun hs => by rw [settleQueue_slots]; exact slots_tset hk hs))
  refine offerLatch_keeps rfl ?_
  split
  · exact onCu_keeps (h' _ _ _)
  · exact leaveClosed_keeps (h' _ _ _)
  · exact h' _ _ _

theorem dropNeedless_keeps {c0 c : Ctl} {r : MoveReq} (h : Keeps due c0 c) : Keeps due c0 (dropNeedless r c) :=
  actPath_keeps (onMatrix_keeps h (fun hl => settleQueue_length _ (Nat.le_trans (length_dropFirst_le _ _) hl))
    (settleQueue_slots _))

theorem arbiterRound_keeps {c0 : Ctl} {n : Nat} : ∀ {c : Ctl}, Keeps due c0 c → Keeps due c0 (arbiterRound n c) := by
  induction n with
  | zero => intro c h; exact h
  | succ k ih =>
    intro c h
    unfold arbiterRound
    split
    · exact h
    · rename_i hs
      split
      · exact h
      · split
        · exact ih (dropNeedless_keeps h)
        · exact ih (grant_keeps (freeSlotOf_range hs) h)

theorem arbiter_keeps {c0 c : Ctl} (h : Keeps due c0 c) : Keeps due c0 (arbiter c) := by
  unfold arbiter
  repeat' (with_reducible first
    | exact h | apply arbiterRound_keeps)

theorem followMirror_keeps {c0 c : Ctl} {row col : Nat} (h : Keeps due c0 c) : Keeps due c0 (followMirror row col c) := by
  unfold followMirror
  repeat' (with_reducible first
    | exact h | apply becomeStuck_keeps | apply setXp_keeps | split | dsimp only)

theorem dealMirror_keeps {c0 c : Ctl} {q : Nat × Nat} (h : Keeps due c0 c) : Keeps due c0 (dealMirror q c) := by
  unfold dealMirror
  repeat' (with_reducible first
    | exact h | apply followMirror_keeps | apply moveWatch_keeps | split)

theorem pathMirror_keeps {c0 c : Ctl} {changed : List (Nat × Nat)} {pid : Nat} (h : Keeps due c0 c) : Keeps due c0
    (pathMirror changed pid c) := by
  unfold pathMirror
  repeat' (with_reducible first
    | exact h | apply actPath_keeps | apply failProof_keeps | apply failSetting_keeps | apply loseProof_keeps
    | split)

theorem setContact_keeps {c0 : Ctl} {acc : Ctl × List (Nat × Nat)} {bit : Nat × Bool} (h : Keeps due c0 acc.1) :
    Keeps due c0 (setContact acc bit).1 := by
  unfold setContact
  dsimp only
  split
  · split
    · split
      · exact h
      · exact setXp_keeps h
    · split
      · exact h
      · exact setXp_keeps h
  · exact h

theorem foldl_setContact_keeps {c0 : Ctl} (bits : List (Nat × Bool)) :
    ∀ {acc : Ctl × List (Nat × Nat)}, Keeps due c0 acc.1 → Keeps due c0 (bits.foldl setContact acc).1 := by
  induction bits with
  | nil => intro acc h; exact h
  | cons b t ih => intro acc h; exact ih (setContact_keeps h)

theorem takeBits_keeps {c0 c : Ctl} {bits : List (Nat × Bool)} {own : Option Nat} (h : Keeps due c0 c) :
    Keeps due c0 (takeBits bits own c) := by
  have h' : Keeps due c0 (forEach ((forEach (bits.foldl setContact (c, [])).2 dealMirror
      (bits.foldl setContact (c, [])).1).matrix.paths.filter (fun p => own != some p.pid) |>.map (·.pid))
      (pathMirror (bits.foldl setContact (c, [])).2) (forEach (bits.foldl setContact (c, [])).2 dealMirror
      (bits.foldl setContact (c, [])).1)) :=
    forEach_keeps (fun _ _ h => pathMirror_keeps h) _
      (forEach_keeps (fun _ _ h => dealMirror_keeps h) _ (foldl_setContact_keeps bits (acc := (c, [])) h))
  unfold takeBits
  dsimp only
  split
  · exact h'
  · exact pushOnce_keeps h'

theorem readAnswered_keeps {c0 c : Ctl} {e : Entry} {bits : List (Nat × Bool)} (h : Keeps due c0 c) : Keeps due c0
    (readAnswered e bits c) := by
  unfold readAnswered
  repeat' (with_reducible first
    | exact h | apply failProof_keeps | apply proofDone_keeps | apply takeBits_keeps | split | dsimp only)

theorem miRefused_keeps {c0 c : Ctl} {purpose : MiPurpose} {code : Nat} (h : Keeps due c0 c) : Keeps due c0 (miRefused
    purpose code c) := by
  unfold miRefused
  repeat' (with_reducible first
    | exact h | apply failProof_keeps | apply undoGrant_keeps | split)

theorem miEnded_keeps {c0 c : Ctl} {e : Entry} {purpose : MiPurpose} {outcome : Option Outcome} {code : Nat} (h :
    Keeps due c0 c) : Keeps due c0 (miEnded e purpose outcome code c) := by
  unfold miEnded
  repeat' (with_reducible first
    | exact h | apply coilCleared_keeps | apply coilNotCleared_keeps | apply failProof_keeps
    | apply moveFailed_keeps | split)

theorem limitExpired_keeps {c0 c : Ctl} {slot : Nat} (h : Keeps due c0 c) : Keeps due c0 (limitExpired slot c) := by
  unfold limitExpired
  repeat' (with_reducible first
    | exact h | apply clockReaches_keeps | apply moveFailed_keeps | split)

theorem settleEnded_keeps {c0 c : Ctl} {tx : Nat} (h : Keeps due c0 c) : Keeps due c0 (settleEnded tx c) := by
  unfold settleEnded
  repeat' (with_reducible first
    | exact h | apply beginProof_keeps | apply clockReaches_keeps | apply setPathRec_keeps
    | apply tellCtx_keeps | split | dsimp only)

theorem pathLimitExpired_keeps {c0 c : Ctl} {tx : Nat} (h : Keeps due c0 c) : Keeps due c0 (pathLimitExpired tx c) := by
  unfold pathLimitExpired
  repeat' (with_reducible first
    | exact h | apply clockReaches_keeps | apply failSetting_keeps | split | dsimp only)

theorem actLockout_keeps {c0 c : Ctl} {a : Nat} (h : Keeps due c0 c) : Keeps due c0 (actLockout a c) := by
  unfold actLockout
  repeat' (with_reducible first
    | exact h | assumption | apply failProof_keeps | apply failSetting_keeps | apply loseProof_keeps
    | apply push_keeps | apply tableChanged_keeps | refine forEach_keeps ?_ _ ?_ | intro _ _ _ | split
    | dsimp only)

theorem actMotion_keeps {c0 c : Ctl} {a : Nat} (h : Keeps due c0 c) : Keeps due c0 (actMotion a c) := by
  unfold actMotion
  repeat' (with_reducible first
    | exact h | assumption | apply failProof_keeps | apply loseProof_keeps | refine forEach_keeps ?_ _ ?_
    | intro _ _ _ | split)

theorem xpClearOrder_keeps {c0 c c' : Ctl} {row col : Nat} (h : Keeps due c0 c) (hx : xpClearOrder row col c = .ok c') :
    Keeps due c0 c' := by
  unfold xpClearOrder at hx
  dsimp only at hx
  split at hx
  · cases hx
  · split at hx
    · cases hx
    · split at hx
      · cases hx; exact h
      · split at hx
        · cases hx; exact pushOnce_keeps (actPathsOf_keeps (setXp_keeps h))
        · cases hx; exact pushOnce_keeps (actPathsOf_keeps (setXp_keeps h))
        · cases hx

theorem pathSetAct_keeps {c0 c : Ctl} {tx ant : Nat} {ref : Ref} (h : Keeps due c0 c) :
    Keeps due c0 (pathSetAct tx ant ref c).1 := by
  unfold pathSetAct
  dsimp only
  repeat' (with_reducible first
    | exact h
    | apply setPath_keeps | apply setPathRec_keeps | apply beginProof_keeps | apply actPath_keeps
    | split | dsimp only)

theorem pathFreeAct_keeps {c0 c : Ctl} {tx : Nat} (h : Keeps due c0 c) : Keeps due c0 (pathFreeAct tx c) := by
  unfold pathFreeAct
  repeat' (with_reducible first
    | exact h | apply releasePath_keeps | split)

theorem setJob_keeps {c0 c : Ctl} {a : Nat} {j : Option Job} (h : Keeps due c0 c) : Keeps due c0 (setJob a j c) := by
  unfold setJob
  repeat' (with_reducible first
    | exact h | apply onAerial_keeps)

theorem openJob_keeps {c0 c : Ctl} {n : Nat} {w : Work} {a : Nat} {t : Target} (h : Keeps due c0 c) : Keeps due c0 (openJob n
    w a t c) := by
  unfold openJob
  repeat' (with_reducible first
    | exact h | refine offerOwn_keeps rfl ?_ | apply setJob_keeps | split)

theorem endJob_keeps {c0 c : Ctl} {a : Nat} {j : Job} {ok : Bool} {code : Nat} (h : Keeps due c0 c) : Keeps due c0 (endJob a
    j ok code c) := by
  unfold endJob
  repeat' (with_reducible first
    | exact h | apply push_keeps | apply setJob_keeps | split | dsimp only)

theorem withdrawJob_keeps {c0 c : Ctl} {n : Nat} {w : Work} (h : Keeps due c0 c) : Keeps due c0 (withdrawJob n w c) := by
  unfold withdrawJob
  repeat' (with_reducible first
    | exact h | apply onAerial_keeps | split)

theorem jobRefused_keeps {c0 c : Ctl} {f : PFrame} {code : Nat} (h : Keeps due c0 c) : Keeps due c0 (jobRefused f code c) :=
    by
  unfold jobRefused
  repeat' (with_reducible first
    | exact h | apply endJob_keeps | split)

theorem jobExchangeEnded_keeps {c0 c : Ctl} {e : Entry} {outcome : Option Outcome} {code : Nat} (h : Keeps due c0 c) :
    Keeps due c0 (jobExchangeEnded e outcome code c) := by
  unfold jobExchangeEnded
  repeat' (with_reducible first
    | exact h | apply endJob_keeps | apply setJob_keeps | split)

theorem judgeJob_keeps {c0 c : Ctl} {a : Nat} (h : Keeps due c0 c) : Keeps due c0 (judgeJob a c) := by
  unfold judgeJob
  repeat' (with_reducible first
    | exact h | apply endJob_keeps | apply setJob_keeps | split)

theorem applyDriveReport_keeps {c0 c : Ctl} {a : Nat} {r : DriveReport} (h : Keeps due c0 c) : Keeps due c0 (applyDriveReport
    a r c) := by
  unfold applyDriveReport
  repeat' (with_reducible first
    | exact h | apply actMotion_keeps | apply judgeJob_keeps | apply onAerial_keeps | split | dsimp only)

theorem queryDrive_keeps {c0 c : Ctl} {a : Nat} (h : Keeps due c0 c) : Keeps due c0 (queryDrive a c) := by
  unfold queryDrive
  repeat' (with_reducible first
    | exact h | refine offerOwn_keeps rfl ?_ | split)

theorem loadResult_keeps {c0 c : Ctl} {code : Nat} (h : Keeps due c0 c) : Keeps due c0 (loadResult code c) := by
  unfold loadResult
  repeat' (with_reducible first
    | exact h | apply raise_keeps)

/-- A pending close takes the place due to it. -/
theorem answerClose_keeps {c0 c : Ctl} {outcome : Option Reason} (h : Keeps (due + c.load.close.toList.length) c0 c) :
    Keeps due c0 (answerClose outcome c) := by
  unfold answerClose
  split
  · rename_i hc
    rw [hc] at h
    split
    · exact answerDone_keeps h
    · exact answerRefused_keeps h
  · exact h.fewer

/-- The burst ends, and with it its pending close. -/
theorem endBurst_keeps {c0 c : Ctl} {outcome : Option Reason} (h : Keeps due c0 c) : Keeps due c0 (endBurst outcome c) := by
  have h2 : Keeps (due + c.load.close.toList.length) c0 (c.onLoad Load.ended) :=
    onLoad_keeps h (by simp only [Load.ended, Option.toList, List.length_nil]; omega)
  unfold endBurst answerClose loadResult
  cases hc : c.load.close with
  | none =>
    rw [hc] at h2
    exact (raise_keeps h2 : Keeps due c0 (raise _ _ _ _ _ _ (c.onLoad Load.ended)))
  | some p =>
    rw [hc] at h2
    cases outcome with
    | none => exact (raise_keeps (answerDone_keeps h2) : Keeps due c0 (raise _ _ _ _ _ _ (answerDone _ _ _ _ _)))
    | some r => exact (raise_keeps (answerRefused_keeps h2) : Keeps due c0 (raise _ _ _ _ _ _ (answerRefused _ _ _ _ _ _)))

@[simp] theorem keepError_close (l : Load) (r : Reason) (n k : Nat) : (l.keepError r n k).close = l.close := by
  unfold Load.keepError; split <;> rfl
@[simp] theorem levelFlow_close (l : Load) (now : Millis) : (l.levelFlow now).close = l.close := by
  unfold Load.levelFlow; split
  · rfl
  · split <;> rfl
@[simp] theorem dropRecord_close (l : Load) (now : Millis) : (l.dropRecord now).close = l.close := by
  simp [Load.dropRecord]

theorem intakeWriteEnded_keeps {c0 c : Ctl} {bk : Bank} {burst : Nat} {fault : Option Reason} (h : Keeps due c0 c) :
    Keeps due c0 (intakeWriteEnded bk burst fault c) := by
  unfold intakeWriteEnded
  split
  · refine pushOnce_keeps (onLoad_same h ?_)
    dsimp only
    rw [dropRecord_close]
    cases fault <;> simp
  · exact h

theorem commitEnded_keeps {c0 c : Ctl} {bk : Bank} {burst : Nat} {fault : Option Reason} (h : Keeps due c0 c) : Keeps due c0
    (commitEnded bk burst fault c) := by
  unfold commitEnded
  repeat' (with_reducible first
    | exact h | apply endBurst_keeps | split)

theorem abandonBurst_keeps {c0 c : Ctl} {reason : Reason} (h : Keeps due c0 c) : Keeps due c0 (abandonBurst reason c) := by
  unfold abandonBurst
  split
  · exact endBurst_keeps (pushOnce_keeps (onStore_keeps h (Or.inr rfl) (List.length_filter_le _ _)))
  · exact h

theorem abandonOn_keeps {c0 c : Ctl} {bk : Bank} {reason : Reason} (h : Keeps due c0 c) : Keeps due c0 (abandonOn bk reason
    c) := by
  unfold abandonOn
  repeat' (with_reducible first
    | exact h | apply abandonBurst_keeps | split)

end Sys2Proof.Laws
end

