-- ==== Sys2Proof/Laws/KeepsStore.lean ====
section
/-! SUPPORT. The operations of the Schedule Store and the Load Intake carry soundness over and do not turn the clock
    back. -/

set_option linter.unreachableTactic false
set_option linter.unusedTactic false

namespace Sys2Proof.Laws
open Sys2Proof.Machine

variable {due : Nat}

theorem modBank_keeps {c0 c : Ctl} {bk : Bank} {f : BankRec → BankRec} (h : Keeps due c0 c) : Keeps due c0 (modBank bk f c)
    := by
  unfold modBank
  repeat' (with_reducible first
    | exact h | apply onStore_same | rfl | split)
  all_goals first
    | rfl | exact Nat.le_refl _ | exact Nat.le_of_eq (List.length_map _) | exact length_dropFirst_le _ _

theorem storeDone_keeps {c0 c : Ctl} {subject : Subject} {ref : Ref} (h : Keeps due c0 c) : Keeps due c0 (storeDone subject
    ref c) := by
  unfold storeDone
  repeat' (with_reducible first
    | exact h | apply raise_keeps)

theorem storeFailed_keeps {c0 c : Ctl} {subject : Subject} {r : Reason} {ref : Option Ref} (h : Keeps due c0 c) : Keeps due c0 (storeFailed subject r ref c) := by
  unfold storeFailed
  repeat' (with_reducible first
    | exact h | apply raise_keeps)

/-- A request joins the store queue where it has a place. -/
theorem queueRequest_keeps {c0 c : Ctl} {r : StoreReq} (hr : c.store.queue.length < 8) (h : Keeps due c0 c) :
    Keeps due c0 (queueRequest r c) :=
  pushOnce_keeps (h.relink (fun _ k => k) (hq := fun _ _ => by
    simp only [Ctl.onStore, endWindow, List.length_append, List.length_map, List.length_singleton]; omega)
    (hs := fun _ x => ⟨x.1, x.2, x.3, x.4⟩))

theorem room_of {s : Store} (h : storeRoom s = true) : s.queue.length < 8 := by
  have := of_decide_eq_true h; unfold Config.storeQueueSize at this; exact this

theorem giveCommit_keeps {c0 c : Ctl} (h : Keeps due c0 c) : Keeps due c0 (giveCommit c) := by
  unfold giveCommit
  split
  · rename_i hr; exact onLoad_same (queueRequest_keeps (room_of hr) h) rfl
  · exact onLoad_same h rfl

/-- An operation that saves no site tables is started. -/
theorem startOp_keeps {c0 c : Ctl} {op : EngineOp} (h : Keeps due c0 c) (ho : savedTables (some op) = none) :
    Keeps due c0 (startOp op c) := onStore_keeps h (Or.inl ho)

theorem setChange_keeps {c0 c : Ctl} {bk : Bank} {p : Pending} (h : Keeps due c0 c) : Keeps due c0 (setChange bk p c) := by
  unfold setChange
  repeat' (with_reducible first
    | exact h | apply modBank_keeps)

theorem again_keeps {c0 c : Ctl} (h : Keeps due c0 c) : Keeps due c0 (again c) := by
  unfold again
  repeat' (with_reducible first
    | exact h | apply pushOnce_keeps)

theorem startAppend_keeps {c0 c : Ctl} {bk : Bank} {e : EntryRec} {ref : Ref} (h : Keeps due c0 c) : Keeps due c0
    (startAppend bk e ref c) := by
  unfold startAppend
  repeat' (with_reducible first
    | exact h | apply again_keeps | apply startOp_keeps | apply storeFailed_keeps | split)
  all_goals first
    | rfl | exact Nat.le_refl _ | exact Nat.le_of_eq (List.length_map _) | exact length_dropFirst_le _ _

theorem startBurstWrite_keeps {c0 c : Ctl} {bk : Bank} {e : EntryRec} {burst : Nat} (h : Keeps due c0 c) : Keeps due c0
    (startBurstWrite bk e burst c) := by
  unfold startBurstWrite
  repeat' (with_reducible first
    | exact h | apply again_keeps | apply intakeWriteEnded_keeps | apply storeFailed_keeps | apply startOp_keeps | split)
  all_goals first
    | rfl | exact Nat.le_refl _ | exact Nat.le_of_eq (List.length_map _) | exact length_dropFirst_le _ _

theorem startVoid_keeps {c0 c : Ctl} {bk : Bank} {id : Nat} {ref : Ref} (h : Keeps due c0 c) : Keeps due c0 (startVoid bk id
    ref c) := by
  unfold startVoid
  repeat' (with_reducible first
    | exact h | apply again_keeps | apply startOp_keeps | apply storeFailed_keeps | split)
  all_goals first
    | rfl | exact Nat.le_refl _ | exact Nat.le_of_eq (List.length_map _) | exact length_dropFirst_le _ _

theorem failOrders_keeps {c0 c : Ctl} {subject : Subject} {r : Reason} {refs : List Ref} (h : Keeps due c0 c) : Keeps due c0
    (failOrders subject r refs c) := by
  unfold failOrders
  repeat' (with_reducible first
    | exact h | assumption | apply storeFailed_keeps | refine forEach_keeps ?_ _ ?_ | intro _ _ _)

theorem startErase_keeps {c0 c : Ctl} {bk : Bank} {pages : List Nat} {refs : List Ref} (h : Keeps due c0 c) : Keeps due c0
    (startErase bk pages refs c) := by
  unfold startErase
  repeat' (with_reducible first
    | exact h | apply again_keeps | apply failOrders_keeps | apply onStore_same | rfl | split)
  all_goals first
    | rfl | exact Nat.le_refl _ | exact Nat.le_of_eq (List.length_map _) | exact length_dropFirst_le _ _

theorem startClear_keeps {c0 c : Ctl} {bk : Bank} {ref : Ref} (h : Keeps due c0 c) : Keeps due c0 (startClear bk ref c) := by
  unfold startClear
  repeat' (with_reducible first
    | exact h | apply again_keeps | apply setChange_keeps | apply storeFailed_keeps | apply onStore_same | rfl
    | split)
  all_goals first
    | rfl | exact Nat.le_refl _ | exact Nat.le_of_eq (List.length_map _) | exact length_dropFirst_le _ _

theorem headerFailed_keeps {c0 c : Ctl} {bk : Bank} {ch : HeaderChange} {ref : Option Ref} {r : Reason} {alarm :
    Bool} (h : Keeps due c0 c) : Keeps due c0 (headerFailed bk ch ref r alarm c) := by
  unfold headerFailed
  repeat' (with_reducible first
    | exact h | apply commitEnded_keeps | apply setChange_keeps | apply storeFailed_keeps | split | dsimp only)

theorem closeBank_keeps {c0 c : Ctl} (h : Keeps due c0 c) : Keeps due c0 (closeBank c) := by
  unfold closeBank
  repeat' (with_reducible first
    | exact h | apply abandonOn_keeps | apply onStore_same | rfl | split)
  all_goals first
    | rfl | exact Nat.le_refl _ | exact Nat.le_of_eq (List.length_map _) | exact length_dropFirst_le _ _

theorem closeUnsealed_keeps {c0 c : Ctl} {bk : Bank} {ch : HeaderChange} {r : Reason} (h : Keeps due c0 c) :
    Keeps due c0 (closeUnsealed bk ch r c) := by
  unfold closeUnsealed
  split
  · exact closeBank_keeps h
  · exact h

theorem startHeader_keeps {c0 c : Ctl} {bk : Bank} {ch : HeaderChange} {ref : Option Ref} (h : Keeps due c0 c) : Keeps due c0
    (startHeader bk ch ref c) := by
  unfold startHeader
  repeat' (with_reducible first
    | exact h | apply again_keeps | apply closeUnsealed_keeps | apply headerFailed_keeps | apply startOp_keeps | split)
  all_goals first
    | rfl | exact Nat.le_refl _ | exact Nat.le_of_eq (List.length_map _) | exact length_dropFirst_le _ _

/-- A site save takes the image of the working copy, which is consistent, and empties one image. -/
theorem startSave_keeps {c0 c : Ctl} {ref : Ref} (h : Keeps due c0 c) : Keeps due c0 (startSave ref c) := by
  unfold startSave
  dsimp only
  split
  · exact h.relink (fun _ k => ⟨k.1, k.2, k.3, k.4, k.5, k.6, k.7⟩)
      (hs := fun _ x => ⟨x.1, x.2, fun _ hi => (by cases hi), fun t ht => (by cases ht; exact x.1)⟩)
  · exact h.relink (fun _ k => ⟨k.1, k.2, k.3, k.4, k.5, k.6, k.7⟩)
      (hs := fun _ x => ⟨x.1, fun _ hi => (by cases hi), x.3, fun t ht => (by cases ht; exact x.1)⟩)

theorem startRequest_keeps {c0 c : Ctl} {r : StoreReq} (h : Keeps due c0 c) : Keeps due c0 (startRequest r c) := by
  unfold startRequest
  repeat' (with_reducible first
    | exact h | apply startAppend_keeps | apply startBurstWrite_keeps | apply startClear_keeps
    | apply startErase_keeps | apply startHeader_keeps | apply startSave_keeps | apply startVoid_keeps | split)

theorem eraseStops_keeps {c0 c : Ctl} {j : EraseJob} (h : Keeps due c0 c) : Keeps due c0 (eraseStops j c) := by
  unfold eraseStops
  repeat' (with_reducible first
    | exact h | apply failOrders_keeps | apply setChange_keeps | apply onStore_same | rfl | split | dsimp only)
  all_goals first
    | rfl | exact Nat.le_refl _ | exact Nat.le_of_eq (List.length_map _) | exact length_dropFirst_le _ _

theorem startPageErase_keeps {c0 c : Ctl} {j : EraseJob} {page : Nat} (h : Keeps due c0 c) : Keeps due c0 (startPageErase j page
    c) := by
  unfold startPageErase
  repeat' (with_reducible first
    | exact h | apply again_keeps | apply eraseStops_keeps | apply startOp_keeps | split)
  all_goals first
    | rfl | exact Nat.le_refl _ | exact Nat.le_of_eq (List.length_map _) | exact length_dropFirst_le _ _

theorem engine_keeps {c0 c : Ctl} (h : Keeps due c0 c) : Keeps due c0 (engine c) := by
  unfold engine
  repeat' (with_reducible first
    | exact h | apply again_keeps | apply pushOnce_keeps | apply startOp_keeps | apply startPageErase_keeps
    | apply startRequest_keeps
    | apply onStore_same | rfl | split)
  all_goals first
    | rfl | exact Nat.le_refl _ | exact Nat.le_of_eq (List.length_map _) | exact length_dropFirst_le _ _
    | (rename_i hq _; rw [hq]; exact Nat.le_succ _) | (rename_i hq; rw [hq]; exact Nat.le_succ _)

theorem endOp_keeps {c0 c : Ctl} {t : Millis} (h : Keeps due c0 c) : Keeps due c0 (endOp t c) :=
  again_keeps (onStore_keeps (clockReaches_keeps h) (Or.inl rfl))

theorem raiseFault_keeps {c0 c : Ctl} {bk : Bank} (h : Keeps due c0 c) : Keeps due c0 (raiseFault bk c) := by
  unfold raiseFault
  repeat' (with_reducible first
    | exact h | apply modBank_keeps)

theorem slotWritten_keeps {c0 c : Ctl} {bk : Bank} {k : Nat} {e : EntryRec} {burst : Nat} {ref : Option Ref} (h :
    Keeps due c0 c) : Keeps due c0 (slotWritten bk k e burst ref c) := by
  unfold slotWritten
  repeat' (with_reducible first
    | exact h | apply intakeWriteEnded_keeps | apply modBank_keeps | apply push_keeps | apply storeDone_keeps
    | split | dsimp only)

theorem slotSpoiled_keeps {c0 c : Ctl} {bk : Bank} {k : Nat} {e : EntryRec} {burst : Nat} {ref : Option Ref} (h :
    Keeps due c0 c) : Keeps due c0 (slotSpoiled bk k e burst ref c) := by
  unfold slotSpoiled
  repeat' (with_reducible first
    | exact h | apply drawFree_keeps | apply intakeWriteEnded_keeps | apply modBank_keeps
    | apply raiseFault_keeps | apply storeFailed_keeps | split | dsimp only)

theorem slotVoided_keeps {c0 c : Ctl} {bk : Bank} {k id : Nat} {ref : Ref} (h : Keeps due c0 c) : Keeps due c0 (slotVoided bk
    k id ref c) := by
  unfold slotVoided
  repeat' (with_reducible first
    | exact h | apply modBank_keeps | apply push_keeps | apply storeDone_keeps | split | dsimp only)

theorem voidFailed_keeps {c0 c : Ctl} {bk : Bank} {k id : Nat} {ref : Ref} (h : Keeps due c0 c) : Keeps due c0 (voidFailed bk
    k id ref c) := by
  unfold voidFailed
  repeat' (with_reducible first
    | exact h | apply drawFree_keeps | apply modBank_keeps | apply raiseFault_keeps | apply storeFailed_keeps)

theorem eraseEnded_keeps {c0 c : Ctl} {j : EraseJob} (h : Keeps due c0 c) : Keeps due c0 (eraseEnded j c) := by
  unfold eraseEnded
  repeat' (with_reducible first
    | exact h | assumption | apply again_keeps | apply startOp_keeps | apply storeDone_keeps
    | refine forEach_keeps ?_ _ ?_ | apply onStore_same | rfl | intro _ _ _ | split | dsimp only)
  all_goals first
    | rfl | exact Nat.le_refl _ | exact Nat.le_of_eq (List.length_map _) | exact length_dropFirst_le _ _

theorem pageErased_keeps {c0 c : Ctl} {bk : Bank} {page : Nat} (h : Keeps due c0 c) : Keeps due c0 (pageErased bk page c) :=
    by
  unfold pageErased
  repeat' (with_reducible first
    | exact h | apply again_keeps | apply eraseEnded_keeps | apply modBank_keeps | apply onStore_same | rfl
    | split | dsimp only)
  all_goals first
    | rfl | exact Nat.le_refl _ | exact Nat.le_of_eq (List.length_map _) | exact length_dropFirst_le _ _

theorem cutErase_keeps {c0 c : Ctl} {bk : Bank} {page : Nat} (h : Keeps due c0 c) : Keeps due c0 (cutErase bk page c) := by
  unfold cutErase
  repeat' (with_reducible first
    | exact h | apply drawFree_keeps | apply modBank_keeps)

theorem eraseFailed_keeps {c0 c : Ctl} {bk : Bank} {page : Nat} (h : Keeps due c0 c) : Keeps due c0 (eraseFailed bk page c)
    := by
  unfold eraseFailed
  repeat' (with_reducible first
    | exact h | apply cutErase_keeps | apply eraseStops_keeps | apply modBank_keeps | apply raiseFault_keeps
    | split | dsimp only)

theorem headerWritten_keeps {c0 c : Ctl} {bk : Bank} {ch : HeaderChange} {ref : Option Ref} (h : Keeps due c0 c) : Keeps due c0 (headerWritten bk ch ref c) := by
  unfold headerWritten
  repeat' (with_reducible first
    | exact h | apply commitEnded_keeps | apply modBank_keeps | apply push_keeps | apply setChange_keeps
    | apply storeDone_keeps | apply onPlan_same | rfl | split | dsimp only)

/-- The image written holds the tables saved. -/
theorem saveDone_keeps {c0 c : Ctl} {second : Bool} {t : Tables} {number : Nat} {ref : Ref} (h : Keeps due c0 c)
    (ht : Sound c0 → Consistent t) : Keeps due c0 (saveDone second t number ref c) := by
  refine storeDone_keeps (h.relink (fun _ k => ⟨k.1, k.2, k.3, k.4, k.5, k.6, k.7⟩) (hs := fun s x => ?_))
  cases second with
  | true => exact ⟨x.1, x.2, fun i hi => (by cases hi; exact ht s), x.4⟩
  | false => exact ⟨x.1, fun i hi => (by cases hi; exact ht s), x.3, x.4⟩

theorem saveFailed_keeps {c0 c : Ctl} {ref : Ref} (h : Keeps due c0 c) : Keeps due c0 (saveFailed ref c) := by
  unfold saveFailed
  repeat' (with_reducible first
    | exact h | apply drawFree_keeps | apply raise_keeps | apply storeFailed_keeps | apply onSite_same | rfl)
  all_goals first
    | rfl | exact Nat.le_refl _ | exact Nat.le_of_eq (List.length_map _) | exact length_dropFirst_le _ _

theorem storeLimit_keeps {c0 c : Ctl} (h : Keeps due c0 c) : Keeps due c0 (storeLimit c) := by
  unfold storeLimit
  repeat' (with_reducible first
    | exact h | apply endOp_keeps | apply eraseFailed_keeps | apply headerFailed_keeps | apply modBank_keeps
    | apply raiseFault_keeps | apply slotSpoiled_keeps | apply voidFailed_keeps | split)

theorem refuseOrder_keeps {c0 c : Ctl} {o : OwnOrder} {verb : Nat} {r : Reason} {detail : List Byte} (h : Keeps (due + 1) c0 c)
    : Keeps due c0 (refuseOrder o verb r detail c) := by
  unfold refuseOrder
  repeat' (with_reducible first
    | exact h | apply answerRefused_keeps)

theorem acceptRequest_keeps {c0 c : Ctl} {o : OwnOrder} {verb : Nat} {r : StoreReq} (hr : c.store.queue.length < 8)
    (h : Keeps (due + 1) c0 c) : Keeps due c0 (acceptRequest o verb r c) :=
  queueRequest_keeps hr (answerAccepted_keeps h)

/-- The end of an open bank, and of a burst, lengthens no store queue. -/
theorem abandonBurst_queue (reason : Reason) (c : Ctl) :
    (abandonBurst reason c).store.queue.length ≤ c.store.queue.length := by
  have : ∀ (o : Option Reason) (c : Ctl), (endBurst o c).store = c.store := by
    intro o c
    have ha : (answerClose o c).store = c.store := by
      unfold answerClose; split
      · split <;> rfl
      · rfl
    exact ha
  unfold abandonBurst
  split
  · rw [this]
    unfold pushOnce
    split <;> exact List.length_filter_le _ _
  · exact Nat.le_refl _

theorem abandonOn_queue (bk : Bank) (reason : Reason) (c : Ctl) :
    (abandonOn bk reason c).store.queue.length ≤ c.store.queue.length := by
  unfold abandonOn; split
  · exact abandonBurst_queue _ _
  · exact Nat.le_refl _

theorem closeBank_queue (c : Ctl) : (closeBank c).store.queue.length ≤ c.store.queue.length := by
  unfold closeBank
  split
  · exact abandonOn_queue _ _ _
  · exact Nat.le_refl _

theorem storeOpen_keeps {c0 c : Ctl} {o : OwnOrder} (h : Keeps (due + 1) c0 c) : Keeps due c0 (storeOpen o c) := by
  unfold storeOpen
  repeat' (with_reducible first
    | exact h | apply answerDone_keeps | apply closeBank_keeps | apply refuseOrder_keeps | apply onStore_same
    | rfl | split | dsimp only)
  all_goals first
    | rfl | exact Nat.le_refl _ | exact Nat.le_of_eq (List.length_map _) | exact length_dropFirst_le _ _

theorem storeClose_keeps {c0 c : Ctl} {o : OwnOrder} (h : Keeps (due + 1) c0 c) : Keeps due c0 (storeClose o c) := by
  unfold storeClose
  repeat' (with_reducible first
    | exact h | apply answerDone_keeps | apply closeBank_keeps)

theorem createTests_room {c : Ctl} {bk : Bank} {n t : Nat} (h : createTests c bk n t = none) : c.store.queue.length < 8 := by
  rcases hr : storeRoom c.store with _ | _
  · unfold createTests at h
    rw [hr] at h
    simp only [Bool.not_false, if_true] at h
    repeat' split at h
    all_goals first
      | cases h
      | contradiction
  · exact room_of hr

theorem sealTests_room {c : Ctl} {bk : Bank} (h : sealTests c bk = none) : c.store.queue.length < 8 := by
  rcases hr : storeRoom c.store with _ | _
  · unfold sealTests at h
    rw [hr] at h
    simp only [Bool.not_false, if_true] at h
    repeat' split at h
    all_goals first
      | cases h
      | contradiction
  · exact room_of hr

theorem clearTests_room {c : Ctl} {bk : Bank} (h : clearTests c bk = none) : c.store.queue.length < 8 := by
  rcases hr : storeRoom c.store with _ | _
  · unfold clearTests at h
    rw [hr] at h
    simp only [Bool.not_false, if_true] at h
    repeat' split at h
    all_goals first
      | cases h
      | contradiction
  · exact room_of hr

theorem appendTests_room {c : Ctl} {bk : Bank} {e : EntryRec} (h : appendTests c bk e = none) : c.store.queue.length < 8 := by
  rcases hr : storeRoom c.store with _ | _
  · unfold appendTests at h
    rw [hr] at h
    simp only [Bool.not_false, if_true, Bool.false_eq_true, if_false] at h
    repeat' split at h
    all_goals first
      | cases h
      | contradiction
  · exact room_of hr

theorem voidTests_room {c : Ctl} {bk : Bank} {id : Nat} (h : voidTests c bk id = none) : c.store.queue.length < 8 := by
  rcases hr : storeRoom c.store with _ | _
  · unfold voidTests at h
    rw [hr] at h
    simp only [Bool.not_false, if_true, Bool.false_eq_true, if_false] at h
    repeat' split at h
    all_goals first
      | cases h
      | contradiction
  · exact room_of hr

theorem bankCreate_keeps {c0 c : Ctl} {o : OwnOrder} (h : Keeps (due + 1) c0 c) : Keeps due c0 (bankCreate o c) := by
  unfold bankCreate
  repeat' (with_reducible first
    | exact h | apply acceptRequest_keeps | apply refuseOrder_keeps | apply setChange_keeps | split)
  rename_i ht; exact createTests_room ht

theorem bankSeal_keeps {c0 c : Ctl} {o : OwnOrder} (h : Keeps (due + 1) c0 c) : Keeps due c0 (bankSeal o c) := by
  unfold bankSeal
  repeat' (with_reducible first
    | exact h | apply acceptRequest_keeps | apply closeBank_keeps | apply refuseOrder_keeps
    | apply setChange_keeps | split)
  rename_i ht; exact Nat.lt_of_le_of_lt (closeBank_queue c) (sealTests_room ht)

theorem bankClear_keeps {c0 c : Ctl} {o : OwnOrder} (h : Keeps (due + 1) c0 c) : Keeps due c0 (bankClear o c) := by
  unfold bankClear
  repeat' (with_reducible first
    | exact h | apply abandonOn_keeps | apply acceptRequest_keeps | apply closeBank_keeps
    | apply refuseOrder_keeps | apply setChange_keeps | split | dsimp only)
  · rename_i ht _
    exact Nat.lt_of_le_of_lt (Nat.le_trans (abandonOn_queue _ _ _) (closeBank_queue c)) (clearTests_room ht)
  · rename_i ht _; exact Nat.lt_of_le_of_lt (abandonOn_queue _ _ _) (clearTests_room ht)

theorem entryAppend_keeps {c0 c : Ctl} {o : OwnOrder} (h : Keeps (due + 1) c0 c) : Keeps due c0 (entryAppend o c) := by
  unfold entryAppend
  repeat' (with_reducible first
    | exact h | apply acceptRequest_keeps | apply refuseOrder_keeps | split)
  rename_i ht; exact appendTests_room ht

theorem entryVoid_keeps {c0 c : Ctl} {o : OwnOrder} (h : Keeps (due + 1) c0 c) : Keeps due c0 (entryVoid o c) := by
  unfold entryVoid
  repeat' (with_reducible first
    | exact h | apply acceptRequest_keeps | apply refuseOrder_keeps | split)
  rename_i ht; exact voidTests_room ht

theorem selectPages_keeps {c0 c : Ctl} {bk : Bank} {pages : List Nat} {ref : Ref}
    (hr : windowOpenFor c.store bk = false → c.store.queue.length < 8) (h : Keeps due c0 c) :
    Keeps due c0 (selectPages bk pages ref c) := by
  unfold selectPages
  split
  · exact onStore_same h rfl (Nat.le_of_eq (List.length_map _))
  · rename_i hw; exact onStore_same (queueRequest_keeps (hr (by simpa using hw)) h) rfl

theorem eraseTests_room {c : Ctl} {bk : Bank} {pages : List Nat} (h : eraseTests c bk pages = none)
    (hw : windowOpenFor c.store bk = false) : c.store.queue.length < 8 := by
  rcases hr : storeRoom c.store with _ | _
  · unfold eraseTests at h
    rw [hr, hw] at h
    simp only [Bool.or_false, Bool.false_eq_true, if_false] at h
    repeat' split at h
    all_goals cases h
  · exact room_of hr

theorem pageErase_keeps {c0 c : Ctl} {o : OwnOrder} (h : Keeps (due + 1) c0 c) : Keeps due c0 (pageErase o c) := by
  unfold pageErase
  repeat' (with_reducible first
    | exact h | apply answerAccepted_keeps | apply refuseOrder_keeps | apply selectPages_keeps | split
    | dsimp only)
  rename_i ht; exact eraseTests_room ht

theorem storeFaultClear_keeps {c0 c : Ctl} {o : OwnOrder} (h : Keeps (due + 1) c0 c) : Keeps due c0 (storeFaultClear o c) := by
  unfold storeFaultClear
  repeat' (with_reducible first
    | exact h | apply answerDone_keeps | apply modBank_keeps | apply refuseOrder_keeps | split)

theorem siteSave_keeps {c0 c : Ctl} {o : OwnOrder} (h : Keeps (due + 1) c0 c) : Keeps due c0 (siteSave o c) := by
  unfold siteSave
  repeat' (with_reducible first
    | exact h | apply acceptRequest_keeps | apply refuseOrder_keeps | split)
  rename_i hr; exact room_of hr

theorem entryRead_keeps {c0 c : Ctl} {o : OwnOrder} (h : Keeps (due + 1) c0 c) : Keeps due c0 (entryRead o c) := by
  unfold entryRead
  repeat' (with_reducible first
    | exact h | apply answerDone_keeps | apply drawFree_keeps | apply refuseOrder_keeps | split)

theorem storeStatus_keeps {c0 c : Ctl} {o : OwnOrder} (h : Keeps (due + 1) c0 c) : Keeps due c0 (storeStatus o c) := by
  unfold storeStatus
  repeat' (with_reducible first
    | exact h | apply answerDone_keeps)

theorem windowExpired_keeps {c0 c : Ctl} (h : Keeps due c0 c) : Keeps due c0 (windowExpired c) := by
  unfold windowExpired
  repeat' (with_reducible first
    | exact h | apply clockReaches_keeps | apply engine_keeps | apply pushOnce_keeps | apply onStore_same
    | rfl | split)
  all_goals first
    | rfl | exact Nat.le_refl _ | exact Nat.le_of_eq (List.length_map _) | exact length_dropFirst_le _ _

theorem activateHeaders_keeps {c0 c : Ctl} {bk : Bank} (h : Keeps due c0 c) : Keeps due c0 (activateHeaders bk c) := by
  unfold activateHeaders
  repeat' (with_reducible first
    | exact h | apply engine_keeps | apply modBank_keeps | apply pushOnce_keeps | apply onStore_same | rfl
    | split | dsimp only)
  all_goals first
    | rfl | exact Nat.le_refl _ | exact Nat.le_of_eq (List.length_map _) | exact length_dropFirst_le _ _

theorem interruptOp_keeps {c0 c : Ctl} (h : Keeps due c0 c) : Keeps due c0 (interruptOp c) := by
  unfold interruptOp
  repeat' (with_reducible first
    | exact h | apply cutErase_keeps | apply drawFree_keeps | apply modBank_keeps | split)

theorem resetStore_keeps {c0 c : Ctl} (h : Keeps due c0 c) : Keeps due c0 (resetStore c) := by
  unfold resetStore
  exact onStore_keeps (modBank_keeps (modBank_keeps (interruptOp_keeps h))) (Or.inl rfl) (Nat.zero_le _)

theorem storeScan_keeps {c0 c : Ctl} (h : Keeps due c0 c) : Keeps due c0 (storeScan c) := by
  have h' : Keeps due c0 (modBank .b scanBank (modBank .a scanBank c)) := modBank_keeps (modBank_keeps h)
  unfold storeScan
  dsimp only
  refine onPlan_same ?_ rfl
  split
  · exact (modBank_keeps h').same
  · exact h'.same

theorem loadOpen_keeps {c0 c : Ctl} {o : OwnOrder} (h : Keeps (due + 1) c0 c) : Keeps due c0 (loadOpen o c) := by
  unfold loadOpen
  repeat' (with_reducible first
    | exact h | apply answerDone_keeps | apply modBank_keeps | apply refuseOrder_keeps
    | refine onLoad_keeps ?_ (Nat.add_le_add_right (Nat.zero_le _) _) | split | dsimp only)

/-- The received count keeps its range of 16 bits (R140). -/
theorem countReceived_le (free n : Nat) : countReceived free n ≤ 65535 := by
  unfold countReceived
  have := freeBelow_lt free (n := 65536) (by decide)
  split <;> omega

theorem takeRecord_close (now free : Nat) (p : List Byte) (l : Load) : (takeRecord now free p l).close = l.close := by
  unfold takeRecord
  dsimp only
  split
  · exact keepError_close _ _ _ _
  · split
    · exact keepError_close _ _ _ _
    · exact levelFlow_close _ _

theorem loadData_keeps {c0 c : Ctl} {o : OwnOrder} (h : Keeps (due + 1) c0 c) : Keeps due c0 (loadData o c) := by
  unfold loadData
  dsimp only
  split
  · exact pushOnce_keeps (drawFree_keeps (onLoad_same (releasePlace_keeps h) (takeRecord_close _ _ _ _)))
  · exact releasePlace_keeps h

theorem loadClose_keeps {c0 c : Ctl} {o : OwnOrder} (h : Keeps (due + 1) c0 c) : Keeps due c0 (loadClose o c) := by
  unfold loadClose
  repeat' (with_reducible first
    | exact h | apply pushOnce_keeps | apply refuseOrder_keeps | refine onLoad_keeps h ?_ | split)
  simp only [Option.toList_some, List.length_singleton]; omega

theorem loadBadSubverb_keeps {c0 c : Ctl} {verb : Nat} {o : OwnOrder} (h : Keeps (due + 1) c0 c) : Keeps due c0 (loadBadSubverb
    verb o c) := by
  unfold loadBadSubverb
  repeat' (with_reducible first
    | exact h | apply refuseOrder_keeps)

theorem giveRecord_keeps {c0 c : Ctl} {e : EntryRec} (h : Keeps due c0 c) : Keeps due c0 (giveRecord e c) := by
  unfold giveRecord
  split
  · rename_i hr; exact onLoad_same (queueRequest_keeps (room_of hr) h) rfl
  · exact onLoad_same h rfl

theorem judgeBurst_keeps {c0 c : Ctl} (h : Keeps due c0 c) : Keeps due c0 (judgeBurst c) := by
  unfold judgeBurst
  repeat' (with_reducible first
    | exact h | apply endBurst_keeps | apply giveCommit_keeps | split)

theorem intake_keeps {c0 c : Ctl} (h : Keeps due c0 c) : Keeps due c0 (intake c) := by
  unfold intake
  repeat' (with_reducible first
    | exact h | apply giveCommit_keeps | apply giveRecord_keeps | apply judgeBurst_keeps
    | apply pushOnce_keeps | apply onLoad_same | split)
  all_goals simp

theorem idleExpired_keeps {c0 c : Ctl} (h : Keeps due c0 c) : Keeps due c0 (idleExpired c) := by
  unfold idleExpired
  repeat' (with_reducible first
    | exact h | apply abandonBurst_keeps | apply clockReaches_keeps | split)

end Sys2Proof.Laws
end

