-- ==== Sys2Proof/Laws/KeepsPlan.lean ====
section
/-! SUPPORT. The operations of the Plan Unit and the Changeover Unit carry soundness over and do not turn the clock
    back. -/

set_option linter.unreachableTactic false
set_option linter.unusedTactic false

namespace Sys2Proof.Laws
open Sys2Proof.Machine

variable {due : Nat}

theorem setLog_keeps {c0 c : Ctl} {log : List LogRec} (h : Keeps due c0 c) : Keeps due c0 (setLog log c) := by
  unfold setLog
  repeat' (with_reducible first
    | exact h | apply pushOnce_keeps | apply onPlan_same | rfl | split | dsimp only)

theorem pruneLog_keeps {c0 c : Ctl} (h : Keeps due c0 c) : Keeps due c0 (pruneLog c) := by
  unfold pruneLog
  repeat' (with_reducible first
    | exact h | apply setLog_keeps | split)

theorem raiseHigh_keeps {c0 c : Ctl} {t : SiteTime} (h : Keeps due c0 c) : Keeps due c0 (raiseHigh t c) := by
  unfold raiseHigh
  repeat' (with_reducible first
    | exact h | apply pruneLog_keeps | apply onPlan_same | rfl | split)

theorem recordOcc_keeps {c0 c : Ctl} {r : LogRec} (h : Keeps due c0 c) : Keeps due c0 (recordOcc r c) := by
  unfold recordOcc
  repeat' (with_reducible first
    | exact h | apply onPlan_same | rfl | split)

theorem dropReturned_keeps {c0 c : Ctl} {occ : Occ} (h : Keeps due c0 c) : Keeps due c0 (dropReturned occ c) := by
  unfold dropReturned
  repeat' (with_reducible first
    | exact h | apply setLog_keeps)

theorem endLogRec_keeps {c0 c : Ctl} {occ : Occ} {now : SiteTime} (h : Keeps due c0 c) : Keeps due c0 (endLogRec occ now c)
    := by
  unfold endLogRec
  repeat' (with_reducible first
    | exact h | apply raiseHigh_keeps | apply setLog_keeps | split)

theorem length_insertEvent (v : Event) (l : List Event) : (insertEvent v l).length = l.length + 1 := by
  induction l with
  | nil => rfl
  | cons w t ih => unfold insertEvent; split <;> simp [ih]

theorem addEvent_keeps {c0 c : Ctl} {v : Event} (hr : Sound c0 → c.plan.events.length < 256) (h : Keeps due c0 c) :
    Keeps due c0 (addEvent v c) :=
  h.relink (fun _ k => k) (he := fun s _ => by
    have := hr s; simp only [addEvent, Ctl.onPlan, length_insertEvent]; omega)

theorem removeEvents_keeps {c0 c : Ctl} {p : Event → Bool} (h : Keeps due c0 c) : Keeps due c0 (removeEvents p c) :=
  onPlan_keeps h (fun x => Nat.le_trans (List.length_filter_le _ _) x)

theorem mapEvent_keeps {c0 c : Ctl} {v : Event} {f : Event → Event} (h : Keeps due c0 c) : Keeps due c0 (mapEvent v f c) :=
  onPlan_keeps h (fun x => by simpa using x)

theorem planFull_room {c : Ctl} (h : ¬planFull c = true) : c.plan.events.length < 256 := by
  unfold planFull at h
  have := of_decide_eq_false (Bool.eq_false_iff.2 h)
  simp only [Config.planSize] at this; omega

theorem setLog_events (log : List LogRec) (c : Ctl) : (setLog log c).plan.events = c.plan.events := by
  unfold setLog pushOnce push; dsimp only; split
  · split <;> rfl
  · rfl

theorem raiseHigh_events (t : SiteTime) (c : Ctl) : (raiseHigh t c).plan.events = c.plan.events := by
  unfold raiseHigh pruneLog; split
  · rw [setLog_events]; rfl
  · rfl

theorem recordOcc_events (r : LogRec) (c : Ctl) : (recordOcc r c).plan.events = c.plan.events := by
  unfold recordOcc; split <;> rfl

theorem planFullAlarm_keeps {c0 c : Ctl} (h : Keeps due c0 c) : Keeps due c0 (planFullAlarm c) := by
  unfold planFullAlarm
  repeat' (with_reducible first
    | exact h | apply raise_keeps | apply onPlan_same | rfl | split | dsimp only)

theorem insertEnd_keeps {c0 c : Ctl} {occ : Occ} {tx priority : Nat} {start finish at_ : SiteTime} (h : Keeps due c0 c) :
    Keeps due c0 (insertEnd occ tx priority start finish at_ c).1 := by
  unfold insertEnd
  split
  · exact h
  · split
    · exact mapEvent_keeps h
    · split
      · exact h
      · rename_i hf; exact addEvent_keeps (fun _ => planFull_room hf) h

theorem leaveOver_keeps {c0 c : Ctl} {l : List Consider} (h : Keeps due c0 c) : Keeps due c0 (leaveOver l c) :=
  onPlan_same h rfl

theorem setScan_keeps {c0 c : Ctl} {m : ScanMark} (h : Keeps due c0 c) : Keeps due c0 (setScan m c) := onPlan_same h rfl

theorem insertEndNow_keeps {c0 c : Ctl} {occ : Occ} {tx priority : Nat} {start finish : SiteTime} (h : Keeps due c0 c) :
    Keeps due c0 (insertEndNow occ tx priority start finish c) := by
  unfold insertEndNow
  repeat' (with_reducible first
    | exact h | apply insertEnd_keeps | apply leaveOver_keeps | apply planFullAlarm_keeps | apply pushOnce_keeps
    | split | dsimp only)

theorem reinstate_keeps {c0 c : Ctl} {v : Event} (h : Keeps due c0 c) : Keeps due c0 (reinstate v c) := by
  unfold reinstate
  repeat' (with_reducible first
    | exact h | apply insertEndNow_keeps | split)

theorem missed_keeps {c0 c : Ctl} {occ : Occ} {detail : Failure} (h : Keeps due c0 c) : Keeps due c0 (missed occ detail c) :=
    by
  unfold missed
  repeat' (with_reducible first
    | exact h | apply raise_keeps)

theorem dropStart_keeps {c0 c : Ctl} {v : Event} {detail : Failure} (h : Keeps due c0 c) : Keeps due c0 (dropStart v detail
    c) := by
  unfold dropStart
  repeat' (with_reducible first
    | exact h | apply dropReturned_keeps | apply missed_keeps | apply reinstate_keeps
    | apply removeEvents_keeps)

theorem insertionReports_keeps {c0 c : Ctl} {v : Event} {f : Figures} (h : Keeps due c0 c) : Keeps due c0 (insertionReports v
    f c) := by
  unfold insertionReports
  repeat' (with_reducible first
    | exact h | apply raise_keeps | split | dsimp only)

theorem insertionReports_events (v : Event) (f : Figures) (c : Ctl) :
    (insertionReports v f c).plan.events = c.plan.events := by
  unfold insertionReports; dsimp only; split <;> split <;> rfl

theorem placeStart_keeps {c0 c : Ctl} {v : Event} (hr : Sound c0 → c.plan.events.length < 256) (h : Keeps due c0 c) :
    Keeps due c0 (placeStart v c) := by
  unfold placeStart
  split
  · exact addEvent_keeps (fun s => Nat.lt_of_le_of_lt (List.length_filter_le _ _) (hr s)) (removeEvents_keeps h)
  · exact addEvent_keeps hr h

theorem insertStart_keeps {c0 c : Ctl} {x : Consider} {e : EntryRec} {fix high : Bool} {now : SiteTime}
    (h : Keeps due c0 c) : Keeps due c0 (insertStart x e fix high now c).1 := by
  unfold insertStart
  dsimp only
  split
  · split
    · exact h
    · generalize (if fix = true then _ else _ : Figures) = f
      split
      · exact h
      · split
        · exact h
        · rename_i hf
          refine placeStart_keeps (fun _ => ?_) (insertionReports_keeps h)
          rw [insertionReports_events]; exact planFull_room hf
  · exact dropReturned_keeps (missed_keeps h)

theorem considerEvent_keeps {c0 c : Ctl} {x : Consider} {now : SiteTime} (h : Keeps due c0 c) :
    Keeps due c0 (considerEvent x now c).1 := by
  unfold considerEvent
  repeat' (with_reducible first
    | exact h
    | apply insertStart_keeps | apply insertEnd_keeps | apply dropReturned_keeps | apply missed_keeps
    | split | dsimp only)

theorem considerLeft_keeps {c0 c : Ctl} {x : Consider} {now : SiteTime} (h : Keeps due c0 c) :
    Keeps due c0 (considerLeft x now c).1 := by
  unfold considerLeft
  repeat' (with_reducible first
    | exact h | apply considerEvent_keeps | apply insertEnd_keeps | split)

theorem considerCatchUp_keeps {c0 c : Ctl} {x : Consider} {now : SiteTime} (h : Keeps due c0 c) :
    Keeps due c0 (considerCatchUp x now c).1 := by
  unfold considerCatchUp
  repeat' (with_reducible first
    | exact h | apply insertStart_keeps | split)

@[simp] theorem setScan_scan (m : ScanMark) (c : Ctl) : (setScan m c).plan.scan = m := rfl
@[simp] theorem setScan_events (m : ScanMark) (c : Ctl) : (setScan m c).plan.events = c.plan.events := rfl
@[simp] theorem leaveOver_left (l : List Consider) (c : Ctl) : (leaveOver l c).plan.scan.left = c.plan.scan.left ++ l := rfl
@[simp] theorem leaveOver_events (l : List Consider) (c : Ctl) : (leaveOver l c).plan.events = c.plan.events := rfl

/-- What the insertion of events in order does: it goes on while there is room, and stops at the first that finds none. -/
theorem insertAll_cons (consider : Consider → SiteTime → Ctl → Ctl × Bool) (x : Consider) (t : List Consider) (now : SiteTime)
    (c : Ctl) : insertAll consider (x :: t) now c =
      if (consider x now c).2 then insertAll consider t now (consider x now c).1
      else (planFullAlarm (consider x now c).1, x :: t) := rfl

/-- With nothing left over and nothing to consider, a refill only moves the scan mark an hour ahead. -/
theorem refill_of_nothing {c : Ctl} {now : SiteTime} (hl : c.plan.scan.left = [])
    (hs : scanRange c (addTime now Config.horizon) = []) : refill now c =
      (setScan { time := addTime now Config.horizon, resume := none, left := [] } c).onPlan
        (fun p => { p with fullLatch := false }) := by
  simp only [refill, hl, insertAll, hs]

/-- Inserting events one by one keeps what the insertion of each keeps. -/
theorem insertAll_keeps {c0 : Ctl} {consider : Consider → SiteTime → Ctl → Ctl × Bool} {now : SiteTime}
    (hc : ∀ (c : Ctl) (x : Consider), Keeps due c0 c → Keeps due c0 (consider x now c).1) (l : List Consider) :
    ∀ {c : Ctl}, Keeps due c0 c → Keeps due c0 (insertAll consider l now c).1 := by
  induction l with
  | nil => intro c h; exact h
  | cons x t ih =>
    intro c h
    unfold insertAll
    dsimp only
    split
    · exact ih (hc c x h)
    · exact planFullAlarm_keeps (hc c x h)

theorem scanned_keeps {c0 c : Ctl} {m : ScanMark} (h : Keeps due c0 c) :
    Keeps due c0 ((setScan m c).onPlan (fun p => { p with fullLatch := false })) := onPlan_same (setScan_keeps h) rfl

theorem refill_keeps {c0 c : Ctl} {now : SiteTime} (h : Keeps due c0 c) : Keeps due c0 (refill now c) := by
  have h1 := insertAll_keeps (consider := considerLeft) (now := now) (fun _ _ => considerLeft_keeps) c.plan.scan.left h
  unfold refill
  dsimp only
  generalize insertAll considerLeft c.plan.scan.left now c = o at h1 ⊢
  split
  · exact setScan_keeps h1
  · have h2 := insertAll_keeps (consider := considerEvent) (now := now) (fun _ _ => considerEvent_keeps)
      (scanRange o.1 (addTime now Config.horizon)) h1
    generalize insertAll considerEvent (scanRange o.1 (addTime now Config.horizon)) now o.1 = r at h2 ⊢
    split
    · exact setScan_keeps h2
    · exact scanned_keeps h2

theorem lateEnds_keeps {c0 c : Ctl} {now : SiteTime} (h : Keeps due c0 c) : Keeps due c0 (lateEnds now c) := by
  unfold lateEnds
  repeat' (with_reducible first
    | exact h | assumption | apply insertEnd_keeps | refine forEach_keeps ?_ _ ?_ | intro _ _ _ | split)

theorem catchUp_keeps {c0 c : Ctl} {now : SiteTime} (h : Keeps due c0 c) : Keeps due c0 (catchUp now c).1 := by
  unfold catchUp
  split
  · exact insertAll_keeps (fun _ _ => considerCatchUp_keeps) _ h
  · exact h

theorem rebuild_keeps {c0 c : Ctl} (h : Keeps due c0 c) : Keeps due c0 (rebuild c) := by
  have he : Keeps due c0 (c.onPlan (fun p => { p with events := [] })) := onPlan_keeps h (fun _ => Nat.zero_le _)
  unfold rebuild
  split
  · exact h
  · have hr := fun now => catchUp_keeps (now := now) (setScan_keeps (m := { time := now, resume := none, left := [] })
      (lateEnds_keeps (now := now) he))
    refine push_keeps ?_
    split
    · exact refill_keeps (hr _)
    · exact leaveOver_keeps (hr _)

theorem goOn_keeps {c0 : Ctl} {r : Ctl × List Consider} {l : List Consider} {now : SiteTime} (h : Keeps due c0 r.1) :
    Keeps due c0 (goOn r l now).1 := by
  unfold goOn
  split
  · exact insertAll_keeps (fun _ _ => considerEvent_keeps) _ h
  · exact h

theorem insertEntry_keeps {c0 c : Ctl} {bk : Bank} {e : EntryRec} {now : SiteTime} (h : Keeps due c0 c) :
    Keeps due c0 (insertEntry bk e now c).1 :=
  goOn_keeps (insertAll_keeps (fun _ _ => considerCatchUp_keeps) _ h)

theorem appendedEntry_keeps {c0 c : Ctl} {bk : Bank} {e : EntryRec} (h : Keeps due c0 c) :
    Keeps due c0 (appendedEntry bk e c) := by
  unfold appendedEntry
  split
  · exact h
  · split
    · exact push_keeps (leaveOver_keeps (insertEntry_keeps h))
    · exact h

theorem endOldRunning_keeps {c0 c : Ctl} {now : SiteTime} {tx : Nat} (h : Keeps due c0 c) : Keeps due c0 (endOldRunning now
    tx c) := by
  unfold endOldRunning
  repeat' (with_reducible first
    | exact h | apply insertEndNow_keeps | apply modTx_keeps | apply pushOnce_keeps | split | dsimp only)

theorem nowRunning_keeps {c0 c : Ctl} {tx : Nat} (h : Keeps due c0 c) : Keeps due c0 (nowRunning tx c) := by
  unfold nowRunning
  repeat' (with_reducible first
    | exact h | apply endOldRunning_keeps | split)

theorem modCtx_keeps {c0 c : Ctl} {n : Nat} {f : Ctx → Ctx} (h : Keeps due c0 c) : Keeps due c0 (modCtx n f c) := by
  unfold modCtx
  repeat' (with_reducible first
    | exact h | apply onCu_keeps)

/-- Frames that wait for a slot may leave the lines. -/
theorem filterWaiters_keeps {c0 c : Ctl} (p q : PFrame → Bool) (h : Keeps due c0 c) :
    Keeps due c0 (c.onLink (fun k => { k with
      urgentWaiters := k.urgentWaiters.filter p, internalWaiters := k.internalWaiters.filter q })) :=
  onLink_keeps (fun _ k => ⟨k.1, k.2, k.3, k.4, k.5, k.6, by
    have h7 := k.7
    have h1 := owedOf_filter_le (fun f : PFrame => f.origin) p c.link.urgentWaiters
    have h2 := owedOf_filter_le (fun f : PFrame => f.origin) q c.link.internalWaiters
    dsimp only; omega⟩) h

theorem freeCtx_keeps {c0 c : Ctl} {n : Nat} {outcome : CtxOutcome} (h : Keeps due c0 c) : Keeps due c0 (freeCtx n outcome c) :=
  pushOnce_keeps (modCtx_keeps (filterWaiters_keeps _ _ h))

theorem offerTx_keeps {c0 c : Ctl} {n : Nat} {x : Ctx} {v : PlantVerb} (h : Keeps due c0 c) : Keeps due c0 (offerTx n x v c)
    := by
  unfold offerTx
  repeat' (with_reducible first
    | exact h | apply offerOwn_keeps rfl | split)

theorem endReport_keeps {c0 c : Ctl} {occ : Occ} {finish : SiteTime} (h : Keeps due c0 c) : Keeps due c0 (endReport occ
    finish c) := by
  unfold endReport
  repeat' (with_reducible first
    | exact h | apply raise_keeps)

theorem cleanupCarrier_keeps {c0 c : Ctl} {x : Ctx} (h : Keeps due c0 c) : Keeps due c0 (cleanupCarrier x c) := by
  unfold cleanupCarrier
  repeat' (with_reducible first
    | exact h | apply offerOwn_keeps rfl | split)

theorem cleanupFrames_keeps {c0 c : Ctl} {n : Nat} {x : Ctx} (h : Keeps due c0 c) : Keeps due c0 (cleanupFrames n x c) :=
  withdrawJob_keeps (onGate_keeps (filterWaiters_keeps _ _ h) (fun hl => Nat.le_trans (List.length_filter_le _ _) hl)
    (Nat.add_le_add_right (owedOf_filter_le _ _ _) _))

theorem proofRunsOn_keeps {c0 c : Ctl} {n : Nat} (h : Keeps due c0 c) : Keeps due c0 (proofRunsOn n c) := by
  unfold proofRunsOn
  repeat' (with_reducible first
    | exact h | assumption | apply tableChanged_keeps | apply failPathHolds_keeps | apply setPathRec_keeps
    | refine forEach_keeps ?_ _ ?_ | intro _ _ _ | split | dsimp only)

theorem cleanupPath_keeps {c0 c : Ctl} {code pid : Nat} (h : Keeps due c0 c) : Keeps due c0 (cleanupPath code pid c) := by
  unfold cleanupPath
  repeat' (with_reducible first
    | exact h | apply failProof_keeps | apply failSetting_keeps | apply setPathRec_keeps | apply onMatrix_same
    | rfl | split | dsimp only)
  all_goals rfl

theorem cleanupPaths_keeps {c0 c : Ctl} {n code : Nat} (h : Keeps due c0 c) : Keeps due c0 (cleanupPaths n code c) := by
  unfold cleanupPaths
  repeat' (with_reducible first
    | exact h | assumption | apply cleanupPath_keeps | apply tableChanged_keeps | refine forEach_keeps ?_ _ ?_
    | intro _ _ _)

theorem releaseOwner_keeps {c0 c : Ctl} {n tx : Nat} (h : Keeps due c0 c) : Keeps due c0 (releaseOwner n tx c) := by
  unfold releaseOwner
  repeat' (with_reducible first
    | exact h | apply setOwner_keeps | split)

theorem cleanupTx_keeps {c0 c : Ctl} {n : Nat} {x : Ctx} (h : Keeps due c0 c) : Keeps due c0 (cleanupTx n x c) := by
  unfold cleanupTx
  repeat' (with_reducible first
    | exact h | apply clearRunning_keeps | apply releaseOwner_keeps | split | dsimp only)

theorem cleanup_keeps {c0 c : Ctl} {n : Nat} {x : Ctx} {code : Nat} (h : Keeps due c0 c) : Keeps due c0 (cleanup n x code c)
    := by
  unfold cleanup
  repeat' (with_reducible first
    | exact h | apply cleanupCarrier_keeps | apply cleanupFrames_keeps | apply cleanupPaths_keeps
    | apply cleanupTx_keeps | apply push_keeps)

theorem failedReport_keeps {c0 c : Ctl} {n : Nat} {x : Ctx} {reason : Failure} (h : Keeps due c0 c) : Keeps due c0
    (failedReport n x reason c) := by
  unfold failedReport
  repeat' (with_reducible first
    | exact h | apply raise_keeps)

theorem clearOwnRunning_keeps {c0 c : Ctl} {x : Ctx} (h : Keeps due c0 c) : Keeps due c0 (clearOwnRunning x c) := by
  unfold clearOwnRunning
  repeat' (with_reducible first
    | exact h | apply clearRunning_keeps | split)

theorem setRowOwner_keeps {c0 c : Ctl} {tx : Nat} {o : PathOwner} (h : Keeps due c0 c) : Keeps due c0 (setRowOwner tx o c) :=
    by
  unfold setRowOwner
  repeat' (with_reducible first
    | exact h | apply setPathRec_keeps | apply tableChanged_keeps | split)

theorem failCtx_keeps {c0 c : Ctl} {n : Nat} {x : Ctx} {reason : Failure} {cause : Nat} (h : Keeps due c0 c) : Keeps due c0
    (failCtx n x reason cause c) := by
  unfold failCtx
  repeat' (with_reducible first
    | exact h | apply cleanup_keeps | apply cleanupFrames_keeps | apply clearOwnRunning_keeps
    | apply failedReport_keeps | apply freeCtx_keeps | apply modCtx_keeps | apply releaseOwner_keeps
    | apply setRowOwner_keeps | split | dsimp only)

theorem failSub_keeps {c0 c : Ctl} {n : Nat} {s : SubStep} {x : Ctx} {cause : Nat} (h : Keeps due c0 c) :
    Keeps due c0 (failSub n s x cause c) := failCtx_keeps (modCtx_keeps h)

theorem missCtx_keeps {c0 c : Ctl} {n : Nat} {x : Ctx} (h : Keeps due c0 c) : Keeps due c0 (missCtx n x c) := by
  unfold missCtx
  repeat' (with_reducible first
    | exact h | apply cleanup_keeps | apply freeCtx_keeps | apply missed_keeps | split | dsimp only)

theorem enterRaising_keeps {c0 c : Ctl} {n : Nat} (h : Keeps due c0 c) : Keeps due c0 (enterRaising n c) := by
  unfold enterRaising
  repeat' (with_reducible first
    | exact h | apply modCtx_keeps | apply offerTx_keeps | split | dsimp only)

theorem raiseDone_keeps {c0 c : Ctl} {n : Nat} {x : Ctx} (h : Keeps due c0 c) : Keeps due c0 (raiseDone n x c) := by
  unfold raiseDone
  repeat' (with_reducible first
    | exact h | apply freeCtx_keeps | apply modCtx_keeps | apply modTx_keeps | apply nowRunning_keeps
    | apply raise_keeps | apply releaseOwner_keeps | apply tableChanged_keeps | apply onMatrix_same | rfl
    | split | dsimp only)
  all_goals rfl

theorem askProof_keeps {c0 c : Ctl} {p : Path} (h : Keeps due c0 c) : Keeps due c0 (askProof p c) := by
  unfold askProof
  split
  · exact h
  · exact beginProof_keeps h

theorem enterProving_keeps {c0 c : Ctl} {n : Nat} (h : Keeps due c0 c) : Keeps due c0 (enterProving n c) := by
  unfold enterProving
  repeat' (with_reducible first
    | exact h | apply askProof_keeps | apply beginProof_keeps | apply enterRaising_keeps | apply failCtx_keeps | apply modCtx_keeps
    | split | dsimp only)

theorem settingCheck_keeps {c0 c : Ctl} {n : Nat} (h : Keeps due c0 c) : Keeps due c0 (settingCheck n c) := by
  unfold settingCheck
  repeat' (with_reducible first
    | exact h | apply enterProving_keeps | split)

theorem requestPath_keeps {c0 c : Ctl} {n : Nat} {x : Ctx} (h : Keeps due c0 c) : Keeps due c0 (requestPath n x c) := by
  unfold requestPath
  repeat' (with_reducible first
    | exact h | apply invokeInterlock_keeps | apply actPath_keeps | apply modCtx_keeps | apply setPath_keeps | apply setPathRec_keeps
    | apply tableChanged_keeps | split)

theorem enterSetting_keeps {c0 c : Ctl} {n : Nat} (h : Keeps due c0 c) : Keeps due c0 (enterSetting n c) := by
  unfold enterSetting
  repeat' (with_reducible first
    | exact h | apply modCtx_keeps | apply offerTx_keeps | apply openJob_keeps | apply requestPath_keeps
    | apply settingCheck_keeps | split | dsimp only)

theorem preemptRunning_keeps {c0 c : Ctl} {tx : Nat} {by_ : Nat} (h : Keeps due c0 c) : Keeps due c0 (preemptRunning tx by_
    c) := by
  unfold preemptRunning
  repeat' (with_reducible first
    | exact h | apply clearRunning_keeps | apply push_keeps | apply raise_keeps | split)

theorem silenceHolder_keeps {c0 c : Ctl} {n : Nat} {x : Ctx} {holder : Nat} (h : Keeps due c0 c) : Keeps due c0
    (silenceHolder n x holder c) := by
  unfold silenceHolder
  repeat' (with_reducible first
    | exact h | apply offerCarrierOff_keeps rfl | split)

theorem preemptHolder_keeps {c0 c : Ctl} {n : Nat} {x : Ctx} {holder : Nat} (h : Keeps due c0 c) : Keeps due c0
    (preemptHolder n x holder c) := by
  unfold preemptHolder
  repeat' (with_reducible first
    | exact h | apply modCtx_keeps | apply silenceHolder_keeps | apply preemptRunning_keeps
    | apply setOwner_keeps | split | dsimp only)

theorem preemptionOver_keeps {c0 c : Ctl} {n : Nat} (h : Keeps due c0 c) : Keeps due c0 (preemptionOver n c) := modCtx_keeps h

theorem judgeClaim_keeps {c0 c : Ctl} {n : Nat} {x : Ctx} {p : Path} (h : Keeps due c0 c) : Keeps due c0 (judgeClaim n x p c)
    := by
  unfold judgeClaim
  repeat' (with_reducible first
    | exact h | apply preemptHolder_keeps | apply silenceHolder_keeps | apply releasePath_keeps
    | apply preemptionOver_keeps | split)

theorem judgeColumn_keeps {c0 c : Ctl} {n : Nat} (h : Keeps due c0 c) : Keeps due c0 (judgeColumn n c) := by
  unfold judgeColumn
  repeat' (with_reducible first
    | exact h | apply enterSetting_keeps | apply judgeClaim_keeps | split | dsimp only)

theorem enterAwait_keeps {c0 c : Ctl} {n : Nat} (h : Keeps due c0 c) : Keeps due c0 (enterAwait n c) := by
  unfold enterAwait
  repeat' (with_reducible first
    | exact h | apply judgeColumn_keeps | apply modCtx_keeps)

theorem releasingCheck_keeps {c0 c : Ctl} {n : Nat} (h : Keeps due c0 c) : Keeps due c0 (releasingCheck n c) := by
  unfold releasingCheck
  repeat' (with_reducible first
    | exact h | apply enterAwait_keeps | split)

theorem enterReleasing_keeps {c0 c : Ctl} {n : Nat} (h : Keeps due c0 c) : Keeps due c0 (enterReleasing n c) := by
  unfold enterReleasing
  repeat' (with_reducible first
    | exact h | apply modCtx_keeps | apply releasePath_keeps | apply releasingCheck_keeps | split | dsimp only)

theorem endDone_keeps {c0 c : Ctl} {n : Nat} {x : Ctx} (h : Keeps due c0 c) : Keeps due c0 (endDone n x c) := by
  unfold endDone
  repeat' (with_reducible first
    | exact h | apply clearOwnRunning_keeps | apply endReport_keeps | apply freeCtx_keeps
    | apply releaseOwner_keeps | apply setRowOwner_keeps)

theorem startMuted_keeps {c0 c : Ctl} {n : Nat} {x : Ctx} (h : Keeps due c0 c) : Keeps due c0 (startMuted n x c) := by
  unfold startMuted
  repeat' (with_reducible first
    | exact h | apply clearRunning_keeps | apply endReport_keeps | apply enterReleasing_keeps | split)

theorem muteDone_keeps {c0 c : Ctl} {n : Nat} {x : Ctx} (h : Keeps due c0 c) : Keeps due c0 (muteDone n x c) := by
  unfold muteDone
  repeat' (with_reducible first
    | exact h | apply endDone_keeps | apply startMuted_keeps | split)

theorem enterMuting_keeps {c0 c : Ctl} {n : Nat} (h : Keeps due c0 c) : Keeps due c0 (enterMuting n c) := by
  unfold enterMuting
  repeat' (with_reducible first
    | exact h | apply modCtx_keeps | apply muteDone_keeps | apply offerTx_keeps | split | dsimp only)

theorem takeTx_keeps {c0 c : Ctl} {n : Nat} {x : Ctx} (h : Keeps due c0 c) : Keeps due c0 (takeTx n x c) := by
  unfold takeTx
  repeat' (with_reducible first
    | exact h | assumption | apply enterMuting_keeps | apply modCtx_keeps | apply pathResult_keeps
    | apply setOwner_keeps | apply setPathRec_keeps | apply tableChanged_keeps | refine forEach_keeps ?_ _ ?_
    | intro _ _ _ | split | dsimp only)

theorem returnEvent_keeps {c0 c : Ctl} {n : Nat} {v : Event} {named : Option SiteTime}
    (hr : Sound c0 → c.plan.events.length < 256) (h : Keeps due c0 c) : Keeps due c0 (returnEvent n v named c) :=
  freeCtx_keeps (addEvent_keeps (fun s => by rw [recordOcc_events]; exact hr s) (recordOcc_keeps h))

theorem claim_keeps {c0 c : Ctl} {n : Nat} {x : Ctx} {v : Event} (hr : Sound c0 → c.plan.events.length < 256)
    (h : Keeps due c0 c) : Keeps due c0 (claim n x v c) := by
  unfold claim
  repeat' (with_reducible first
    | exact h | exact returnEvent_keeps hr h | apply preemptRunning_keeps | apply takeTx_keeps | split)

theorem takeStart_keeps {c0 c : Ctl} {n : Nat} {v : Event} {e : EntryRec} {position : Target}
    (hr : Sound c0 → c.plan.events.length < 256) (h : Keeps due c0 c) : Keeps due c0 (takeStart n v e position c) :=
  claim_keeps hr (onCu_keeps h)

theorem takeEnd_keeps {c0 c : Ctl} {n : Nat} {v : Event} (h : Keeps due c0 c) : Keeps due c0 (takeEnd n v c) := by
  unfold takeEnd
  repeat' (with_reducible first
    | exact h | apply enterMuting_keeps | apply freeCtx_keeps | apply setOwner_keeps | apply onCu_keeps
    | split | dsimp only)

theorem abortCtx_keeps {c0 c : Ctl} {n : Nat} {w : Work} {reason : Failure} (h : Keeps due c0 c) : Keeps due c0 (abortCtx n w
    reason c) := by
  unfold abortCtx
  repeat' (with_reducible first
    | exact h | apply failCtx_keeps | split)

theorem ctxRefused_keeps {c0 c : Ctl} {f : PFrame} {n : Nat} {w : Work} {code : Nat} (h : Keeps due c0 c) : Keeps due c0
    (ctxRefused f n w code c) := by
  unfold ctxRefused
  repeat' (with_reducible first
    | exact h | apply failSub_keeps | apply failCtx_keeps | apply judgeColumn_keeps | split)

theorem nextOrder_keeps {c0 c : Ctl} {n : Nat} {x : Ctx} {v : PlantVerb} (h : Keeps due c0 c) : Keeps due c0 (nextOrder n x v
    c) := by
  unfold nextOrder
  repeat' (with_reducible first
    | exact h | apply offerTx_keeps | split)

theorem ctxEnded_keeps {c0 c : Ctl} {e : Entry} {n : Nat} {w : Work} {outcome : Option Outcome} {code : Nat} (h :
    Keeps due c0 c) : Keeps due c0 (ctxEnded e n w outcome code c) := by
  unfold ctxEnded
  repeat' (with_reducible first
    | exact h | apply ctxRefused_keeps | apply nextOrder_keeps | apply preemptionOver_keeps | split)

theorem retuneReport_keeps {c0 c : Ctl} {n : Nat} {x : Ctx} {d : TxDyn} (h : Keeps due c0 c) : Keeps due c0 (retuneReport n x
    d c) := by
  unfold retuneReport
  repeat' (with_reducible first
    | exact h | apply failSub_keeps | apply failCtx_keeps | apply modCtx_keeps | apply settingCheck_keeps | split)

theorem ctxRecord_keeps {c0 c : Ctl} {tx : Nat} {report : Bool} (h : Keeps due c0 c) : Keeps due c0 (ctxRecord tx report c)
    := by
  unfold ctxRecord
  repeat' (with_reducible first
    | exact h | apply muteDone_keeps | apply raiseDone_keeps | apply retuneReport_keeps | split)

theorem ctxPathNews_keeps {c0 c : Ctl} {n : Nat} {w : Work} {news : PathNews} (h : Keeps due c0 c) : Keeps due c0
    (ctxPathNews n w news c) := by
  unfold ctxPathNews
  repeat' (with_reducible first
    | exact h | apply askProof_keeps | apply enterRaising_keeps | apply failSub_keeps | apply failCtx_keeps | apply modCtx_keeps | apply settingCheck_keeps
    | split)

theorem ctxJobEnded_keeps {c0 c : Ctl} {n : Nat} {w : Work} {ok : Bool} {code : Nat} (h : Keeps due c0 c) : Keeps due c0
    (ctxJobEnded n w ok code c) := by
  unfold ctxJobEnded
  repeat' (with_reducible first
    | exact h | apply failSub_keeps | apply failCtx_keeps | apply modCtx_keeps | apply settingCheck_keeps | split)

theorem lookAgain_keeps {c0 c : Ctl} (h : Keeps due c0 c) : Keeps due c0 (lookAgain c) := by
  unfold lookAgain
  repeat' (with_reducible first
    | exact h | assumption | apply judgeColumn_keeps | apply releasingCheck_keeps
    | refine forEach_keeps ?_ _ ?_ | intro _ _ _ | split)

theorem phaseDeadline_keeps {c0 c : Ctl} {n : Nat} {phase : CtxPhase} {reason : Failure} (h : Keeps due c0 c) : Keeps due c0
    (phaseDeadline n phase reason c) := by
  unfold phaseDeadline
  repeat' (with_reducible first
    | exact h | apply clockReaches_keeps | apply proofRunsOn_keeps | apply failCtx_keeps | split)

theorem subDeadline_keeps {c0 c : Ctl} {n : Nat} {s : SubStep} (h : Keeps due c0 c) : Keeps due c0 (subDeadline n s c) := by
  unfold subDeadline
  repeat' (with_reducible first
    | exact h | apply clockReaches_keeps | apply failSub_keeps | apply failCtx_keeps | apply modCtx_keeps | split)

theorem contextMissed_keeps {c0 c : Ctl} {n : Nat} (h : Keeps due c0 c) : Keeps due c0 (contextMissed n c) := by
  unfold contextMissed
  repeat' (with_reducible first
    | exact h | apply missCtx_keeps | split)

theorem contextRead_keeps {c0 c : Ctl} {o : OwnOrder} (h : Keeps (due + 1) c0 c) : Keeps due c0 (contextRead o c) := by
  unfold contextRead
  repeat' (with_reducible first
    | exact h | apply answerDone_keeps | apply answerRefused_keeps | split)

end Sys2Proof.Laws
end

