-- ==== Sys2Proof/Laws/KeepsSite.lean ====
section
/-! SUPPORT. The operations of the Site Tables, site time, the panel and start-up carry soundness over and do not
    turn the clock back. -/

set_option linter.unreachableTactic false
set_option linter.unusedTactic false

namespace Sys2Proof.Laws
open Sys2Proof.Machine

variable {due : Nat}

theorem queryTx_keeps {c0 c : Ctl} {n : Nat} (h : Keeps due c0 c) : Keeps due c0 (queryTx n c) := by
  unfold queryTx
  repeat' (with_reducible first
    | exact h | apply offerOwn_keeps rfl | split)

theorem txWritten_keeps {c0 c : Ctl} {n : Nat} {old new : Option TxStatic} (h : Keeps due c0 c) : Keeps due c0 (txWritten n
    old new c) := by
  unfold txWritten
  repeat' (with_reducible first
    | exact h | apply carrierChanged_keeps | apply queryTx_keeps | apply refuseHeld_keeps | apply onGate_same | rfl | split)
  all_goals rfl

theorem antWritten_keeps {c0 c : Ctl} {a : Nat} {old new : Option AntStatic} (h : Keeps due c0 c) : Keeps due c0 (antWritten
    a old new c) := by
  unfold antWritten antCreated
  repeat' (with_reducible first
    | exact h | apply queryDrive_keeps | apply onAerial_keeps | split)

theorem lowerPower_keeps {c0 c : Ctl} {a : Nat} {p : Path} (h : Keeps due c0 c) : Keeps due c0 (lowerPower a p c) := by
  unfold lowerPower
  replace h := fillSlots_keeps h
  repeat' (with_reducible first
    | exact h | apply offerClamp_keeps | apply push_keeps | apply raise_keeps | apply rewritePowers_keeps
    | apply withdraw_keeps | split | dsimp only)

theorem ratingsWritten_keeps {c0 c : Ctl} {a : Nat} (h : Keeps due c0 c) : Keeps due c0 (ratingsWritten a c) := by
  unfold ratingsWritten
  repeat' (with_reducible first
    | exact h | apply push_keeps | assumption | apply lowerPower_keeps | refine forEach_keeps ?_ _ ?_ | intro _ _ _)

theorem geometryWritten_keeps {c0 c : Ctl} {old : Tables} (h : Keeps due c0 c) : Keeps due c0 (geometryWritten old c) := by
  unfold geometryWritten
  repeat' (with_reducible first
    | exact h | apply pushOnce_keeps | apply onMatrix_same | rfl | split | dsimp only)
  all_goals rfl

theorem answerStatesWritten_keeps {c0 c : Ctl} {old : Tables} (h : Keeps due c0 c) : Keeps due c0 (answerStatesWritten old c)
    := by
  unfold answerStatesWritten
  repeat' (with_reducible first
    | exact h | apply onLink_same | rfl)
  all_goals rfl

/-- The working copy is replaced by tables that passed the consistency checks. -/
theorem siteWritten_keeps {c0 c : Ctl} {k : RecordKind} {key : Nat} {t' : Tables} (h : Keeps due c0 c)
    (ht : Sound c0 → Consistent t') : Keeps due c0 (siteWritten k key t' c) := by
  have h' : Keeps due c0 (c.onSite (fun s => { s with work := t', unsaved := true })) :=
    h.relink (fun _ k => k) (hs := fun s x => ⟨ht s, x.2, x.3, x.4⟩)
  unfold siteWritten
  repeat' (with_reducible first
    | exact h'
    | apply txWritten_keeps | apply antWritten_keeps | apply ratingsWritten_keeps
    | apply geometryWritten_keeps | apply answerStatesWritten_keeps | split | dsimp only)

/-- A write whose tests are passed asks for tables that pass the consistency checks. -/
theorem siteWriteTests_consistent {p : List Byte} {c : Ctl} {k : RecordKind} {key : Nat} {t' : Tables}
    (h : siteWriteTests p c = .ok (k, key, t')) : Consistent t' := by
  have hs : ∀ (k0 : RecordKind) (key0 : Nat) (t0 : Tables),
      (match firstFailed (consistencyChecks t0) with
        | some n => (Except.error (Reason.badRecord, u8 n) : Except (Reason × List Byte) (RecordKind × Nat × Tables))
        | none =>
          if t0 = c.site.work then .ok (k0, key0, t0)
          else match useRefusal c t0 k0 key0 with
            | some r => .error (r, [])
            | none => .ok (k0, key0, t0)) = .ok (k, key, t') → Consistent t' := by
    intro k0 key0 t0 h0
    split at h0
    · cases h0
    · rename_i hc
      split at h0
      · cases h0; exact hc
      · split at h0
        · cases h0
        · cases h0; exact hc
  unfold siteWriteTests at h
  dsimp only at h
  repeat' (first
    | exact hs _ _ _ h
    | cases h
    | split at h)

theorem siteWrite_keeps {c0 c : Ctl} {o : OwnOrder} (h : Keeps (due + 1) c0 c) : Keeps due c0 (siteWrite o c) := by
  unfold siteWrite
  split
  · exact refuseOrder_keeps h
  · rename_i ht
    dsimp only
    split
    · exact answerDone_keeps h
    · exact siteWritten_keeps (answerDone_keeps h) (fun _ => siteWriteTests_consistent ht)

theorem siteRead_keeps {c0 c : Ctl} {o : OwnOrder} (h : Keeps (due + 1) c0 c) : Keeps due c0 (siteRead o c) := by
  unfold siteRead
  repeat' (with_reducible first
    | exact h | apply answerDone_keeps | apply refuseOrder_keeps | split)

theorem flagWaiting_keeps {c0 c : Ctl} {v : Event} {cause : WaitCause} (h : Keeps due c0 c) : Keeps due c0 (flagWaiting v
    cause c) := by
  unfold flagWaiting
  repeat' (with_reducible first
    | exact h | apply mapEvent_keeps)

/-- A START that stands in the plan leaves room behind. -/
theorem leavePlan_room {c0 c : Ctl} {v w : Event} (h : Keeps due c0 c) (hv : v ∈ c.plan.events) (hk : v.kind = w.kind)
    (ho : v.occ = w.occ) (s : Sound c0) :
    (leavePlan w c).plan.events.length < 256 := by
  unfold leavePlan
  rw [raiseHigh_events]
  refine Nat.lt_of_lt_of_le ?_ (h.sound s).bounds.plan
  exact List.length_filter_lt_length_iff_exists.2 ⟨v, hv, by simp [sameEvent, hk, ho]⟩

theorem leavePlan_keeps {c0 c : Ctl} {v : Event} (h : Keeps due c0 c) : Keeps due c0 (leavePlan v c) := by
  unfold leavePlan
  repeat' (with_reducible first
    | exact h | apply raiseHigh_keeps | apply removeEvents_keeps)

theorem takeDueEnd_keeps {c0 c : Ctl} {v : Event} (h : Keeps due c0 c) : Keeps due c0 (takeDueEnd v c) := by
  unfold takeDueEnd
  repeat' (with_reducible first
    | exact h | apply flagWaiting_keeps | apply leavePlan_keeps | apply removeEvents_keeps
    | apply takeEnd_keeps | split)

theorem takeDueStart_keeps {c0 c : Ctl} {v : Event} (hv : v ∈ c.plan.events) (h : Keeps due c0 c) :
    Keeps due c0 (takeDueStart v c) := by
  unfold takeDueStart
  split
  · exact dropStart_keeps h
  · split
    · exact flagWaiting_keeps h
    · split
      · exact flagWaiting_keeps h
      · have hk := recordOcc_keeps (r := { occ := v.occ, start := v.time, occEnd := v.occEnd, returned := false }) h
        exact takeStart_keeps (leavePlan_room hk (v := v) (by rw [recordOcc_events]; exact hv) rfl rfl) (leavePlan_keeps hk)

theorem tryTake_keeps {c0 c : Ctl} {v : Event} (hv : v ∈ c.plan.events) (h : Keeps due c0 c) :
    Keeps due c0 (tryTake v c) := by
  unfold tryTake
  repeat' (with_reducible first
    | exact h | apply takeDueEnd_keeps | exact takeDueStart_keeps hv h | split)

theorem offerEvent_keeps {c0 c : Ctl} {p : Event → Bool} {v : Event} (h : Keeps due c0 c) : Keeps due c0 (offerEvent p v c)
    := by
  unfold offerEvent
  split
  · rename_i w hw
    split
    · exact tryTake_keeps (List.mem_of_find?_eq_some hw) h
    · exact h
  · exact h

theorem offerWhere_keeps {c0 c : Ctl} {p : Event → Bool} (h : Keeps due c0 c) : Keeps due c0 (offerWhere p c) := by
  unfold offerWhere
  repeat' (with_reducible first
    | exact h | assumption | apply offerEvent_keeps | refine forEach_keeps ?_ _ ?_ | intro _ _ _)

theorem dispatch_keeps {c0 c : Ctl} (h : Keeps due c0 c) : Keeps due c0 (dispatch c) := by
  unfold dispatch
  repeat' (with_reducible first
    | exact h | apply offerWhere_keeps)

theorem ctxFreed_keeps {c0 c : Ctl} (h : Keeps due c0 c) : Keeps due c0 (ctxFreed c) := by
  unfold ctxFreed
  repeat' (with_reducible first
    | exact h | apply offerWhere_keeps)

theorem offerLog_keeps {c0 c : Ctl} (h : Keeps due c0 c) : Keeps due c0 (offerLog c) := by
  unfold offerLog
  repeat' (with_reducible first
    | exact h | apply offerWhere_keeps)

theorem offerReturned_keeps {c0 c : Ctl} {tx : Nat} (h : Keeps due c0 c) : Keeps due c0 (offerReturned tx c) := by
  unfold offerReturned
  repeat' (with_reducible first
    | exact h | apply offerWhere_keeps)

theorem eventDue_keeps {c0 c : Ctl} (h : Keeps due c0 c) : Keeps due c0 (eventDue c) := by
  unfold eventDue
  split
  · exact h
  · split
    · exact h
    · split
      · rename_i hv; exact tryTake_keeps (List.mem_of_find?_eq_some hv) h
      · exact h

theorem returnEndReached_keeps {c0 c : Ctl} {occ : Occ} (h : Keeps due c0 c) : Keeps due c0 (returnEndReached occ c) := by
  unfold returnEndReached
  split
  · rename_i hv
    have ht := tryTake_keeps (List.mem_of_find?_eq_some hv) h
    repeat' (first | exact h | exact ht | split)
  · exact h

theorem occurrenceEndPassed_keeps {c0 c : Ctl} {occ : Occ} (h : Keeps due c0 c) : Keeps due c0 (occurrenceEndPassed occ c) :=
    by
  unfold occurrenceEndPassed
  repeat' (with_reducible first
    | exact h | apply dropStart_keeps | apply endLogRec_keeps | split | dsimp only)

theorem occFailed_keeps {c0 c : Ctl} {occ : Occ} (h : Keeps due c0 c) : Keeps due c0 (occFailed occ c) := by
  unfold occFailed
  repeat' (with_reducible first
    | exact h | apply removeEvents_keeps)

theorem setHoldLevel_keeps {c0 c : Ctl} {level : Nat} (h : Keeps due c0 c) : Keeps due c0 (setHoldLevel level c) := by
  unfold setHoldLevel
  split
  · exact h
  · exact forEach_keeps (fun _ _ h => offerEvent_keeps h) _ (forEach_keeps (fun _ _ h => reinstate_keeps h) _
      (onPlan_keeps h (fun x => by simpa using x)))

theorem holdLevel_keeps {c0 c : Ctl} {o : OwnOrder} (h : Keeps (due + 1) c0 c) : Keeps due c0 (holdLevel o c) := by
  unfold holdLevel
  repeat' (with_reducible first
    | exact h | apply answerDone_keeps | apply refuseOrder_keeps | apply setHoldLevel_keeps | split
    | dsimp only)

theorem abortSeason_keeps {c0 c : Ctl} {old : Bank} (h : Keeps due c0 c) : Keeps due c0 (abortSeason old c) := by
  unfold abortSeason
  repeat' (with_reducible first
    | exact h | assumption | apply abortCtx_keeps | refine forEach_keeps ?_ _ ?_ | intro _ _ _ | split)

theorem activate_keeps {c0 c : Ctl} {bk : Bank} {now : SiteTime} (h : Keeps due c0 c) : Keeps due c0 (activate bk now c) := by
  unfold activate
  repeat' (with_reducible first
    | exact h | assumption | apply abortSeason_keeps | apply activateHeaders_keeps | apply endOldRunning_keeps
    | apply raise_keeps | apply rebuild_keeps | apply removeEvents_keeps | apply setLog_keeps
    | refine forEach_keeps ?_ _ ?_ | apply onPlan_same | rfl | intro _ _ _ | dsimp only)

theorem activation_keeps {c0 c : Ctl} (h : Keeps due c0 c) : Keeps due c0 (activation c) := by
  unfold activation
  repeat' (with_reducible first
    | exact h | apply activate_keeps | split)

theorem activateOrRebuild_keeps {c0 c : Ctl} (h : Keeps due c0 c) : Keeps due c0 (activateOrRebuild c) := by
  unfold activateOrRebuild
  repeat' (with_reducible first
    | exact h | apply activate_keeps | apply rebuild_keeps | split)

theorem endVoided_keeps {c0 c : Ctl} {bk : Bank} {id tx : Nat} (h : Keeps due c0 c) : Keeps due c0 (endVoided bk id tx c) :=
    by
  unfold endVoided
  repeat' (with_reducible first
    | exact h | apply insertEndNow_keeps | split)

theorem voidedEntry_keeps {c0 c : Ctl} {bk : Bank} {id : Nat} (h : Keeps due c0 c) : Keeps due c0 (voidedEntry bk id c) := by
  unfold voidedEntry
  repeat' (with_reducible first
    | exact h | assumption | apply abortCtx_keeps | apply endVoided_keeps | apply reinstate_keeps
    | apply removeEvents_keeps | refine forEach_keeps ?_ _ ?_ | intro _ _ _ | split | dsimp only)

theorem siteSecond_keeps {c0 c : Ctl} (h : Keeps due c0 c) : Keeps due c0 (siteSecond c) := by
  unfold siteSecond
  split
  · exact h
  · dsimp only
    split
    · exact onPlan_same (clockReaches_keeps h) rfl
    · exact onPlan_keeps (clockReaches_keeps h) (fun _ => Nat.zero_le _)

theorem minuteBoundary_keeps {c0 c : Ctl} (h : Keeps due c0 c) : Keeps due c0 (minuteBoundary c) := by
  unfold minuteBoundary
  repeat' (with_reducible first
    | exact h | apply dispatch_keeps | apply push_keeps | apply refill_keeps | split)

theorem setTime_keeps {c0 c : Ctl} {t : SiteTime} (h : Keeps due c0 c) : Keeps due c0 (setTime t c) :=
  h.same

theorem stepForward_keeps {c0 c : Ctl} {now : SiteTime} (h : Keeps due c0 c) : Keeps due c0 (stepForward now c) := by
  unfold stepForward
  repeat' (with_reducible first
    | exact h | assumption | apply activateOrRebuild_keeps | apply dropStart_keeps | apply offerWhere_keeps
    | refine forEach_keeps ?_ _ ?_ | intro _ _ _ | dsimp only)

theorem timeStepped_keeps {c0 c : Ctl} {old : Option SiteTime} {t : SiteTime} (h : Keeps due c0 c) : Keeps due c0
    (timeStepped old t c) := by
  unfold timeStepped
  repeat' (with_reducible first
    | exact h | apply activateOrRebuild_keeps | apply raise_keeps | apply rebuild_keeps
    | apply stepForward_keeps | split | dsimp only)

theorem timeSet_keeps {c0 c : Ctl} {o : OwnOrder} (h : Keeps (due + 1) c0 c) : Keeps due c0 (timeSet o c) := by
  unfold timeSet
  repeat' (with_reducible first
    | exact h | apply answerDone_keeps | apply refuseOrder_keeps | apply setTime_keeps
    | apply timeStepped_keeps | split | dsimp only)

theorem planRead_keeps {c0 c : Ctl} {o : OwnOrder} (h : Keeps (due + 1) c0 c) : Keeps due c0 (planRead o c) := by
  unfold planRead
  repeat' (with_reducible first
    | exact h | apply answerDone_keeps | apply refuseOrder_keeps | split)

theorem mem_nins (k n : Nat) (l : List Nat) : n ∈ nins k l ↔ n = k ∨ n ∈ l := by
  induction l with
  | nil => simp [nins]
  | cons j t ih =>
    unfold nins
    split
    · simp
    · split
      · rename_i hkj; subst hkj; simp
      · simp only [List.mem_cons, ih]; tauto

theorem mem_ndel (k n : Nat) (l : List Nat) : n ∈ ndel k l ↔ n ∈ l ∧ n ≠ k := by simp [ndel]

/-- An input's level after a level was set: the level set, or the level it had. -/
theorem get_set (l : Levels) (i j : PanelInput) (on : Bool) :
    (l.set i on).get j = if j = i then on else l.get j := by
  cases i <;> cases j <;> cases on <;>
    simp [Levels.set, Levels.get, setMember, mem_nins, mem_ndel] <;> grind

theorem inputEdge_keeps {c0 c : Ctl} {i : PanelInput} {level : Bool} (h : Keeps due c0 c) :
    Keeps due c0 (inputEdge i level c) := by
  unfold inputEdge
  split
  · rename_i hi
    refine onPanel_keeps h (fun hp => ⟨?_, fun j => ?_⟩)
    · have h1 : ((c.panel.edges.filter (fun e => decide (e.1 ≠ i))).map (·.1)).Nodup :=
        hp.one.sublist (List.filter_sublist.map _)
      dsimp only
      split
      · simpa using h1
      · rw [List.map_append, List.nodup_append]
        refine ⟨h1, by simp, ?_⟩
        intro a ha b hb
        simp only [List.map_cons, List.map_nil, List.mem_singleton] at hb
        simp only [List.mem_map, List.mem_filter, decide_eq_true_eq] at ha
        obtain ⟨e, ⟨_, he⟩, rfl⟩ := ha
        rw [hb]; exact he
    · have hj := hp.settling j
      simp only [List.map_append, List.mem_append, get_set]
      by_cases hji : j = i
      · subst hji
        have : j ∉ (c.panel.edges.filter (fun e => decide (e.1 ≠ j))).map (·.1) := by
          simp only [List.mem_map, List.mem_filter, decide_eq_true_eq, not_exists, not_and]
          rintro e ⟨_, he⟩ rfl; exact he rfl
        by_cases hl : c.panel.cond.get j = level
        · simp [hl]
        · have hl' : level ≠ c.panel.cond.get j := fun hh => hl hh.symm
          simp [hl, hl']
      · have hne : ∀ m : Millis, j ∉ (if c.panel.cond.get i = level then [] else [(i, m)]).map (·.1) := by
          intro m; split <;> simp [hji]
        simp only [if_neg hji, hne, or_false, ← hj]
        simp only [List.mem_map, List.mem_filter, decide_eq_true_eq]
        constructor
        · rintro ⟨e, ⟨he, _⟩, rfl⟩; exact ⟨e, he, rfl⟩
        · rintro ⟨e, he, rfl⟩; exact ⟨e, ⟨he, hji⟩, rfl⟩
  · exact h

theorem conditioned_keeps {c0 c : Ctl} {i : PanelInput} {act : Ctl → Ctl} (h : Keeps due c0 c)
    (ha : ∀ c, Keeps due c0 c → Keeps due c0 (act c)) : Keeps due c0 (conditioned i act c) := by
  unfold conditioned
  split
  · exact h
  · refine ha _ (onPanel_keeps (clockReaches_keeps h) (fun hp => ⟨hp.one.sublist (List.filter_sublist.map _), fun j
      => ?_⟩))
    have hj := hp.settling j
    by_cases hji : j = i
    · subst hji
      simp only [get_set, if_pos, ne_eq, not_true_eq_false, iff_false]
      simp only [List.mem_map, List.mem_filter, decide_eq_true_eq, not_exists, not_and]
      rintro e ⟨_, he⟩ rfl; exact he rfl
    · simp only [get_set, if_neg hji, ← hj]
      simp only [List.mem_map, List.mem_filter, decide_eq_true_eq]
      constructor
      · rintro ⟨e, ⟨he, _⟩, rfl⟩; exact ⟨e, he, rfl⟩
      · rintro ⟨e, he, rfl⟩; exact ⟨e, ⟨he, hji⟩, rfl⟩

theorem conditionedTo_keeps {c0 c : Ctl} {i : PanelInput} {level : Bool} {act : Ctl → Ctl} (h : Keeps due c0 c)
    (ha : ∀ c, Keeps due c0 c → Keeps due c0 (act c)) : Keeps due c0 (conditionedTo i level act c) := by
  unfold conditionedTo
  split
  · exact conditioned_keeps h ha
  · exact h

theorem localRecomputed_keeps {c0 c : Ctl} {n : Nat} {was : Bool} (h : Keeps due c0 c) : Keeps due c0 (localRecomputed n was
    c) := by
  unfold localRecomputed
  repeat' (with_reducible first
    | exact h | apply push_keeps | apply withdraw_keeps | split)

theorem localKeyChange_keeps {c0 c : Ctl} {n : Nat} (h : Keeps due c0 c) : Keeps due c0 (localKeyChange n c) :=
  conditioned_keeps h (fun _ h => localRecomputed_keeps h)

theorem lockoutOn_keeps {c0 c : Ctl} {n : Nat} (h : Keeps due c0 c) : Keeps due c0 (lockoutOn n c) :=
  conditionedTo_keeps h (fun _ h => actLockout_keeps h)

theorem lockoutOff_keeps {c0 c : Ctl} {n : Nat} (h : Keeps due c0 c) : Keeps due c0 (lockoutOff n c) :=
  conditionedTo_keeps h (fun _ h => pushOnce_keeps h)

theorem maintenanceChange_keeps {c0 c : Ctl} (h : Keeps due c0 c) : Keeps due c0 (maintenanceChange c) :=
  conditioned_keeps h (fun _ h => h)

theorem stopCarriers_keeps {c0 c : Ctl} (h : Keeps due c0 c) : Keeps due c0 (stopCarriers c) := by
  unfold stopCarriers
  repeat' (with_reducible first
    | exact h | assumption | apply offerCarrierOff_keeps rfl | refine forEach_keeps ?_ _ ?_ | intro _ _ _ | split)

theorem stopContexts_keeps {c0 c : Ctl} (h : Keeps due c0 c) : Keeps due c0 (stopContexts c) := by
  unfold stopContexts
  repeat' (with_reducible first
    | exact h | assumption | apply abortCtx_keeps | refine forEach_keeps ?_ _ ?_ | intro _ _ _)

theorem stopRunning_keeps {c0 c : Ctl} (h : Keeps due c0 c) : Keeps due c0 (stopRunning c) := by
  unfold stopRunning
  repeat' (with_reducible first
    | exact h | assumption | apply failRunning_keeps | refine forEach_keeps ?_ _ ?_ | intro _ _ _)

theorem hallStopOn_keeps {c0 c : Ctl} {src : StopSource} (h : Keeps due c0 c) : Keeps due c0 (hallStopOn src c) := by
  unfold hallStopOn
  split
  · rename_i hf
    refine onHall_keeps h (fun hs => ?_)
    have hne : c.hall.sources ≠ [] := hs.1 hf
    unfold HallSound
    dsimp only
    split <;> simp [hf, hne]
  · exact raise_keeps (recheckWhere_keeps (stopRunning_keeps (stopContexts_keeps (stopCarriers_keeps
      (onHall_keeps h (fun _ => by simp [HallSound]))))))

theorem hallStop_keeps {c0 c : Ctl} {o : OwnOrder} (h : Keeps (due + 1) c0 c) : Keeps due c0 (hallStop o c) := by
  unfold hallStop
  repeat' (with_reducible first
    | exact h | apply answerDone_keeps | apply hallStopOn_keeps)

theorem hallResume_keeps {c0 c : Ctl} {o : OwnOrder} (h : Keeps (due + 1) c0 c) : Keeps due c0 (hallResume o c) := by
  unfold hallResume
  dsimp only
  split
  · exact refuseOrder_keeps h
  · split
    · exact refuseOrder_keeps h
    · split
      · exact rebuild_keeps (onHall_keeps (answerDone_keeps h) (fun _ => by simp [HallSound]))
      · exact answerDone_keeps h

theorem pushOn_keeps {c0 c : Ctl} (h : Keeps due c0 c) : Keeps due c0 (pushOn c) :=
  conditionedTo_keeps h (fun _ h => hallStopOn_keeps h)

theorem pushOff_keeps {c0 c : Ctl} (h : Keeps due c0 c) : Keeps due c0 (pushOff c) := conditionedTo_keeps h (fun _ h => h)

theorem partStatus_keeps {c0 c : Ctl} {o : OwnOrder} (h : Keeps (due + 1) c0 c) : Keeps due c0 (partStatus o c) := by
  unfold partStatus
  repeat' (with_reducible first
    | exact h | apply answerDone_keeps | apply refuseOrder_keeps | apply onLink_same | rfl | split
    | dsimp only)
  all_goals rfl

/-- A sampled panel has no change left to settle. -/
theorem samplePanel_sound (p : Panel) : PanelSound (samplePanel p) :=
  ⟨by simp [samplePanel], fun i => by simp [samplePanel]⟩

theorem pushSampled_keeps {c0 c : Ctl} {was : Bool} (h : Keeps due c0 c) : Keeps due c0 (pushSampled was c) := by
  unfold pushSampled
  repeat' (with_reducible first
    | exact h | apply hallStopOn_keeps | apply push_keeps | split)

theorem consistent_erased : Consistent Tables.erased := by unfold Consistent; decide

/-- The tables loaded at a reset are those of an image, or the erased ones. -/
theorem loadedTables_consistent {s : Site} (h1 : ∀ i, s.image1 = some i → Consistent i.tables)
    (h2 : ∀ i, s.image2 = some i → Consistent i.tables) : Consistent (loadedTables s) := by
  unfold loadedTables
  split
  · rename_i i hi
    unfold latestSite at hi
    split at hi
    · exact h2 i hi
    · exact h1 i hi
    · cases hi
  · exact consistent_erased

theorem loadSite_keeps {c0 c : Ctl} (h : Keeps due c0 c) : Keeps due c0 (loadSite c) :=
  h.relink (fun _ k => ⟨k.1, k.2, k.3, k.4, k.5, k.6, by
      have h7 := k.7
      unfold owedElsewhere at h7 ⊢
      have : owedOf (fun h : Held => h.frame.origin) (loadSite c).gate.held = 0 := rfl
      simp only [this]; simp only [loadSite]; omega⟩)
    (hh := fun _ _ => Nat.zero_le _)
    (hs := fun _ x => ⟨loadedTables_consistent x.2 x.3, x.2, x.3, x.4⟩)

theorem powerUp_keeps {c0 c : Ctl} (h : Keeps 0 c0 c) : Keeps 0 c0 (powerUp c) := by
  have hr : Keeps 0 c0 (resetStore c) := resetStore_keeps h
  unfold powerUp
  dsimp only
  refine pushSampled_keeps (pushOnce_keeps (loadSite_keeps ⟨fun s => ?_, fun _ => Nat.le_refl _, hr.clock⟩))
  have q := (h.sound s).site
  exact ⟨⟨Nat.zero_le _, Nat.le_refl _, Nat.zero_le _, Nat.zero_le _, Nat.zero_le _, Nat.zero_le _, Nat.zero_le _,
      Nat.zero_le _, Nat.zero_le _, ⟨rfl, fun _ hp => by cases hp⟩, (hr.sound s).bounds.storeQueue, Nat.zero_le _⟩,
    samplePanel_sound _, ⟨consistent_erased, q.2, q.3, (hr.sound s).site.saving⟩, by simp [HallSound, Ctl.reset]⟩

/-- The Link Interface after answers into reserved places. -/
def withAnswers (l : List Answer) (k : Link) : Link :=
  { k with reserved := k.reserved - l.length, answers := k.answers ++ l }

theorem withAnswers_append (l m : List Answer) (c : Ctl) :
    (c.onLink (withAnswers l)).onLink (withAnswers m) = c.onLink (withAnswers (l ++ m)) := by
  simp only [Ctl.onLink, withAnswers, List.length_append, List.append_assoc, Nat.sub_sub]

/-- The refusals of a list of frames: as many answers as the frames are owed. -/
theorem refuseAll_eq (l : List PFrame) (c : Ctl) :
    ∃ as, forEach l refuseOwed c = c.onLink (withAnswers as) ∧ as.length = owedOf (·.origin) l := by
  unfold forEach
  induction l generalizing c with
  | nil => exact ⟨[], by simp [Ctl.onLink, withAnswers], rfl⟩
  | cons f t ih =>
    rw [List.foldl_cons, owedOf_cons]
    have h1 : ∃ as, refuseOwed f c = c.onLink (withAnswers as) ∧ as.length = priceOf f.origin := by
      unfold refuseOwed priceOf
      cases f.origin with
      | ops station tag => exact ⟨[_], rfl, rfl⟩
      | _ => exact ⟨[], by simp [Ctl.onLink, withAnswers], rfl⟩
    obtain ⟨as, e, n⟩ := h1
    obtain ⟨bs, e', n'⟩ := ih (refuseOwed f c)
    refine ⟨as ++ bs, ?_, by rw [List.length_append, n, n', Nat.add_comm]⟩
    rw [e', e, withAnswers_append]

/-- The refusals of a RESTART answer no order that is not owed its answer (R38). -/
theorem refuseRestarting_eq (c : Ctl) :
    ∃ as, refuseRestarting c = c.onLink (withAnswers as) ∧ as.length ≤ owedPlaces c := by
  obtain ⟨as, ea, na⟩ := refuseAll_eq ((c.link.plantQueue.filter (fun q => q.frame.cls == .passed)).map (·.frame)) c
  obtain ⟨bs, eb, nb⟩ := refuseAll_eq (c.gate.held.map (·.frame)) (c.onLink (withAnswers as))
  obtain ⟨ds, ed, nd⟩ := refuseAll_eq (c.link.table.map entryFrame) ((c.onLink (withAnswers as)).onLink (withAnswers bs))
  have map : ∀ {α : Type} (g : α → PFrame) (l : List α),
      owedOf (fun f : PFrame => f.origin) (l.map g) = owedOf (fun x => (g x).origin) l := fun g l => by
    unfold owedOf; rw [List.countP_map]; rfl
  rw [map] at na nb nd
  have hq := owedOf_filter_le (fun q : Queued => q.frame.origin) (fun q => q.frame.cls == .passed) c.link.plantQueue
  have hc : ∃ es, answerClose (some .restarting) (((c.onLink (withAnswers as)).onLink (withAnswers bs)).onLink
      (withAnswers ds)) = (((c.onLink (withAnswers as)).onLink (withAnswers bs)).onLink (withAnswers ds)).onLink
      (withAnswers es) ∧ es.length = c.load.close.toList.length := by
    unfold answerClose
    have : (((c.onLink (withAnswers as)).onLink (withAnswers bs)).onLink (withAnswers ds)).load.close = c.load.close := rfl
    rw [this]
    cases c.load.close with
    | some p => exact ⟨[_], rfl, rfl⟩
    | none => exact ⟨[], by simp [Ctl.onLink, withAnswers], rfl⟩
  obtain ⟨es, ee, ne⟩ := hc
  refine ⟨as ++ bs ++ ds ++ es, ?_, ?_⟩
  · rw [← withAnswers_append, ← withAnswers_append, ← withAnswers_append, ← ee, ← ed, ← eb, ← ea]; rfl
  · simp only [List.length_append]
    have nd' : ds.length = owedOf (fun e : Entry => e.origin) c.link.table := nd
    unfold owedPlaces; omega

/-- A slot kept at a RESTART keeps its number. -/
theorem keptSlots_slots {t : Table Movement} (h : tableRising t = true ∧ ∀ p ∈ t, 1 ≤ p.1 ∧ p.1 ≤ 4) :
    tableRising (keptSlots t) = true ∧ ∀ p ∈ keptSlots t, 1 ≤ p.1 ∧ p.1 ≤ 4 := by
  refine ⟨?_, fun x hx => ?_⟩
  · have h1 := (tableRising_iff _).1 h.1
    refine (tableRising_iff _).2 ?_
    unfold Rising keptSlots at *
    exact List.pairwise_map.2 h1
  · obtain ⟨y, hy, rfl⟩ := List.mem_map.1 hx
    exact h.2 y hy

/-- RESTART leaves no order owed. -/
theorem emptied_keeps {c0 c : Ctl} (h : Keeps due c0 c) :
    Keeps due c0 (loadSite (emptyBlocks (refuseRestarting c))) := by
  obtain ⟨as, e, n⟩ := refuseRestarting_eq c
  rw [e]
  have hr : Keeps due c0 (resetStore c) := resetStore_keeps h
  have hl : (resetStore c).link = c.link := by
    unfold resetStore interruptOp; repeat' split <;> rfl
  have hs : resetStore (c.onLink (withAnswers as)) = (resetStore c).onLink (withAnswers as) := by
    unfold resetStore interruptOp
    have : (c.onLink (withAnswers as)).store.op = c.store.op := rfl
    rw [this]; repeat' split <;> rfl
  have all : Sound c0 → Sound (loadSite (emptyBlocks (c.onLink (withAnswers as)))) ∧
      owedPlaces (loadSite (emptyBlocks (c.onLink (withAnswers as)))) + due ≤
        (loadSite (emptyBlocks (c.onLink (withAnswers as)))).link.reserved := fun s => by
    obtain ⟨b, p, q, hs'⟩ := hr.sound s
    have hb := h.spare s
    have hp := (h.sound s).bounds.places
    have hw : (loadSite (emptyBlocks (c.onLink (withAnswers as)))).link.reserved = c.link.reserved - as.length := by
      show (resetStore (c.onLink (withAnswers as))).link.reserved = _
      rw [hs]; show (withAnswers as (resetStore c).link).reserved = _; rw [hl]; rfl
    have ha : (loadSite (emptyBlocks (c.onLink (withAnswers as)))).link.answers = c.link.answers ++ as := by
      show (resetStore (c.onLink (withAnswers as))).link.answers = _
      rw [hs]; show (withAnswers as (resetStore c).link).answers = _; rw [hl]; rfl
    have ho : owedPlaces (loadSite (emptyBlocks (c.onLink (withAnswers as)))) = 0 := rfl
    refine ⟨⟨⟨?_, ?_, Nat.zero_le _, Nat.zero_le _, Nat.zero_le _, Nat.zero_le _, Nat.zero_le _, Nat.zero_le _,
      Nat.zero_le _, ?_, Nat.zero_le _, Nat.zero_le _⟩, ?_, ?_, ?_⟩, ?_⟩
    · rw [hw, ha, List.length_append]; omega
    · rw [ho]; exact Nat.zero_le _
    · show tableRising (keptSlots (resetStore (c.onLink (withAnswers as))).matrix.slots) = true ∧
        ∀ p ∈ keptSlots (resetStore (c.onLink (withAnswers as))).matrix.slots, 1 ≤ p.1 ∧ p.1 ≤ 4
      rw [hs]; exact keptSlots_slots b.slots
    · show PanelSound (resetStore (c.onLink (withAnswers as))).panel
      rw [hs]; exact p
    · have e1 : (emptyBlocks (c.onLink (withAnswers as))).site = (resetStore c).site := by
        show (resetStore (c.onLink (withAnswers as))).site = _; rw [hs]; rfl
      refine ⟨?_, ?_, ?_, ?_⟩
      · show Consistent (loadedTables (emptyBlocks (c.onLink (withAnswers as))).site)
        rw [e1]; exact loadedTables_consistent q.2 q.3
      · show ∀ i, (emptyBlocks (c.onLink (withAnswers as))).site.image1 = some i → _
        rw [e1]; exact q.2
      · show ∀ i, (emptyBlocks (c.onLink (withAnswers as))).site.image2 = some i → _
        rw [e1]; exact q.3
      · intro t ht
        cases ht
    · show HallSound (resetStore (c.onLink (withAnswers as))).hall
      rw [hs]; exact hs'
    · rw [ho, hw]; omega
  refine ⟨fun s => (all s).1, fun s => (all s).2, ?_⟩
  show c0.clock ≤ (resetStore (c.onLink (withAnswers as))).clock
  rw [hs]; exact hr.clock

theorem restart_keeps {c0 c : Ctl} {o : OwnOrder} (h : Keeps (due + 1) c0 c) : Keeps due c0 (restart o c) :=
  pushSampled_keeps (onPanel_keeps (emptied_keeps (answerDone_keeps h)) (fun _ => samplePanel_sound _))

theorem offerSurvey_keeps {c0 c : Ctl} {station : Nat} {v : PlantVerb} (h : Keeps due c0 c) : Keeps due c0 (offerSurvey
    station v c) := by
  unfold offerSurvey
  repeat' (with_reducible first
    | exact h | apply offerOwn_keeps rfl)

theorem clearKept_keeps {c0 c : Ctl} {p : Nat × Movement} (h : Keeps due c0 c) : Keeps due c0 (clearKept p c) := by
  unfold clearKept
  repeat' (with_reducible first
    | exact h | apply offerClear_keeps | split)

theorem beginSurvey_keeps {c0 c : Ctl} (h : Keeps due c0 c) : Keeps due c0 (beginSurvey c) := by
  unfold beginSurvey
  repeat' (with_reducible first
    | exact h | assumption | apply clearKept_keeps | apply offerSurvey_keeps | apply push_keeps
    | refine forEach_keeps ?_ _ ?_ | apply onStart_keeps | intro _ _ _ | split | dsimp only)

theorem storeCheckEnd_keeps {c0 c : Ctl} (h : Keeps due c0 c) : Keeps due c0 (storeCheckEnd c) := by
  unfold storeCheckEnd
  repeat' (with_reducible first
    | exact h | apply beginSurvey_keeps | apply storeScan_keeps | split)

theorem surveyRemoved_keeps {c0 c : Ctl} {f : PFrame} (h : Keeps due c0 c) : Keeps due c0 (surveyRemoved f c) := by
  unfold surveyRemoved
  repeat' (with_reducible first
    | exact h | apply coilNotCleared_keeps | split)

theorem dropSurveyFrames_keeps {c0 c : Ctl} (h : Keeps due c0 c) : Keeps due c0 (dropSurveyFrames c) :=
  forEach_keeps (fun _ _ h => surveyRemoved_keeps h) _ (pushOnce_keeps (onLink_keeps (fun _ k =>
    ⟨Nat.le_trans (List.length_filter_le _ _) k.1,
     Nat.le_trans ((List.filter_sublist.filter _).length_le) k.2, k.3, k.4, k.5, k.6, by
      have h7 := k.7
      have h1 := owedOf_filter_le (fun q : Queued => q.frame.origin) (fun q => !isSurvey q.frame) c.link.plantQueue
      have h2 := owedOf_filter_le (fun f : PFrame => f.origin) (fun f => !isSurvey f) c.link.internalWaiters
      dsimp only; omega⟩) h))

theorem adoptPath_keeps {c0 c : Ctl} {q : (Nat × Nat) × Adoption} (h : Keeps due c0 c) : Keeps due c0 (adoptPath q c) := by
  unfold adoptPath
  repeat' (with_reducible first
    | exact h | apply becomeStuck_keeps | apply onMatrix_same | rfl | split)
  all_goals rfl

theorem proveAdopted_keeps {c0 c : Ctl} {pid : Nat} (h : Keeps due c0 c) : Keeps due c0 (proveAdopted pid c) := by
  unfold proveAdopted
  repeat' (with_reducible first
    | exact h | apply beginProof_keeps | split)

theorem beginAdopt_keeps {c0 c : Ctl} (h : Keeps due c0 c) : Keeps due c0 (beginAdopt c) := by
  unfold beginAdopt
  repeat' (with_reducible first
    | exact h | assumption | apply adoptPath_keeps | apply proveAdopted_keeps | apply push_keeps
    | refine forEach_keeps ?_ _ ?_ | apply onStart_keeps | intro _ _ _ | dsimp only)

theorem endSurvey_keeps {c0 c : Ctl} (h : Keeps due c0 c) : Keeps due c0 (endSurvey c) := by
  unfold endSurvey
  repeat' (with_reducible first
    | exact h | assumption | apply beginAdopt_keeps | apply dropSurveyFrames_keeps | apply stationSilent_keeps
    | refine forEach_keeps ?_ _ ?_ | intro _ _ _ | dsimp only)

theorem surveyCheck_keeps {c0 c : Ctl} (h : Keeps due c0 c) : Keeps due c0 (surveyCheck c) := by
  unfold surveyCheck
  repeat' (with_reducible first
    | exact h | apply endSurvey_keeps | split)

theorem surveyTimeout_keeps {c0 c : Ctl} (h : Keeps due c0 c) : Keeps due c0 (surveyTimeout c) := by
  unfold surveyTimeout
  repeat' (with_reducible first
    | exact h | apply clockReaches_keeps | apply endSurvey_keeps | split)

theorem adoptRunning_keeps {c0 c : Ctl} {n : Nat} {x : Consider} (h : Keeps due c0 c) : Keeps due c0 (adoptRunning n x c) :=
    by
  unfold adoptRunning
  repeat' (with_reducible first
    | exact h | apply modTx_keeps | apply recordOcc_keeps | apply setRowOwner_keeps | dsimp only)

theorem adoptTx_keeps {c0 c : Ctl} {n : Nat} (h : Keeps due c0 c) : Keeps due c0 (adoptTx n c) := by
  unfold adoptTx
  repeat' (with_reducible first
    | exact h | apply adoptRunning_keeps | apply modTx_keeps | apply setRowOwner_keeps | split)

theorem enterRunning_keeps {c0 c : Ctl} (h : Keeps due c0 c) : Keeps due c0 (enterRunning c) := by
  unfold enterRunning
  repeat' (with_reducible first
    | exact h | apply activate_keeps | apply raise_keeps | apply rebuild_keeps
    | refine queueRequest_keeps (room_of ?_) ?_ | assumption | apply onStart_keeps | split | dsimp only)

theorem adoptCheck_keeps {c0 c : Ctl} (h : Keeps due c0 c) : Keeps due c0 (adoptCheck c) := by
  unfold adoptCheck
  repeat' (with_reducible first
    | exact h | assumption | apply adoptTx_keeps | apply enterRunning_keeps | apply interlockNow_keeps
    | refine forEach_keeps ?_ _ ?_ | intro _ _ _ | split | dsimp only)

end Sys2Proof.Laws
end

