-- ==== Sys2Proof/Laws/KeepsRouter.lean ====
section
/-! SUPPORT. The operations of the routing of frames, the consequences and the ends of store operations carry
    soundness over and do not turn the clock back. -/

set_option linter.unreachableTactic false
set_option linter.unusedTactic false

namespace Sys2Proof.Laws
open Sys2Proof.Machine

variable {due : Nat}

theorem pathSet_keeps {c0 c : Ctl} {o : OwnOrder} (h : Keeps (due + 1) c0 c) : Keeps due c0 (pathSet o c) := by
  unfold pathSet
  repeat' (with_reducible first
    | exact h | apply answerAccepted_keeps | apply answerDone_keeps | apply pathSetAct_keeps
    | apply refuseOrder_keeps | split | dsimp only)

theorem pathFree_keeps {c0 c : Ctl} {o : OwnOrder} (h : Keeps (due + 1) c0 c) : Keeps due c0 (pathFree o c) := by
  unfold pathFree
  repeat' (with_reducible first
    | exact h | apply answerDone_keeps | apply pathFreeAct_keeps | apply refuseOrder_keeps | split)

theorem xpClear_keeps {c0 c : Ctl} {o : OwnOrder} (h : Keeps (due + 1) c0 c) : Keeps due c0 (xpClear o c) := by
  unfold xpClear
  split
  · split
    · rename_i hx; exact answerDone_keeps (xpClearOrder_keeps h hx)
    · exact answerRefused_keeps h
  · exact refuseOrder_keeps h

theorem refuseOps_keeps {c0 c : Ctl} {f : Frame} {r : Reason} {detail : List Byte} (h : Keeps (due + 1) c0 c) : Keeps due c0
    (refuseOps f r detail c) := by
  unfold refuseOps
  repeat' (with_reducible first
    | exact h | apply answerRefused_keeps)

/-- Every order to the controller, whatever its verb. -/
theorem ownerOf_keeps {c0 c : Ctl} {v : Nat} {o : OwnOrder} {f : OwnOrder → Ctl → Ctl} (hf : ownerOf v = some f)
    (h : Keeps (due + 1) c0 c) : Keeps due c0 (f o c) := by
  unfold ownerOf at hf
  split at hf <;> cases hf
  · exact pathSet_keeps h
  · exact pathFree_keeps h
  · exact xpClear_keeps h
  · exact holdLevel_keeps h
  · exact hallStop_keeps h
  · exact hallResume_keeps h
  · exact timeSet_keeps h
  · exact siteWrite_keeps h
  · exact siteRead_keeps h
  · exact siteSave_keeps h
  · exact storeOpen_keeps h
  · exact storeClose_keeps h
  · exact bankCreate_keeps h
  · exact bankSeal_keeps h
  · exact bankClear_keeps h
  · exact entryAppend_keeps h
  · exact entryVoid_keeps h
  · exact pageErase_keeps h
  · exact storeStatus_keeps h
  · exact storeFaultClear_keeps h
  · exact entryRead_keeps h
  · exact planRead_keeps h
  · exact contextRead_keeps h
  · exact partStatus_keeps h
  · exact restart_keeps h

theorem routeOwn_keeps {c0 c : Ctl} {f : Frame} (h : Keeps (due + 1) c0 c) : Keeps due c0 (routeOwn f c) := by
  unfold routeOwn
  split
  · split
    · rename_i hf; exact ownerOf_keeps hf h
    · exact refuseOps_keeps h
  · split
    · exact loadOpen_keeps h
    · exact loadData_keeps h
    · exact loadClose_keeps h
    · exact loadBadSubverb_keeps h
  · exact refuseOps_keeps h

theorem gatePassed_keeps {c0 c : Ctl} {f : Frame} {v : PlantVerb} (h : Keeps (due + 1) c0 c) :
    Keeps due c0 (gatePassed f v c) := offer_keeps h

theorem routePlant_keeps {c0 c : Ctl} {f : Frame} (h : Keeps (due + 1) c0 c) : Keeps due c0 (routePlant f c) := by
  unfold routePlant
  repeat' (with_reducible first
    | exact h | apply gatePassed_keeps | apply refuseOps_keeps | split)

theorem routeOps_keeps {c0 c : Ctl} {f : Frame} (h : Keeps (due + 1) c0 c) : Keeps due c0 (routeOps f c) := by
  unfold routeOps
  repeat' (with_reducible first
    | exact h | apply releasePlace_keeps | apply routeOwn_keeps | apply routePlant_keeps | split)

theorem takeOps_keeps {c0 c : Ctl} {f : Frame} (hr : opsRoom c.link = true) (h : Keeps due c0 c) :
    Keeps due c0 (takeOps f c) := routeOps_keeps (reserve_keeps hr h)

theorem opsFrameEnds_keeps {c0 c : Ctl} {f : Frame} (h : Keeps due c0 c) : Keeps due c0 (opsFrameEnds f c) := by
  unfold opsFrameEnds
  split
  · exact h
  · split
    · rename_i hr; exact takeOps_keeps hr.1 h
    · exact onLink_same h

theorem opsTake_keeps {c0 c : Ctl} (h : Keeps due c0 c) : Keeps due c0 (opsTake c) := by
  unfold opsTake
  split
  · rename_i hr
    split
    · exact pushOnce_keeps (takeOps_keeps hr (onLink_same h))
    · exact h
  · exact h

theorem opsOctets_keeps {c0 c : Ctl} {raw : List Byte} (h : Keeps due c0 c) : Keeps due c0 (opsOctets raw c) := by
  unfold opsOctets
  repeat' (with_reducible first
    | exact h | apply opsFrameEnds_keeps | split)

theorem plantStatus_keeps {c0 c : Ctl} {k : StationClass} {f : Frame} (h : Keeps due c0 c) : Keeps due c0 (plantStatus k f c)
    := by
  unfold plantStatus
  repeat' (with_reducible first
    | exact h | apply applyDriveReport_keeps | apply applyTxReport_keeps | apply takeBits_keeps | split)

theorem readTxAnswer_keeps {c0 c : Ctl} {n : Nat} {f : Frame} {o : Outcome} (h : Keeps due c0 c) : Keeps due c0 (readTxAnswer
    n f o c) := by
  unfold readTxAnswer
  repeat' (with_reducible first
    | exact h | apply afterRecord_keeps | apply applyTxAnswer_keeps | apply applyTxReport_keeps | split)

theorem readAnswer_keeps {c0 c : Ctl} {k : StationClass} {f : Frame} {o : Outcome} (h : Keeps due c0 c) : Keeps due c0
    (readAnswer k f o c) := by
  unfold readAnswer
  repeat' (with_reducible first
    | exact h | apply applyDriveReport_keeps | apply readTxAnswer_keeps | split)

theorem forwardAnswer_keeps {c0 c : Ctl} {f : Frame} (h : Keeps (due + 1) c0 c) : Keeps due c0 (forwardAnswer f c) :=
  onLink_keeps (fun _ k => ⟨k.1, k.2, k.3, k.4, k.5, by
    have h6 := k.6; have h7 := k.7
    simp only [List.length_append, List.length_singleton]; omega, by have h7 := k.7; simp only; omega⟩) h

theorem matchedAnswer_keeps {c0 c : Ctl} {e : Entry} {f : Frame} {o : Outcome} (he : e ∈ c.link.table)
    (h : Keeps due c0 c) : Keeps due c0 (matchedAnswer e f o c) := by
  have h' := endEntry_keeps he h
  have h2 : Keeps due c0 (match e.origin with
      | .ops _ _ => forwardAnswer f (endEntry e c)
      | _ => endEntry e c) := by
    split
    · rename_i ho; rw [ho] at h'; exact forwardAnswer_keeps h'
    · exact h'.fewer
  unfold matchedAnswer
  refine push_keeps ?_
  split
  · split
    · exact readAnswered_keeps h2
    · exact h2
  · exact h2

theorem strayAnswer_keeps {c0 c : Ctl} {f : Frame} (h : Keeps due c0 c) : Keeps due c0 (strayAnswer f c) := by
  unfold strayAnswer
  repeat' (with_reducible first
    | exact h | apply forwardStray_keeps | split)

theorem plantAnswer_keeps {c0 c : Ctl} {k : StationClass} {f : Frame} (h : Keeps due c0 c) : Keeps due c0 (plantAnswer k f c)
    := by
  unfold plantAnswer
  split
  · exact h
  · split
    · exact h
    · dsimp only
      split
      · rename_i he; exact matchedAnswer_keeps (List.mem_of_find?_eq_some he) (readAnswer_keeps h)
      · exact strayAnswer_keeps (readAnswer_keeps h)

theorem plantFrameEnds_keeps {c0 c : Ctl} {f : Frame} (h : Keeps due c0 c) : Keeps due c0 (plantFrameEnds f c) := by
  unfold plantFrameEnds
  repeat' (with_reducible first
    | exact h | apply plantAnswer_keeps | apply plantStatus_keeps | apply stationHeard_keeps | split)

theorem plantOctets_keeps {c0 c : Ctl} {raw : List Byte} (h : Keeps due c0 c) : Keeps due c0 (plantOctets raw c) := by
  unfold plantOctets
  repeat' (with_reducible first
    | exact h | apply plantFrameEnds_keeps | split)

theorem entryTimedOut_keeps {c0 c : Ctl} {e : Entry} (he : e ∈ c.link.table) (h : Keeps due c0 c) :
    Keeps due c0 (entryTimedOut e c) := by
  have h' := applyTxTimeout_keeps (e := e) (stationSilent_keeps (addr := e.station) (endEntry_keeps he h))
  unfold entryTimedOut
  refine push_keeps ?_
  split
  · rename_i ho; rw [ho] at h'; exact answerRefused_keeps h'
  · exact h'.fewer

theorem answerTimeout_keeps {c0 c : Ctl} (h : Keeps due c0 c) : Keeps due c0 (answerTimeout c) := by
  unfold answerTimeout
  split
  · rename_i he
    exact entryTimedOut_keeps (List.mem_of_find?_eq_some he) (clockReaches_keeps h)
  · exact h

theorem holdExpiry_keeps {c0 c : Ctl} (h : Keeps due c0 c) : Keeps due c0 (holdExpiry c) := by
  unfold holdExpiry
  split
  · exact h
  · rename_i hh
    exact refuseBy_keeps (dropHeld_keeps (by show _ ∈ c.gate.held; rw [hh]; exact List.mem_cons_self) (clockReaches_keeps h))

theorem clampFailed_keeps {c0 c : Ctl} {station code : Nat} {detail : List Byte} (h : Keeps due c0 c) : Keeps due c0
    (clampFailed station code detail c) := by
  unfold clampFailed
  repeat' (with_reducible first
    | exact h | apply refuseHeld_keeps)

theorem ownRefused_keeps {c0 c : Ctl} {f : PFrame} {code : Nat} (h : Keeps due c0 c) : Keeps due c0 (ownRefused f code c) :=
    by
  unfold ownRefused
  repeat' (with_reducible first
    | exact h | apply clampFailed_keeps | apply ctxRefused_keeps | apply hallStop_keeps
    | apply jobRefused_keeps | apply miRefused_keeps | apply pushOnce_keeps | apply surveyCheck_keeps
    | apply surveyRemoved_keeps | split)

theorem gateEnded_keeps {c0 c : Ctl} {e : Entry} {purpose : GatePurpose} {outcome : Option Outcome} {code : Nat} (h :
    Keeps due c0 c) : Keeps due c0 (gateEnded e purpose outcome code c) := by
  unfold gateEnded
  repeat' (with_reducible first
    | exact h | apply clampFailed_keeps | apply interlock_keeps | apply interlockAgain_keeps
    | apply push_keeps | split)

theorem surveyEnded_keeps {c0 c : Ctl} {e : Entry} {outcome : Option Outcome} (h : Keeps due c0 c) : Keeps due c0
    (surveyEnded e outcome c) := by
  unfold surveyEnded
  repeat' (with_reducible first
    | exact h | apply coilCleared_keeps | apply coilNotCleared_keeps | apply pushOnce_keeps
    | apply surveyCheck_keeps | split)

theorem exchangeEnded_keeps {c0 c : Ctl} {e : Entry} {outcome : Option Outcome} {code : Nat} (h : Keeps due c0 c) : Keeps due c0 (exchangeEnded e outcome code c) := by
  unfold exchangeEnded
  repeat' (with_reducible first
    | exact h | apply ctxEnded_keeps | apply gateEnded_keeps | apply hallStop_keeps
    | apply jobExchangeEnded_keeps | apply miEnded_keeps | apply surveyEnded_keeps | split)

theorem handle_keeps {c0 c : Ctl} {x : Signal} (h : Keeps due c0 c) : Keeps due c0 (handle x c) := by
  unfold handle
  repeat' (with_reducible first
    | exact h | apply abortCtx_keeps | apply actPath_keeps | apply activation_keeps | apply adoptCheck_keeps
    | apply appendedEntry_keeps | apply arbiter_keeps | apply carrierWatch_keeps | apply ctxFreed_keeps
    | apply ctxJobEnded_keeps | apply ctxPathNews_keeps | apply ctxRecord_keeps | apply dispatch_keeps
    | apply endOpsHold_keeps | apply engine_keeps | apply exchangeEnded_keeps | apply fitPower_keeps
    | apply giveSlot_keeps | apply portChoose_keeps | apply intake_keeps | apply interlock_keeps | apply lookAgain_keeps
    | apply occFailed_keeps | apply offerLog_keeps | apply offerReturned_keeps
    | apply opsTake_keeps | apply ownRefused_keeps | apply recheckWhere_keeps | apply surveyCheck_keeps
    | apply voidedEntry_keeps | apply withdraw_keeps | split)

theorem noteColumns_keeps {before c0 c : Ctl} (h : Keeps due c0 c) : Keeps due c0 (noteColumns before c) := by
  unfold noteColumns; split
  · exact h
  · exact pushOnce_keeps h

theorem settle_keeps {c0 : Ctl} {n : Nat} : ∀ {c : Ctl}, Keeps due c0 c → Keeps due c0 (settle n c) := by
  induction n with
  | zero => intro c h; exact h
  | succ k ih =>
    intro c h
    unfold settle
    split
    · exact h
    · exact ih (noteColumns_keeps (handle_keeps (agenda_keeps _ h)))

/-- The end of a step. -/
theorem finish_keeps {c0 c : Ctl} (h : Keeps due c0 c) : Keeps due c0 (finish c) := opsChoose_keeps (settle_keeps h)

theorem slotWriteDone_keeps {c0 c : Ctl} (h : Keeps due c0 c) : Keeps due c0 (slotWriteDone c) := by
  unfold slotWriteDone
  repeat' (with_reducible first
    | exact h | apply endOp_keeps | apply slotWritten_keeps | split)

theorem voidDone_keeps {c0 c : Ctl} (h : Keeps due c0 c) : Keeps due c0 (voidDone c) := by
  unfold voidDone
  repeat' (with_reducible first
    | exact h | apply endOp_keeps | apply slotVoided_keeps | split)

theorem pageErasePageDone_keeps {c0 c : Ctl} (h : Keeps due c0 c) : Keeps due c0 (pageErasePageDone c) := by
  unfold pageErasePageDone
  repeat' (with_reducible first
    | exact h | apply endOp_keeps | apply pageErased_keeps | split)

theorem headerWriteDone_keeps {c0 c : Ctl} (h : Keeps due c0 c) : Keeps due c0 (headerWriteDone c) := by
  unfold headerWriteDone
  repeat' (with_reducible first
    | exact h | apply endOp_keeps | apply headerWritten_keeps | split)

theorem siteSaveDone_keeps {c0 c : Ctl} (h : Keeps due c0 c) : Keeps due c0 (siteSaveDone c) := by
  unfold siteSaveDone
  split
  · rename_i hop
    exact saveDone_keeps (endOp_keeps h) (fun s => (h.sound s).site.saving _ (by rw [hop]; rfl))
  · exact h

theorem siteSaveLimit_keeps {c0 c : Ctl} (h : Keeps due c0 c) : Keeps due c0 (siteSaveLimit c) := by
  unfold siteSaveLimit
  repeat' (with_reducible first
    | exact h | apply endOp_keeps | apply saveFailed_keeps | apply siteSave_keeps | split)

end Sys2Proof.Laws
end

