-- ==== Sys2Proof/Laws/PerInstr.lean ====
section
/-! SUPPORT. A statement about every command, made per command: a well-formed command's operands lie in the fields of a
frame (section 2.1), or in the numbering of the controller (sections 0.2, 1.1). -/

namespace Sys2Proof.Laws.FieldsFit

open Sys2Proof

/-- The operands that an octet of a frame holds. -/
def octets : Instr → List Nat
  | .powerUp => []
  | .opsFrameDiscard _ => []
  | .opsHoldOff => []
  | .opsReady => []
  | .opsFrameSent => []
  | .opsUnknownDestination f => [f.dest, f.src, f.tag, f.verb]
  | .opsBadVerb f => [f.dest, f.src, f.tag, f.verb]
  | .opsTune o => [o.dest, o.src, o.tag]
  | .opsPower o => [o.dest, o.src, o.tag]
  | .opsCarrierOn o => [o.dest, o.src, o.tag]
  | .opsCarrierOff o => [o.dest, o.src, o.tag]
  | .opsFeed o => [o.dest, o.src, o.tag]
  | .opsQueryTransmitter o => [o.dest, o.src, o.tag]
  | .opsSlew o => [o.dest, o.src, o.tag]
  | .opsSteer o => [o.dest, o.src, o.tag]
  | .opsStop o => [o.dest, o.src, o.tag]
  | .opsQueryDrive o => [o.dest, o.src, o.tag]
  | .opsMatrixFrame f => [f.dest, f.src, f.tag, f.verb]
  | .opsAuxiliaryFrame f => [f.dest, f.src, f.tag, f.verb]
  | .pathSet o => [o.src, o.tag]
  | .pathFree o => [o.src, o.tag]
  | .xpClear o => [o.src, o.tag]
  | .holdLevel o => [o.src, o.tag]
  | .hallStop o => [o.src, o.tag]
  | .hallResume o => [o.src, o.tag]
  | .timeSet o => [o.src, o.tag]
  | .siteWrite o => [o.src, o.tag]
  | .siteRead o => [o.src, o.tag]
  | .siteSave o => [o.src, o.tag]
  | .storeOpen o => [o.src, o.tag]
  | .storeClose o => [o.src, o.tag]
  | .bankCreate o => [o.src, o.tag]
  | .bankSeal o => [o.src, o.tag]
  | .bankClear o => [o.src, o.tag]
  | .entryAppend o => [o.src, o.tag]
  | .entryVoid o => [o.src, o.tag]
  | .pageErase o => [o.src, o.tag]
  | .storeStatus o => [o.src, o.tag]
  | .storeFaultClear o => [o.src, o.tag]
  | .entryRead o => [o.src, o.tag]
  | .planRead o => [o.src, o.tag]
  | .contextRead o => [o.src, o.tag]
  | .partStatus o => [o.src, o.tag]
  | .restart o => [o.src, o.tag]
  | .loadOpen o => [o.src, o.tag]
  | .loadData o => [o.src, o.tag]
  | .loadClose o => [o.src, o.tag]
  | .loadBadSubverb n o => [n] ++ [o.src, o.tag]
  | .loadIdleTimeout => []
  | .plantFrameDiscard _ => []
  | .transmitterStatus f => [f.dest, f.src, f.tag, f.verb]
  | .driveStatus f => [f.dest, f.src, f.tag, f.verb]
  | .matrixStatus f => [f.dest, f.src, f.tag, f.verb]
  | .auxiliaryStatus f => [f.dest, f.src, f.tag, f.verb]
  | .transmitterAnswer f => [f.dest, f.src, f.tag, f.verb]
  | .driveAnswer f => [f.dest, f.src, f.tag, f.verb]
  | .matrixAnswer f => [f.dest, f.src, f.tag, f.verb]
  | .auxiliaryAnswer f => [f.dest, f.src, f.tag, f.verb]
  | .plantFrameSent => []
  | .answerTimeout => []
  | .holdExpiry => []
  | .movementLimitExpiry n => [n]
  | .pathSettleEnd n => [n]
  | .operationsPathLimit n => [n]
  | .panelInputEdge i _ => (match i with | .localKey n => [n] | .lockout n => [n] | .maintenance => [] | .push => [])
  | .localKeyChange n => [n]
  | .lockoutOn n => [n]
  | .lockoutOff n => [n]
  | .maintenanceKeyChange => []
  | .hallStopPushOn => []
  | .hallStopPushOff => []
  | .eraseWindowExpiry => []
  | .slotWriteDone => []
  | .voidDone => []
  | .pageErasePageDone => []
  | .headerWriteDone => []
  | .siteSaveDone => []
  | .storeLimitExpiry => []
  | .siteSaveLimitExpiry => []
  | .siteSecond => []
  | .minuteBoundaryRefill => []
  | .eventDue => []
  | .occurrenceEndPassed _ => []
  | .returnEndReached _ => []
  | .seasonActivation => []
  | .muteDeadline n => [n]
  | .releaseDeadline n => [n]
  | .substepDeadline n _ => [n]
  | .proveDeadline n => [n]
  | .raiseDeadline n => [n]
  | .contextMissed n => [n]
  | .storeCheckEnd => []
  | .surveyTimeout => []

/-- The octets of the payload it carries. -/
def payload : Instr → List Byte
  | .powerUp => []
  | .opsFrameDiscard _ => []
  | .opsHoldOff => []
  | .opsReady => []
  | .opsFrameSent => []
  | .opsUnknownDestination f => f.payload
  | .opsBadVerb f => f.payload
  | .opsTune o => o.payload
  | .opsPower o => o.payload
  | .opsCarrierOn o => o.payload
  | .opsCarrierOff o => o.payload
  | .opsFeed o => o.payload
  | .opsQueryTransmitter o => o.payload
  | .opsSlew o => o.payload
  | .opsSteer o => o.payload
  | .opsStop o => o.payload
  | .opsQueryDrive o => o.payload
  | .opsMatrixFrame f => f.payload
  | .opsAuxiliaryFrame f => f.payload
  | .pathSet o => o.payload
  | .pathFree o => o.payload
  | .xpClear o => o.payload
  | .holdLevel o => o.payload
  | .hallStop o => o.payload
  | .hallResume o => o.payload
  | .timeSet o => o.payload
  | .siteWrite o => o.payload
  | .siteRead o => o.payload
  | .siteSave o => o.payload
  | .storeOpen o => o.payload
  | .storeClose o => o.payload
  | .bankCreate o => o.payload
  | .bankSeal o => o.payload
  | .bankClear o => o.payload
  | .entryAppend o => o.payload
  | .entryVoid o => o.payload
  | .pageErase o => o.payload
  | .storeStatus o => o.payload
  | .storeFaultClear o => o.payload
  | .entryRead o => o.payload
  | .planRead o => o.payload
  | .contextRead o => o.payload
  | .partStatus o => o.payload
  | .restart o => o.payload
  | .loadOpen o => o.payload
  | .loadData o => o.payload
  | .loadClose o => o.payload
  | .loadBadSubverb _ o => o.payload
  | .loadIdleTimeout => []
  | .plantFrameDiscard _ => []
  | .transmitterStatus f => f.payload
  | .driveStatus f => f.payload
  | .matrixStatus f => f.payload
  | .auxiliaryStatus f => f.payload
  | .transmitterAnswer f => f.payload
  | .driveAnswer f => f.payload
  | .matrixAnswer f => f.payload
  | .auxiliaryAnswer f => f.payload
  | .plantFrameSent => []
  | .answerTimeout => []
  | .holdExpiry => []
  | .movementLimitExpiry _ => []
  | .pathSettleEnd _ => []
  | .operationsPathLimit _ => []
  | .panelInputEdge _ _ => []
  | .localKeyChange _ => []
  | .lockoutOn _ => []
  | .lockoutOff _ => []
  | .maintenanceKeyChange => []
  | .hallStopPushOn => []
  | .hallStopPushOff => []
  | .eraseWindowExpiry => []
  | .slotWriteDone => []
  | .voidDone => []
  | .pageErasePageDone => []
  | .headerWriteDone => []
  | .siteSaveDone => []
  | .storeLimitExpiry => []
  | .siteSaveLimitExpiry => []
  | .siteSecond => []
  | .minuteBoundaryRefill => []
  | .eventDue => []
  | .occurrenceEndPassed _ => []
  | .returnEndReached _ => []
  | .seasonActivation => []
  | .muteDeadline _ => []
  | .releaseDeadline _ => []
  | .substepDeadline _ _ => []
  | .proveDeadline _ => []
  | .raiseDeadline _ => []
  | .contextMissed _ => []
  | .storeCheckEnd => []
  | .surveyTimeout => []

/-- A well-formed command's numbers each fit an octet, and its payload fits a frame. -/
def Statement (i : Instr) : Prop := i.wellFormed = true → (∀ n ∈ octets i, n < 256) ∧ (payload i).length ≤ 48

theorem payload_short {p : List Byte} : payloadFits p = true ↔ p.length ≤ 48 := decide_eq_true_iff

theorem frame_fields {f : Frame} (h : f.fits = true) :
    (∀ n ∈ [f.dest, f.src, f.tag, f.verb], n < 256) ∧ f.payload.length ≤ 48 := by
  simpa [Frame.fits, isOctet, payload_short, and_assoc] using h

theorem plantFrame_fields {f : PlantFrame} (h : f.fits = true) :
    (∀ n ∈ [f.dest, f.src, f.tag, f.verb], n < 256) ∧ f.payload.length ≤ 48 := by
  simpa [PlantFrame.fits, isOctet, payload_short, and_assoc] using h

theorem plantOrder_fields {o : PlantOrder} (h : o.fits = true) :
    (∀ n ∈ [o.dest, o.src, o.tag], n < 256) ∧ o.payload.length ≤ 48 := by
  simpa [PlantOrder.fits, isOctet, payload_short, and_assoc] using h

theorem ownOrder_fields {o : OwnOrder} (h : o.fits = true) :
    (∀ n ∈ [o.src, o.tag], n < 256) ∧ o.payload.length ≤ 48 := by
  simpa [OwnOrder.fits, isOctet, payload_short, and_assoc] using h

theorem number_fits {n m : Nat} (hm : m < 256) (h : decide (1 ≤ n ∧ n ≤ m) = true) :
    (∀ k ∈ [n], k < 256) ∧ ([] : List Byte).length ≤ 48 := by
  simp at *
  omega

theorem nothing_fits : (∀ n ∈ ([] : List Nat), n < 256) ∧ ([] : List Byte).length ≤ 48 := by simp

theorem powerUp : Statement .powerUp := fun _ => nothing_fits
theorem opsFrameDiscard (raw : List Byte) : Statement (.opsFrameDiscard raw) := fun _ => nothing_fits
theorem opsHoldOff : Statement .opsHoldOff := fun _ => nothing_fits
theorem opsReady : Statement .opsReady := fun _ => nothing_fits
theorem opsFrameSent : Statement .opsFrameSent := fun _ => nothing_fits
theorem opsUnknownDestination (f : Frame) : Statement (.opsUnknownDestination f) := frame_fields
theorem opsBadVerb (f : Frame) : Statement (.opsBadVerb f) := frame_fields
theorem opsTune (o : PlantOrder) : Statement (.opsTune o) := plantOrder_fields
theorem opsPower (o : PlantOrder) : Statement (.opsPower o) := plantOrder_fields
theorem opsCarrierOn (o : PlantOrder) : Statement (.opsCarrierOn o) := plantOrder_fields
theorem opsCarrierOff (o : PlantOrder) : Statement (.opsCarrierOff o) := plantOrder_fields
theorem opsFeed (o : PlantOrder) : Statement (.opsFeed o) := plantOrder_fields
theorem opsQueryTransmitter (o : PlantOrder) : Statement (.opsQueryTransmitter o) := plantOrder_fields
theorem opsSlew (o : PlantOrder) : Statement (.opsSlew o) := plantOrder_fields
theorem opsSteer (o : PlantOrder) : Statement (.opsSteer o) := plantOrder_fields
theorem opsStop (o : PlantOrder) : Statement (.opsStop o) := plantOrder_fields
theorem opsQueryDrive (o : PlantOrder) : Statement (.opsQueryDrive o) := plantOrder_fields
theorem opsMatrixFrame (f : Frame) : Statement (.opsMatrixFrame f) := frame_fields
theorem opsAuxiliaryFrame (f : Frame) : Statement (.opsAuxiliaryFrame f) := frame_fields
theorem pathSet (o : OwnOrder) : Statement (.pathSet o) := ownOrder_fields
theorem pathFree (o : OwnOrder) : Statement (.pathFree o) := ownOrder_fields
theorem xpClear (o : OwnOrder) : Statement (.xpClear o) := ownOrder_fields
theorem holdLevel (o : OwnOrder) : Statement (.holdLevel o) := ownOrder_fields
theorem hallStop (o : OwnOrder) : Statement (.hallStop o) := ownOrder_fields
theorem hallResume (o : OwnOrder) : Statement (.hallResume o) := ownOrder_fields
theorem timeSet (o : OwnOrder) : Statement (.timeSet o) := ownOrder_fields
theorem siteWrite (o : OwnOrder) : Statement (.siteWrite o) := ownOrder_fields
theorem siteRead (o : OwnOrder) : Statement (.siteRead o) := ownOrder_fields
theorem siteSave (o : OwnOrder) : Statement (.siteSave o) := ownOrder_fields
theorem storeOpen (o : OwnOrder) : Statement (.storeOpen o) := ownOrder_fields
theorem storeClose (o : OwnOrder) : Statement (.storeClose o) := ownOrder_fields
theorem bankCreate (o : OwnOrder) : Statement (.bankCreate o) := ownOrder_fields
theorem bankSeal (o : OwnOrder) : Statement (.bankSeal o) := ownOrder_fields
theorem bankClear (o : OwnOrder) : Statement (.bankClear o) := ownOrder_fields
theorem entryAppend (o : OwnOrder) : Statement (.entryAppend o) := ownOrder_fields
theorem entryVoid (o : OwnOrder) : Statement (.entryVoid o) := ownOrder_fields
theorem pageErase (o : OwnOrder) : Statement (.pageErase o) := ownOrder_fields
theorem storeStatus (o : OwnOrder) : Statement (.storeStatus o) := ownOrder_fields
theorem storeFaultClear (o : OwnOrder) : Statement (.storeFaultClear o) := ownOrder_fields
theorem entryRead (o : OwnOrder) : Statement (.entryRead o) := ownOrder_fields
theorem planRead (o : OwnOrder) : Statement (.planRead o) := ownOrder_fields
theorem contextRead (o : OwnOrder) : Statement (.contextRead o) := ownOrder_fields
theorem partStatus (o : OwnOrder) : Statement (.partStatus o) := ownOrder_fields
theorem restart (o : OwnOrder) : Statement (.restart o) := ownOrder_fields
theorem loadOpen (o : OwnOrder) : Statement (.loadOpen o) := ownOrder_fields
theorem loadData (o : OwnOrder) : Statement (.loadData o) := ownOrder_fields
theorem loadClose (o : OwnOrder) : Statement (.loadClose o) := ownOrder_fields
theorem loadBadSubverb (subverb : Nat) (o : OwnOrder) : Statement (.loadBadSubverb subverb o) := by
  intro h
  simp only [Instr.wellFormed, isOctet, Bool.and_eq_true, decide_eq_true_eq] at h
  have := ownOrder_fields h.2
  simpa [octets, payload, h.1.1] using this
theorem loadIdleTimeout : Statement .loadIdleTimeout := fun _ => nothing_fits
theorem plantFrameDiscard (raw : List Byte) : Statement (.plantFrameDiscard raw) := fun _ => nothing_fits
theorem transmitterStatus (f : PlantFrame) : Statement (.transmitterStatus f) := plantFrame_fields
theorem driveStatus (f : PlantFrame) : Statement (.driveStatus f) := plantFrame_fields
theorem matrixStatus (f : PlantFrame) : Statement (.matrixStatus f) := plantFrame_fields
theorem auxiliaryStatus (f : PlantFrame) : Statement (.auxiliaryStatus f) := plantFrame_fields
theorem transmitterAnswer (f : PlantFrame) : Statement (.transmitterAnswer f) := plantFrame_fields
theorem driveAnswer (f : PlantFrame) : Statement (.driveAnswer f) := plantFrame_fields
theorem matrixAnswer (f : PlantFrame) : Statement (.matrixAnswer f) := plantFrame_fields
theorem auxiliaryAnswer (f : PlantFrame) : Statement (.auxiliaryAnswer f) := plantFrame_fields
theorem plantFrameSent : Statement .plantFrameSent := fun _ => nothing_fits
theorem answerTimeout : Statement .answerTimeout := fun _ => nothing_fits
theorem holdExpiry : Statement .holdExpiry := fun _ => nothing_fits
theorem movementLimitExpiry (slot : Nat) : Statement (.movementLimitExpiry slot) := number_fits (by decide)
theorem pathSettleEnd (transmitter : Nat) : Statement (.pathSettleEnd transmitter) := number_fits (by decide)
theorem operationsPathLimit (transmitter : Nat) : Statement (.operationsPathLimit transmitter) := number_fits (by decide)
theorem panelInputEdge (input : PanelInput) (level : Bool) : Statement (.panelInputEdge input level) := by
  cases input with
  | localKey n => exact number_fits (by decide)
  | lockout n => exact number_fits (by decide)
  | maintenance => exact fun _ => nothing_fits
  | push => exact fun _ => nothing_fits
theorem localKeyChange (n : Nat) : Statement (.localKeyChange n) := number_fits (by decide)
theorem lockoutOn (n : Nat) : Statement (.lockoutOn n) := number_fits (by decide)
theorem lockoutOff (n : Nat) : Statement (.lockoutOff n) := number_fits (by decide)
theorem maintenanceKeyChange : Statement .maintenanceKeyChange := fun _ => nothing_fits
theorem hallStopPushOn : Statement .hallStopPushOn := fun _ => nothing_fits
theorem hallStopPushOff : Statement .hallStopPushOff := fun _ => nothing_fits
theorem eraseWindowExpiry : Statement .eraseWindowExpiry := fun _ => nothing_fits
theorem slotWriteDone : Statement .slotWriteDone := fun _ => nothing_fits
theorem voidDone : Statement .voidDone := fun _ => nothing_fits
theorem pageErasePageDone : Statement .pageErasePageDone := fun _ => nothing_fits
theorem headerWriteDone : Statement .headerWriteDone := fun _ => nothing_fits
theorem siteSaveDone : Statement .siteSaveDone := fun _ => nothing_fits
theorem storeLimitExpiry : Statement .storeLimitExpiry := fun _ => nothing_fits
theorem siteSaveLimitExpiry : Statement .siteSaveLimitExpiry := fun _ => nothing_fits
theorem siteSecond : Statement .siteSecond := fun _ => nothing_fits
theorem minuteBoundaryRefill : Statement .minuteBoundaryRefill := fun _ => nothing_fits
theorem eventDue : Statement .eventDue := fun _ => nothing_fits
theorem occurrenceEndPassed (occ : Occ) : Statement (.occurrenceEndPassed occ) := fun _ => nothing_fits
theorem returnEndReached (occ : Occ) : Statement (.returnEndReached occ) := fun _ => nothing_fits
theorem seasonActivation : Statement .seasonActivation := fun _ => nothing_fits
theorem muteDeadline (context : Nat) : Statement (.muteDeadline context) := number_fits (by decide)
theorem releaseDeadline (context : Nat) : Statement (.releaseDeadline context) := number_fits (by decide)
theorem substepDeadline (context : Nat) (sub : SubStep) : Statement (.substepDeadline context sub) := number_fits (by decide)
theorem proveDeadline (context : Nat) : Statement (.proveDeadline context) := number_fits (by decide)
theorem raiseDeadline (context : Nat) : Statement (.raiseDeadline context) := number_fits (by decide)
theorem contextMissed (context : Nat) : Statement (.contextMissed context) := number_fits (by decide)
theorem storeCheckEnd : Statement .storeCheckEnd := fun _ => nothing_fits
theorem surveyTimeout : Statement .surveyTimeout := fun _ => nothing_fits

end Sys2Proof.Laws.FieldsFit
end

