-- ==== Sys2Proof/Tests/Slice0.lean ====
section
/-! SUPPORT. Tests: the well-formedness checks refuse, worked figures of the specification, single steps, and for every
statement with hypotheses a concrete state and operands that meet them. -/

set_option linter.unusedVariables false
set_option Elab.async false
set_option linter.unusedSimpArgs false

namespace Sys2Proof.Tests

open Sys2Proof Sys2Proof.Machine

/-! ## Well-formedness: an ill-formed command for each check -/

def longPayload : List Byte := List.replicate 49 0#8

theorem test_frame_dest_refused :
    (Instr.opsBadVerb { dest := 256, src := 121, kind := .order, tag := 1, verb := 1, payload := [] }).wellFormed = false := by
  decide
theorem test_frame_src_refused :
    (Instr.opsBadVerb { dest := 10, src := 256, kind := .order, tag := 1, verb := 1, payload := [] }).wellFormed = false := by
  decide
theorem test_frame_tag_refused :
    (Instr.opsBadVerb { dest := 10, src := 121, kind := .order, tag := 256, verb := 1, payload := [] }).wellFormed = false := by
  decide
theorem test_frame_verb_refused :
    (Instr.opsBadVerb { dest := 10, src := 121, kind := .order, tag := 1, verb := 256, payload := [] }).wellFormed = false := by
  decide
theorem test_frame_payload_refused :
    (Instr.opsBadVerb { dest := 10, src := 121, kind := .order, tag := 1, verb := 1, payload := longPayload }).wellFormed =
      false := by decide
theorem test_plant_order_refused :
    (Instr.opsTune { dest := 256, src := 121, tag := 1, payload := [] }).wellFormed = false ∧
    (Instr.opsTune { dest := 10, src := 256, tag := 1, payload := [] }).wellFormed = false ∧
    (Instr.opsTune { dest := 10, src := 121, tag := 256, payload := [] }).wellFormed = false ∧
    (Instr.opsTune { dest := 10, src := 121, tag := 1, payload := longPayload }).wellFormed = false := by decide
theorem test_own_order_refused :
    (Instr.pathSet { src := 256, tag := 1, payload := [] }).wellFormed = false ∧
    (Instr.pathSet { src := 121, tag := 256, payload := [] }).wellFormed = false ∧
    (Instr.pathSet { src := 121, tag := 1, payload := longPayload }).wellFormed = false := by decide
theorem test_plant_frame_refused :
    (Instr.driveStatus { dest := 256, src := 20, tag := 1, verb := 0, payload := [] }).wellFormed = false ∧
    (Instr.driveStatus { dest := 120, src := 256, tag := 1, verb := 0, payload := [] }).wellFormed = false ∧
    (Instr.driveStatus { dest := 120, src := 20, tag := 256, verb := 0, payload := [] }).wellFormed = false ∧
    (Instr.driveStatus { dest := 120, src := 20, tag := 1, verb := 256, payload := [] }).wellFormed = false ∧
    (Instr.driveStatus { dest := 120, src := 20, tag := 1, verb := 0, payload := longPayload }).wellFormed = false := by decide
theorem test_load_subverb_refused :
    (Instr.loadBadSubverb 256 { src := 121, tag := 1, payload := [] }).wellFormed = false ∧
    (Instr.loadBadSubverb 3 { src := 121, tag := 1, payload := [] }).wellFormed = false := by decide
theorem test_panel_input_refused :
    (Instr.panelInputEdge (.localKey 25) true).wellFormed = false ∧
    (Instr.panelInputEdge (.lockout 41) true).wellFormed = false := by decide
theorem test_numbers_refused :
    (Instr.movementLimitExpiry 5).wellFormed = false ∧ (Instr.pathSettleEnd 25).wellFormed = false ∧
    (Instr.lockoutOn 0).wellFormed = false ∧ (Instr.muteDeadline 17).wellFormed = false ∧
    (Instr.occurrenceEndPassed { bank := .a, id := 65536, day := 0 }).wellFormed = false ∧
    (Instr.returnEndReached { bank := .a, id := 0, day := 65536 }).wellFormed = false := by decide

/-- The table gives no row any bits: no word spells a command. -/
theorem test_no_word_spells_a_command : decodeTableWord 16 0xFFFF = none := by decide

/-! ## A small installation -/

def tx1 : TxStatic :=
  { station := 10, row := 1, maxPower := 500, tm := 5, tu := 4, ti := 20, tb := 90, inService := true }
/-- ROTATABLE: stop bearing 1800, margin 50, 15 tenths a second, settle 8 s, as antenna 12 of section 6.5. -/
def ant1 : AntStatic :=
  { kind := .rotatable, column := 1, drive := some 20, boresight := none, stopBearing := some 1800, margin := some 50,
    slewRate := some 15, settle := some 8, offsets := none, phasing := none }
def ant2 : AntStatic :=
  { kind := .steerable, column := 2, drive := some 21, boresight := some 900, stopBearing := none, margin := none,
    slewRate := none, settle := none, offsets := some [-100, 0, 100], phasing := some 5 }
def tables : Tables :=
  { tx := [(1, tx1)], ant := [(1, ant1), (2, ant2)],
    ratings := [(1, List.replicate 16 300), (2, List.replicate 16 300)],
    bands := [(3, { low := 9400, high := 9900 }), (5, { low := 15100, high := 15800 })], aux := [40],
    site := { geometry := some { rows := 2, cols := 2, station := 30 }, sx := 6, tolerance := 75, manualPriority := 8 } }

def off1 : TxDyn :=
  { carrier := .off, outstanding := false, outRestore := none, tune := .idle, tuneRestore := none, freq := some 9410,
    power := some 300, reportedLocal := false, owner := .none, running := none, interlockSent := false }
def on1 : TxDyn := { off1 with carrier := .on }
def still1 : AntDyn := { bearing := some 2700, steer := none, motion := .still, job := none }
def still2 : AntDyn := { bearing := none, steer := some 2, motion := .still, job := none }

def ref1 : Ref := { station := 121, tag := 5 }
def query1 : Queued :=
  { tag := 140, frame := { dest := 10, verb := .query, cls := .internal, origin := .gate .query } }

/-- In RUNNING, the plant transmitter, the store engine and the operations transmitter all occupied. -/
def base : Ctl :=
  { Ctl.reset with
    link := { Link.initial with plantTx := some query1, opsHeldOff := true }
    gate := { tx := [(1, off1)], held := [], powerSent := [] }
    aerial := [(1, still1), (2, still2)]
    site := { work := tables, unsaved := false, image1 := none, image2 := none }
    store := { Ctl.reset.store with op := some (.siteSave false tables 1 ref1), checked := true }
    start := { Ctl.reset.start with phase := .running } }

/-- A state with no command waiting. -/
def st (c : Ctl) : State := { ctl := c, pending := [] }
def calm : State := st base

def withTx (d : TxDyn) (c : Ctl) : Ctl := { c with gate := { c.gate with tx := [(1, d)] } }
def withPath (p : Path) (c : Ctl) : Ctl := { c with matrix := { c.matrix with paths := [p], nextPid := 2 } }
def withXp (row col : Nat) (x : Xp) (c : Ctl) : Ctl := setXp row col x c
def withPhase (p : Phase) (c : Ctl) : Ctl := { c with start := { c.start with phase := p } }
def withBankA (r : BankRec) (c : Ctl) : Ctl := { c with store := { c.store with bankA := r } }
def withOp (o : EngineOp) (c : Ctl) : Ctl := { c with store := { c.store with op := some o } }
def withTable (e : Entry) (c : Ctl) : Ctl := { c with link := { c.link with table := [e], reserved := 1 } }
def withTime (t : SiteTime) (c : Ctl) : Ctl := { c with plan := { c.plan with time := some t } }
def withEvent (v : Event) (c : Ctl) : Ctl := { c with plan := { c.plan with events := [v] } }
def withEdge (i : PanelInput) (level : Bool) (c : Ctl) : Ctl :=
  { c with panel := { cond := (Levels.off.set i (!level)), raw := (Levels.off.set i (!level)).set i level, edges := [(i, 7)] } }
def portFree (c : Ctl) : Ctl := { c with link := { c.link with plantTx := none } }

def opened : Xp := { state := .opened, closedContact := .notMade, openContact := .made, movement := none }
def closed : Xp := { state := .closed, closedContact := .made, openContact := .notMade, movement := none }

def path1 : Path :=
  { pid := 1, tx := 1, ant := 1, row := 1, col := 1, state := .proven, owner := .operations, stage := none, proof := .none,
    priority := 8, since := 3, reference := none, granted := false, settleFrom := 3, awaits := [] }

def move (slot : Nat) : Nat × Movement :=
  (slot, { req := { pid := 90, row := 2, col := 2, coil := .closeCoil, priority := 1, age := 0 }, stage := .driving,
           limit := 18000, started := some 4, before := .opened })
/-- All four movement slots are taken. -/
def slotsTaken (c : Ctl) : Ctl := { c with matrix := { c.matrix with slots := [move 1, move 2, move 3, move 4] } }

def own (p : List Byte) : OwnOrder := { src := 121, tag := 5, payload := p }
def plantTo (dest : Nat) (p : List Byte) : PlantOrder := { dest := dest, src := 126, tag := 127, payload := p }
def frame (dest verb : Nat) (kind : FrameKind) : Frame :=
  { dest := dest, src := 121, kind := kind, tag := 0, verb := verb, payload := [] }
def back (src verb : Nat) (p : List Byte) : PlantFrame :=
  { dest := 121, src := src, tag := 5, verb := verb, payload := p }

/-! ## Calm states, decided -/

theorem still_iff (c : Ctl) :
    Still c ↔ c.agenda = [] ∧ (c.link.opsTx.isSome || c.link.opsHeldOff) = true :=
  ⟨fun h => ⟨h.settled, h.opsTaken⟩, fun h => ⟨h.1, h.2⟩⟩

theorem quiet_iff (c : Ctl) :
    Quiet c ↔ (c.agenda = [] ∧ (c.link.opsTx.isSome || c.link.opsHeldOff) = true) ∧ c.link.opsInput = [] ∧
      c.link.plantTx.isSome = true ∧ c.link.urgentWaiters = [] ∧ c.link.internalWaiters = [] ∧ c.gate.held = [] ∧
      (∀ q ∈ c.link.plantQueue, q.frame.verb = .carrierOn → ∀ p ∈ c.site.work.tx, p.2.station = q.frame.dest →
        txLive c p.1 = true) ∧
      c.matrix.queue = [] ∧ c.matrix.waiting = [] ∧ c.load.state = .none ∧ c.store.op.isSome = true ∧
      c.plan.events = [] ∧ c.start.phase = .running ∧ c.hall.inForce = false :=
  ⟨fun h => ⟨(still_iff c).1 h.toStill, h.inputEmpty, h.portTaken, h.urgentEmpty, h.internalEmpty, h.heldEmpty, h.carriersLive, h.moveEmpty,
      h.moveWaitingEmpty, h.noBurst, h.engineTaken, h.planEmpty, h.running, h.noStop⟩,
    fun ⟨a, b, d, e, f, g, z, i, j, k, l, m, n, o⟩ =>
      { toStill := (still_iff c).2 a, inputEmpty := b, portTaken := d, urgentEmpty := e, internalEmpty := f,
        heldEmpty := g, carriersLive := z, moveEmpty := i, moveWaitingEmpty := j, noBurst := k, engineTaken := l, planEmpty := m,
        running := n, noStop := o }⟩

theorem calm_iff (c : Ctl) : Calm c ↔ Quiet c ∧ ∀ p ∈ c.cu, p.2.busy = false :=
  ⟨fun h => ⟨h.toQuiet, h.noContext⟩, fun h => { toQuiet := h.1, noContext := h.2 }⟩

theorem takes_iff (c : Ctl) (src tag : Nat) (p : List Byte) :
    Takes c src tag p ↔ 121 ≤ src ∧ src ≤ 126 ∧ tag < 128 ∧ p.length ≤ 48 ∧
      c.link.reserved + c.link.answers.length < 64 ∧ c.link.opsInput = [] :=
  ⟨fun h => ⟨h.low, h.high, h.tagOwn, h.short, h.place, h.first⟩, fun ⟨a, b, d, e, f, g⟩ => ⟨a, b, d, e, f, g⟩⟩

theorem room_iff (c : Ctl) : PortRoom c ↔ c.link.plantTx.isSome = true ∧ roomForPassed c.link = true :=
  ⟨fun h => ⟨h.taken, h.room⟩, fun h => ⟨h.1, h.2⟩⟩

theorem txReady_iff (c : Ctl) (dest n : Nat) (s : TxStatic) (d : TxDyn) :
    TxReady c dest n s d ↔ dest ≤ 119 ∧ stationClass c.site.work dest = some .transmitter ∧
      txOfStation c.site.work dest = some n ∧ txStatic c n = some s ∧ txDyn c n = some d ∧ c.start.phase = .running ∧
      localFlag c n d = false ∧ ownedByCtx d = false :=
  ⟨fun h => ⟨h.plant, h.known, h.here, h.static, h.dynamic, h.running, h.notLocal, h.notOwned⟩,
    fun ⟨a, b, e, f, g, i, j, k⟩ => ⟨a, b, e, f, g, i, j, k⟩⟩

theorem driveReady_iff (c : Ctl) (dest n : Nat) (s : AntStatic) (d : AntDyn) :
    DriveReady c dest n s d ↔ dest ≤ 119 ∧ stationClass c.site.work dest = some .drive ∧
      antOfDrive c.site.work dest = some n ∧ antStatic c n = some s ∧ antDyn c n = some d ∧ c.start.phase = .running :=
  ⟨fun h => ⟨h.plant, h.known, h.here, h.static, h.dynamic, h.running⟩, fun ⟨a, b, e, f, g, i⟩ => ⟨a, b, e, f, g, i⟩⟩

theorem idle_iff (s : Store) : EngineIdle s ↔ s.queue = [] ∧ s.activation = [] ∧ s.eraseJob = none :=
  ⟨fun h => ⟨h.queue, h.activation, h.job⟩, fun h => ⟨h.1, h.2.1, h.2.2⟩⟩

/-- A hypothesis about every value an option can be is decided by its value. -/
theorem some_all {α : Type} {o : Option α} {x : α} {p : α → Prop} (h : o = some x) (hx : p x) : ∀ v, o = some v → p v := by
  intro v hv
  rw [h] at hv
  exact Option.some.inj hv ▸ hx

theorem none_all {α : Type} {o : Option α} {p : α → Prop} (h : o = none) : ∀ v, o = some v → p v := by
  intro v hv
  rw [h] at hv
  cases hv

/-- A hypothesis about every entry of a table is decided entry by entry. -/
theorem tget_all {α : Type} {t : Table α} {p : α → Prop} (h : ∀ x ∈ t, p x.2) : ∀ n v, tget n t = some v → p v := by
  intro n v hv
  induction t with
  | nil => cases hv
  | cons x t ih =>
    obtain ⟨j, w⟩ := x
    by_cases hj : j = n
    · simp only [tget, hj, if_true] at hv
      exact Option.some.inj hv ▸ h (j, w) (by simp)
    · simp only [tget, hj, if_false] at hv
      exact ih (fun y hy => h y (by simp [hy])) hv

/-! ## Worked figures of the specification -/

/-- Entry, slot and bank for the figures of section 6.5. -/
def entry (id tx freq ant : Nat) (bearing : Option Nat) (start duration priority : Nat) : EntryRec :=
  { id := id, days := 127, start := start, duration := duration, validFrom := none, validTo := none, tx := tx,
    freq := freq, ant := ant, bearing := bearing, power := 250, feed := 1, priority := priority, spare := 0 }
def slot (e : EntryRec) : Slot := { content := .record e, burst := 0, written := true, voidMark := false, workVoid := false }
def bankOf (state : BankState) (l : List EntryRec) : BankRec :=
  { BankRec.blank with
    header := { season := some 7, epoch := some 0, state := state, commits := [] }
    pages := if l = [] then [] else [(1, { cond := .inUse, failures := 0, eraseMark := true, allVoid := false })]
    slots := (List.range l.length).map (fun i => (i, slot (l.getD i (entry 0 0 0 0 none 0 0 0)))) }

/-- Section 6.5, case 1: from 9410 kHz and antenna 7 to 15160 kHz and antenna 12 with Topen, Sx 6 and a turn of 2400. -/
theorem test_stages_of_case_1 :
    retuneStage tables tx1 (some 9410) 15160 = 90 ∧ positionStage ant1 (.bearing 2700) (.bearing 1500) = 168 ∧
    switchStage 6 (some 7) true true 12 = (6, 6) := by decide
/-- Section 6.5, case 2 and the first and third lines of case 4. -/
theorem test_stages_of_cases_2_and_4 :
    positionStage ant1 (.bearing 2700) (.bearing 450) = 98 ∧ positionStage ant1 (.bearing 2700) (.bearing 2700) = 0 ∧
    positionStage ant1 .none (.bearing 1500) = 242 := by decide
/-- A START of the plan that only stands for its occurrence. -/
def planned (id tx : Nat) (time : SiteTime) : Event :=
  { kind := .start, occ := { bank := .a, id := id, day := 1 }, tx := tx, priority := 5, time := time, occStart := time,
    occEnd := time,
    lead := 0, begin_ := time, rf := time, leadClamped := false, late := false, masked := false, wait := none,
    absorbed := none, returnEnd := none }
/-- Section 6.5, case 1: on day 1 transmitter 1 stands for transmitter 8, antennas 1 and 2 for 12 and 7. The lead is 183, the
fence 13:58:00 and the predicted RF time 14:01:03. -/
theorem test_figures_of_case_1 :
    let c := withBankA (bankOf .active
      [entry 1 1 9410 2 (some 900) 778 60 5, entry 2 3 15160 1 (some 2700) 750 60 5]) base
    figuresOf { c with plan := { c.plan with events := [planned 1 1 0, planned 2 3 0] } } tx1 ant1
        (entry 3 1 15160 1 (some 1500) 840 60 6) (.bearing 1500) (86400 + 14 * 3600) (86400 + 13 * 3600) =
      { lead := 183, clampedFrom := none, begin_ := 86400 + 13 * 3600 + 58 * 60, rf := 86400 + 14 * 3600 + 63,
        late := false } := by
  decide +kernel
/-- Section 4.12: base indices. -/
theorem test_base_indices : xpBase 10 3 = 724 ∧ xpBase 14 25 = 1088 ∧ xpBase 10 25 = 768 := by decide

/-! ## Statements about the machine -/

theorem witness_IdleStepPassesAMillisecond :
    State.reset.pending = [] := by
  decide +kernel

/-! ## Codings -/

def wideFrame : Frame :=
  { dest := 255, src := 255, kind := .load, tag := 255, verb := 255, payload := List.replicate 48 255#8 }

theorem witness_FrameSurvivesTheLink :
    wideFrame.fits = true := by
  decide +kernel

def wideEntry : EntryRec :=
  { id := 65535, days := 127, start := 65535, duration := 65535, validFrom := some 65534, validTo := none, tx := 255,
    freq := 65535, ant := 255, bearing := some 65534, power := 65535, feed := 255, priority := 255, spare := 255 }

theorem witness_RecordsAndVerbsSurviveTheirOctets_entry :
    (wideEntry.id < 65536 ∧
    wideEntry.days < 128 ∧
    wideEntry.start < 65536 ∧
    wideEntry.duration < 65536 ∧
    wideEntry.tx < 256 ∧
    wideEntry.freq < 65536 ∧
    wideEntry.ant < 256 ∧
    wideEntry.power < 65536 ∧
    wideEntry.feed < 256 ∧
    wideEntry.priority < 256) ∧
    (∀ v, wideEntry.validFrom = some v → v < 65535) ∧
    (∀ v, wideEntry.validTo = some v → v < 65535) ∧
    (∀ v, wideEntry.bearing = some v → v < 65535) := by
  refine ⟨?_, some_all rfl (by decide), none_all rfl, some_all rfl (by decide)⟩
  decide +kernel

theorem witness_RecordsAndVerbsSurviveTheirOctets_ratings :
    (firstFailed (recordChecks tables 1 (.ratings (List.replicate 16 999))) = none) ∧
    (∀ l, SiteRec.ratings (List.replicate 16 999) = .ratings l → l.length = 16) := by
  refine ⟨?_, (by intro l h; cases h; decide)⟩
  decide +kernel

theorem witness_RecordsAndVerbsSurviveTheirOctets_antenna :
    (firstFailed (recordChecks tables 1 (.antenna ant2)) = none) ∧
    (∀ l, SiteRec.antenna ant2 = .ratings l → l.length = 16) := by
  refine ⟨?_, (by intro l h; cases h)⟩
  decide +kernel

theorem witness_RecordsAndVerbsSurviveTheirOctets_power :
    65535 < 65536 := by
  decide +kernel

theorem witness_RecordsAndVerbsSurviveTheirOctets_steer :
    255 < 256 := by
  decide +kernel

/-! ## The two ports -/

/-- A frame with one field that its port discards. -/
def strange (dest src tag : Nat) (kind : FrameKind) : Frame :=
  { dest := dest, src := src, kind := kind, tag := tag, verb := 1, payload := [] }

theorem witness_DiscardedFramesChangeNothing_no_frame :
    Still calm.ctl ∧
    parseFrame [1#8, 2#8] = none := by
  simp only [still_iff]
  decide +kernel

theorem witness_DiscardedFramesChangeNothing_low_source :
    Still calm.ctl ∧
    parseFrame (frameOctets (strange 10 120 0 .order)) = some (strange 10 120 0 .order) ∧
    (strange 10 120 0 .order).src < 121 := by
  simp only [still_iff]
  decide +kernel

theorem witness_DiscardedFramesChangeNothing_high_source :
    Still calm.ctl ∧
    parseFrame (frameOctets (strange 10 127 0 .order)) = some (strange 10 127 0 .order) ∧
    126 < (strange 10 127 0 .order).src := by
  simp only [still_iff]
  decide +kernel

theorem witness_DiscardedFramesChangeNothing_part_tag :
    Still calm.ctl ∧
    parseFrame (frameOctets (strange 10 121 128 .order)) = some (strange 10 121 128 .order) ∧
    128 ≤ (strange 10 121 128 .order).tag := by
  simp only [still_iff]
  decide +kernel

theorem witness_DiscardedFramesChangeNothing_answer :
    Still calm.ctl ∧
    parseFrame (frameOctets (strange 10 121 0 .answer)) = some (strange 10 121 0 .answer) ∧
    (strange 10 121 0 .answer).kind = .answer := by
  simp only [still_iff]
  decide +kernel

theorem witness_DiscardedFramesChangeNothing_status :
    Still calm.ctl ∧
    parseFrame (frameOctets (strange 10 121 0 .status)) = some (strange 10 121 0 .status) ∧
    (strange 10 121 0 .status).kind = .status := by
  simp only [still_iff]
  decide +kernel

theorem witness_DiscardedFramesChangeNothing_report :
    Still calm.ctl ∧
    parseFrame (frameOctets (strange 10 121 0 .report)) = some (strange 10 121 0 .report) ∧
    (strange 10 121 0 .report).kind = .report := by
  simp only [still_iff]
  decide +kernel

theorem witness_DiscardedFramesChangeNothing_load :
    Still calm.ctl ∧
    parseFrame (frameOctets (strange 119 121 0 .load)) = some (strange 119 121 0 .load) ∧
    ((strange 119 121 0 .load).kind = .load ∧ (strange 119 121 0 .load).dest ≠ 120) := by
  simp only [still_iff]
  decide +kernel

theorem witness_DiscardedFramesChangeNothing_plant_kind :
    Still calm.ctl ∧
    parseFrame (frameOctets (strange 120 20 0 .order)) = some (strange 120 20 0 .order) ∧
    ((strange 120 20 0 .order).kind ≠ .answer ∧ (strange 120 20 0 .order).kind ≠ .status) := by
  simp only [still_iff]
  decide +kernel

theorem witness_DiscardedFramesChangeNothing_plant_source :
    Still calm.ctl ∧
    parseFrame (frameOctets (strange 120 119 0 .status)) = some (strange 120 119 0 .status) ∧
    stationClass calm.ctl.site.work (strange 120 119 0 .status).src = none := by
  simp only [still_iff]
  decide +kernel

def answer1 : Answer := ownAnswer 121 5 32 1 0 []
def report1 : Report := reportNow base .startupDone .none 0 1 none none
def opsBusy (x : Option OpsTx) (answers : List Answer) (reports : List Report) (flow : Option Flow) : Ctl :=
  { base with
    link := { base.link with opsTx := x, answers := answers, reports := reports }
    load := { base.load with flow := flow } }

def state2 : State := st (opsBusy none [] [] none)
theorem witness_OperationsTransmitterSends_held_off :
    state2.ctl.agenda = [] := by
  decide +kernel

def state3 : State := st (opsBusy none [answer1] [report1] (some .pause))
theorem witness_OperationsTransmitterSends_ready_flow :
    state3.ctl.agenda = [] ∧
    state3.ctl.link.opsTx = none := by
  decide +kernel

def state4 : State := st (opsBusy none [answer1] [report1] none)
theorem witness_OperationsTransmitterSends_ready_answer :
    state4.ctl.agenda = [] ∧
    state4.ctl.link.opsTx = none := by
  decide +kernel

def state5 : State := st (opsBusy none [] [report1, report1] none)
theorem witness_OperationsTransmitterSends_ready_report :
    state5.ctl.agenda = [] ∧
    state5.ctl.link.opsTx = none := by
  decide +kernel

theorem witness_OperationsTransmitterSends_ready_nothing :
    state2.ctl.agenda = [] ∧
    state2.ctl.link.opsTx = none := by
  decide +kernel

def state6 : State := st (opsBusy (some (.answer answer1)) [answer1] [report1] none)
theorem witness_OperationsTransmitterSends_ready_sending :
    state6.ctl.agenda = [] ∧
    state6.ctl.link.opsTx.isSome = true := by
  decide +kernel

def state7 : State := st (opsBusy none [answer1] [] none)
theorem witness_OperationsTransmitterSends_nothing_sent :
    state7.ctl.agenda = [] ∧
    state7.ctl.link.opsTx = none ∧
    state7.ctl.link.opsHeldOff = true := by
  decide +kernel

def state8 : State := st (opsBusy (some (.answer answer1)) [answer1, { answer1 with verb := 33 }] [report1] none)
theorem witness_OperationsTransmitterSends_answer_sent_held :
    state8.ctl.agenda = [] ∧
    state8.ctl.link.opsInput = [] ∧
    state8.ctl.link.opsTx = some (.answer answer1) ∧
    state8.ctl.link.answers = answer1 :: [{ answer1 with verb := 33 }] ∧
    state8.ctl.link.opsHeldOff = true := by
  decide +kernel

def state9 : State := st (opsBusy (some (.report report1)) [] [{ report1 with sending := true }, report1] none)
theorem witness_OperationsTransmitterSends_report_sent_held :
    state9.ctl.agenda = [] ∧
    state9.ctl.link.opsInput = [] ∧
    state9.ctl.link.opsTx = some (.report report1) ∧
    state9.ctl.link.reports = { report1 with sending := true } :: [report1] ∧
    state9.ctl.link.opsHeldOff = true := by
  decide +kernel

def state10 : State := st (opsBusy (some (.flow .resume 121 5)) [] [] (some .pause))
theorem witness_OperationsTransmitterSends_flow_sent_held :
    state10.ctl.agenda = [] ∧
    state10.ctl.link.opsInput = [] ∧
    state10.ctl.link.opsTx = some (.flow .resume 121 5) ∧
    state10.ctl.link.opsHeldOff = true := by
  decide +kernel

def state11 : State := st ({ opsBusy (some (.answer answer1)) [answer1, { answer1 with verb := 33 }] [report1] none with link := { (opsBusy (some (.answer answer1)) [answer1, { answer1 with verb := 33 }] [report1] none).link with opsHeldOff := false } })
theorem witness_OperationsTransmitterSends_answer_sent_next :
    state11.ctl.agenda = [] ∧
    state11.ctl.link.opsInput = [] ∧
    state11.ctl.link.opsTx = some (.answer answer1) ∧
    state11.ctl.link.answers = answer1 :: [{ answer1 with verb := 33 }] ∧
    state11.ctl.link.opsHeldOff = false := by
  decide +kernel

def state12 : State := st ({ opsBusy (some (.report report1)) [] [{ report1 with sending := true }, report1] none with link := { (opsBusy (some (.report report1)) [] [{ report1 with sending := true }, report1] none).link with opsHeldOff := false } })
theorem witness_OperationsTransmitterSends_report_sent_next :
    state12.ctl.agenda = [] ∧
    state12.ctl.link.opsInput = [] ∧
    state12.ctl.link.opsTx = some (.report report1) ∧
    state12.ctl.link.reports = { report1 with sending := true } :: [report1] ∧
    state12.ctl.link.opsHeldOff = false := by
  decide +kernel

def state13 : State := st ({ opsBusy (some (.flow .resume 121 5)) [] [] (some .pause) with link := { (opsBusy (some (.flow .resume 121 5)) [] [] (some .pause)).link with opsHeldOff := false } })
theorem witness_OperationsTransmitterSends_flow_sent_next :
    state13.ctl.agenda = [] ∧
    state13.ctl.link.opsInput = [] ∧
    state13.ctl.link.opsTx = some (.flow .resume 121 5) ∧
    state13.ctl.link.opsHeldOff = false := by
  decide +kernel

theorem witness_UnroutableFramesAreRefused_zero :
    Still calm.ctl ∧
    Takes calm.ctl (frame 0 1 .order).src (frame 0 1 .order).tag (frame 0 1 .order).payload ∧
    ((frame 0 1 .order).kind = .order ∨ (frame 0 1 .order).kind = .latch) ∧
    (frame 0 1 .order).dest = 0 ∧
    stationClass calm.ctl.site.work (frame 0 1 .order).dest = none := by
  simp only [still_iff, takes_iff]
  decide +kernel

theorem witness_UnroutableFramesAreRefused_all_ones :
    Still calm.ctl ∧
    Takes calm.ctl (frame 127 1 .latch).src (frame 127 1 .latch).tag (frame 127 1 .latch).payload ∧
    ((frame 127 1 .latch).kind = .order ∨ (frame 127 1 .latch).kind = .latch) ∧
    (frame 127 1 .latch).dest = 127 ∧
    stationClass calm.ctl.site.work (frame 127 1 .latch).dest = none := by
  simp only [still_iff, takes_iff]
  decide +kernel

theorem witness_UnroutableFramesAreRefused_unknown :
    Still calm.ctl ∧
    Takes calm.ctl (frame 119 1 .order).src (frame 119 1 .order).tag (frame 119 1 .order).payload ∧
    ((frame 119 1 .order).kind = .order ∨ (frame 119 1 .order).kind = .latch) ∧
    (frame 119 1 .order).dest ≤ 119 ∧
    stationClass calm.ctl.site.work (frame 119 1 .order).dest = none := by
  simp only [still_iff, takes_iff]
  decide +kernel

theorem witness_UnroutableFramesAreRefused_low_console :
    Still calm.ctl ∧
    Takes calm.ctl (frame 121 1 .order).src (frame 121 1 .order).tag (frame 121 1 .order).payload ∧
    ((frame 121 1 .order).kind = .order ∨ (frame 121 1 .order).kind = .latch) ∧
    (121 ≤ (frame 121 1 .order).dest ∧ (frame 121 1 .order).dest ≤ 126) := by
  simp only [still_iff, takes_iff]
  decide +kernel

theorem witness_UnroutableFramesAreRefused_high_console :
    Still calm.ctl ∧
    Takes calm.ctl (frame 126 1 .order).src (frame 126 1 .order).tag (frame 126 1 .order).payload ∧
    ((frame 126 1 .order).kind = .order ∨ (frame 126 1 .order).kind = .latch) ∧
    (121 ≤ (frame 126 1 .order).dest ∧ (frame 126 1 .order).dest ≤ 126) := by
  simp only [still_iff, takes_iff]
  decide +kernel

theorem witness_UnroutableFramesAreRefused_own_low :
    Still calm.ctl ∧
    Takes calm.ctl (frame 120 31 .order).src (frame 120 31 .order).tag (frame 120 31 .order).payload ∧
    ((frame 120 31 .order).kind = .order ∨ (frame 120 31 .order).kind = .latch) ∧
    ((frame 120 31 .order).dest = 120 ∧ ((frame 120 31 .order).kind = .latch ∨ (frame 120 31 .order).verb < 32 ∨ 56 < (frame 120 31 .order).verb)) := by
  simp only [still_iff, takes_iff]
  decide +kernel

theorem witness_UnroutableFramesAreRefused_own_high :
    Still calm.ctl ∧
    Takes calm.ctl (frame 120 57 .order).src (frame 120 57 .order).tag (frame 120 57 .order).payload ∧
    ((frame 120 57 .order).kind = .order ∨ (frame 120 57 .order).kind = .latch) ∧
    ((frame 120 57 .order).dest = 120 ∧ ((frame 120 57 .order).kind = .latch ∨ (frame 120 57 .order).verb < 32 ∨ 56 < (frame 120 57 .order).verb)) := by
  simp only [still_iff, takes_iff]
  decide +kernel

theorem witness_UnroutableFramesAreRefused_transmitter :
    Still calm.ctl ∧
    Takes calm.ctl (frame 10 7 .order).src (frame 10 7 .order).tag (frame 10 7 .order).payload ∧
    ((frame 10 7 .order).kind = .order ∨ (frame 10 7 .order).kind = .latch) ∧
    ((frame 10 7 .order).dest ≤ 119 ∧ stationClass calm.ctl.site.work (frame 10 7 .order).dest = some .transmitter ∧ ((frame 10 7 .order).kind = .latch ∨ (frame 10 7 .order).verb < 1 ∨ 6 < (frame 10 7 .order).verb)) := by
  simp only [still_iff, takes_iff]
  decide +kernel

theorem witness_UnroutableFramesAreRefused_drive :
    Still calm.ctl ∧
    Takes calm.ctl (frame 20 5 .order).src (frame 20 5 .order).tag (frame 20 5 .order).payload ∧
    ((frame 20 5 .order).kind = .order ∨ (frame 20 5 .order).kind = .latch) ∧
    ((frame 20 5 .order).dest ≤ 119 ∧ stationClass calm.ctl.site.work (frame 20 5 .order).dest = some .drive ∧ ((frame 20 5 .order).kind = .latch ∨ (frame 20 5 .order).verb < 6 ∨ 9 < (frame 20 5 .order).verb)) := by
  simp only [still_iff, takes_iff]
  decide +kernel

def state14 : State := st (withPhase .survey base)
theorem witness_UnroutableFramesAreRefused_matrix :
    Still state14.ctl ∧
    Takes state14.ctl (frame 30 1 .latch).src (frame 30 1 .latch).tag (frame 30 1 .latch).payload ∧
    ((frame 30 1 .latch).kind = .order ∨ (frame 30 1 .latch).kind = .latch) ∧
    (frame 30 1 .latch).dest ≤ 119 ∧
    stationClass state14.ctl.site.work (frame 30 1 .latch).dest = some .matrix := by
  simp only [still_iff, takes_iff]
  decide +kernel

/-! ## The Traffic Gate -/

theorem witness_GateRefusalsAreAnswered_transmitter :
    Still state14.ctl ∧
    Takes state14.ctl (plantTo 10 [1#8, 0#8]).src (plantTo 10 [1#8, 0#8]).tag (plantTo 10 [1#8, 0#8]).payload ∧
    (plantTo 10 [1#8, 0#8]).dest ≤ 119 ∧
    (1, Instr.opsTune (plantTo 10 [1#8, 0#8])) ∈ transmitterRows (plantTo 10 [1#8, 0#8]) ∧
    stationClass state14.ctl.site.work (plantTo 10 [1#8, 0#8]).dest = some .transmitter ∧
    gateVerdict (gateFrame (plantTo 10 [1#8, 0#8]) (parseTransmitterVerb 1 (plantTo 10 [1#8, 0#8]).payload)) state14.ctl = .refuse .survey := by
  simp only [still_iff, takes_iff]
  decide +kernel

theorem witness_GateRefusalsAreAnswered_drive :
    Still calm.ctl ∧
    Takes calm.ctl (plantTo 20 [7#8, 57#8]).src (plantTo 20 [7#8, 57#8]).tag (plantTo 20 [7#8, 57#8]).payload ∧
    (plantTo 20 [7#8, 57#8]).dest ≤ 119 ∧
    (7, Instr.opsSlew (plantTo 20 [7#8, 57#8])) ∈ driveRows (plantTo 20 [7#8, 57#8]) ∧
    stationClass calm.ctl.site.work (plantTo 20 [7#8, 57#8]).dest = some .drive ∧
    gateVerdict (gateFrame (plantTo 20 [7#8, 57#8]) (parseDriveVerb 7 (plantTo 20 [7#8, 57#8]).payload)) calm.ctl = .refuse .outOfTravel := by
  simp only [still_iff, takes_iff]
  decide +kernel

theorem witness_TransmitterChecksComeInOrder_survey :
    (stationClass (withPhase .adopt base).site.work (({ dest := 10, verb := .carrierOn, cls := .passed, origin := .hallStop } : PFrame)).dest = some .transmitter ∧
    txOfStation (withPhase .adopt base).site.work (({ dest := 10, verb := .carrierOn, cls := .passed, origin := .hallStop } : PFrame)).dest = some 1 ∧
    txStatic (withPhase .adopt base) 1 = some tx1 ∧
    txDyn (withPhase .adopt base) 1 = some (off1) ∧
    ({ dest := 10, verb := .carrierOn, cls := .passed, origin := .hallStop } : PFrame).verb.code ≠ 4 ∧
    (withPhase .adopt base).start.phase ≠ .running) ∧
    ((({ dest := 10, verb := .carrierOn, cls := .passed, origin := .hallStop } : PFrame)).verb = .query → ownOrigin (({ dest := 10, verb := .carrierOn, cls := .passed, origin := .hallStop } : PFrame)).origin = false) := by
  refine ⟨?_, (by decide)⟩
  decide +kernel

theorem witness_TransmitterChecksComeInOrder_local_ops :
    (stationClass (withTx { off1 with reportedLocal := true } base).site.work (({ dest := 10, verb := .feed 1, cls := .passed, origin := .ops 121 0 } : PFrame)).dest = some .transmitter ∧
    txOfStation (withTx { off1 with reportedLocal := true } base).site.work (({ dest := 10, verb := .feed 1, cls := .passed, origin := .ops 121 0 } : PFrame)).dest = some 1 ∧
    txStatic (withTx { off1 with reportedLocal := true } base) 1 = some tx1 ∧
    txDyn (withTx { off1 with reportedLocal := true } base) 1 = some ({ off1 with reportedLocal := true }) ∧
    ({ dest := 10, verb := .feed 1, cls := .passed, origin := .ops 121 0 } : PFrame).verb.code ≠ 4 ∧
    (withTx { off1 with reportedLocal := true } base).start.phase = .running ∧
    localFlag (withTx { off1 with reportedLocal := true } base) 1 { off1 with reportedLocal := true } = true) ∧
    ((({ dest := 10, verb := .feed 1, cls := .passed, origin := .ops 121 0 } : PFrame)).verb = .query → ownOrigin (({ dest := 10, verb := .feed 1, cls := .passed, origin := .ops 121 0 } : PFrame)).origin = false) := by
  refine ⟨?_, (by decide)⟩
  decide +kernel

theorem witness_TransmitterChecksComeInOrder_local_ctx :
    (stationClass (withTx { off1 with reportedLocal := true } base).site.work (({ dest := 10, verb := .feed 1, cls := .passed, origin := .ctx 1 { occ := { bank := .a, id := 1, day := 1 }, isEnd := false } } : PFrame)).dest = some .transmitter ∧
    txOfStation (withTx { off1 with reportedLocal := true } base).site.work (({ dest := 10, verb := .feed 1, cls := .passed, origin := .ctx 1 { occ := { bank := .a, id := 1, day := 1 }, isEnd := false } } : PFrame)).dest = some 1 ∧
    txStatic (withTx { off1 with reportedLocal := true } base) 1 = some tx1 ∧
    txDyn (withTx { off1 with reportedLocal := true } base) 1 = some ({ off1 with reportedLocal := true }) ∧
    ({ dest := 10, verb := .feed 1, cls := .passed, origin := .ctx 1 { occ := { bank := .a, id := 1, day := 1 }, isEnd := false } } : PFrame).verb.code ≠ 4 ∧
    (withTx { off1 with reportedLocal := true } base).start.phase = .running ∧
    localFlag (withTx { off1 with reportedLocal := true } base) 1 { off1 with reportedLocal := true } = true) ∧
    ((({ dest := 10, verb := .feed 1, cls := .passed, origin := .ctx 1 { occ := { bank := .a, id := 1, day := 1 }, isEnd := false } } : PFrame)).verb = .query → ownOrigin (({ dest := 10, verb := .feed 1, cls := .passed, origin := .ctx 1 { occ := { bank := .a, id := 1, day := 1 }, isEnd := false } } : PFrame)).origin = false) := by
  refine ⟨?_, (by decide)⟩
  decide +kernel

theorem witness_TransmitterChecksComeInOrder_local_query :
    (stationClass (withTx { off1 with reportedLocal := true } base).site.work (({ dest := 10, verb := .query, cls := .passed, origin := .ops 126 127 } : PFrame)).dest = some .transmitter ∧
    txOfStation (withTx { off1 with reportedLocal := true } base).site.work (({ dest := 10, verb := .query, cls := .passed, origin := .ops 126 127 } : PFrame)).dest = some 1 ∧
    txStatic (withTx { off1 with reportedLocal := true } base) 1 = some tx1 ∧
    txDyn (withTx { off1 with reportedLocal := true } base) 1 = some ({ off1 with reportedLocal := true }) ∧
    ({ dest := 10, verb := .query, cls := .passed, origin := .ops 126 127 } : PFrame).verb.code ≠ 4 ∧
    (withTx { off1 with reportedLocal := true } base).start.phase = .running ∧
    localFlag (withTx { off1 with reportedLocal := true } base) 1 { off1 with reportedLocal := true } = true) ∧
    ((({ dest := 10, verb := .query, cls := .passed, origin := .ops 126 127 } : PFrame)).verb = .query → ownOrigin (({ dest := 10, verb := .query, cls := .passed, origin := .ops 126 127 } : PFrame)).origin = false) := by
  refine ⟨?_, (by decide)⟩
  decide +kernel

theorem witness_TransmitterChecksComeInOrder_own_query :
    stationClass (withTx { off1 with reportedLocal := true } base).site.work (({ dest := 10, verb := .query, cls := .passed, origin := .survey } : PFrame)).dest = some .transmitter ∧
    txOfStation (withTx { off1 with reportedLocal := true } base).site.work (({ dest := 10, verb := .query, cls := .passed, origin := .survey } : PFrame)).dest = some 1 ∧
    txStatic (withTx { off1 with reportedLocal := true } base) 1 = some tx1 ∧
    txDyn (withTx { off1 with reportedLocal := true } base) 1 = some ({ off1 with reportedLocal := true }) ∧
    ({ dest := 10, verb := .query, cls := .passed, origin := .survey } : PFrame).verb = .query ∧
    ownOrigin ({ dest := 10, verb := .query, cls := .passed, origin := .survey } : PFrame).origin = true := by
  decide +kernel

theorem witness_TransmitterChecksComeInOrder_local_carrier_off :
    stationClass (withTx { off1 with reportedLocal := true } base).site.work (({ dest := 10, verb := .carrierOff, cls := .passed, origin := .gate .interlock } : PFrame)).dest = some .transmitter ∧
    txOfStation (withTx { off1 with reportedLocal := true } base).site.work (({ dest := 10, verb := .carrierOff, cls := .passed, origin := .gate .interlock } : PFrame)).dest = some 1 ∧
    txStatic (withTx { off1 with reportedLocal := true } base) 1 = some tx1 ∧
    txDyn (withTx { off1 with reportedLocal := true } base) 1 = some ({ off1 with reportedLocal := true }) ∧
    ({ dest := 10, verb := .carrierOff, cls := .passed, origin := .gate .interlock } : PFrame).verb = .carrierOff := by
  decide +kernel

theorem witness_TransmitterChecksComeInOrder_owned :
    (stationClass (withTx { off1 with owner := .ctx 16 } base).site.work (({ dest := 10, verb := .carrierOn, cls := .passed, origin := .ops 126 127 } : PFrame)).dest = some .transmitter ∧
    txOfStation (withTx { off1 with owner := .ctx 16 } base).site.work (({ dest := 10, verb := .carrierOn, cls := .passed, origin := .ops 126 127 } : PFrame)).dest = some 1 ∧
    txStatic (withTx { off1 with owner := .ctx 16 } base) 1 = some tx1 ∧
    txDyn (withTx { off1 with owner := .ctx 16 } base) 1 = some ({ off1 with owner := .ctx 16 }) ∧
    ({ dest := 10, verb := .carrierOn, cls := .passed, origin := .ops 126 127 } : PFrame).verb.code ≠ 4 ∧
    (withTx { off1 with owner := .ctx 16 } base).start.phase = .running ∧
    localFlag (withTx { off1 with owner := .ctx 16 } base) 1 { off1 with owner := .ctx 16 } = false ∧
    ({ dest := 10, verb := .carrierOn, cls := .passed, origin := .ops 126 127 } : PFrame).verb.code ≤ 3 ∧
    ({ off1 with owner := .ctx 16 } : TxDyn).owner = .ctx 16 ∧
    ({ dest := 10, verb := .carrierOn, cls := .passed, origin := .ops 126 127 } : PFrame).origin = .ops 126 127) ∧
    ((({ dest := 10, verb := .carrierOn, cls := .passed, origin := .ops 126 127 } : PFrame)).verb = .query → ownOrigin (({ dest := 10, verb := .carrierOn, cls := .passed, origin := .ops 126 127 } : PFrame)).origin = false) := by
  refine ⟨?_, (by decide)⟩
  decide +kernel

theorem witness_CarrierOnNeedsAProvenRatedPath :
    stationClass (withPath path1 base).site.work (gateFrame (plantTo 10 []) .carrierOn).dest = some .transmitter ∧
    (gateFrame (plantTo 10 []) .carrierOn).verb = .carrierOn ∧
    gateVerdict (gateFrame (plantTo 10 []) .carrierOn) (withPath path1 base) = .pass .carrierOn none := by
  decide +kernel

theorem witness_NoAntennaMovesWhileLive_slew :
    stationClass (withPath path1 base).site.work (gateFrame (plantTo 20 []) (.slew 1850)).dest = some .drive ∧
    gateVerdict (gateFrame (plantTo 20 []) (.slew 1850)) (withPath path1 base) = .pass (.slew 1850) none ∧
    (gateFrame (plantTo 20 []) (.slew 1850)).verb = .slew 1850 := by
  decide +kernel

theorem witness_NoAntennaMovesWhileLive_steer :
    stationClass (withPath path1 base).site.work (gateFrame (plantTo 21 []) (.steer 3)).dest = some .drive ∧
    gateVerdict (gateFrame (plantTo 21 []) (.steer 3)) (withPath path1 base) = .pass (.steer 3) none ∧
    (gateFrame (plantTo 21 []) (.steer 3)).verb = .steer 3 := by
  decide +kernel

theorem witness_PlainOrdersJoinThePlantQueue_feed_1 :
    Still calm.ctl ∧
    Takes calm.ctl (plantTo 10 [1#8]).src (plantTo 10 [1#8]).tag (plantTo 10 [1#8]).payload ∧
    PortRoom calm.ctl ∧
    TxReady calm.ctl (plantTo 10 [1#8]).dest 1 tx1 (off1) ∧
    1 ≤ 1 ∧
    1 ≤ 32 ∧
    (plantTo 10 [1#8]).payload = [BitVec.ofNat 8 1] := by
  simp only [still_iff, takes_iff, room_iff, txReady_iff]
  decide +kernel

theorem witness_PlainOrdersJoinThePlantQueue_feed_32 :
    Still calm.ctl ∧
    Takes calm.ctl (plantTo 10 [32#8]).src (plantTo 10 [32#8]).tag (plantTo 10 [32#8]).payload ∧
    PortRoom calm.ctl ∧
    TxReady calm.ctl (plantTo 10 [32#8]).dest 1 tx1 (off1) ∧
    1 ≤ 32 ∧
    32 ≤ 32 ∧
    (plantTo 10 [32#8]).payload = [BitVec.ofNat 8 32] := by
  simp only [still_iff, takes_iff, room_iff, txReady_iff]
  decide +kernel

theorem witness_PlainOrdersJoinThePlantQueue_query :
    Still calm.ctl ∧
    Takes calm.ctl (plantTo 10 []).src (plantTo 10 []).tag (plantTo 10 []).payload ∧
    PortRoom calm.ctl ∧
    TxReady calm.ctl (plantTo 10 []).dest 1 tx1 (off1) ∧
    (plantTo 10 []).payload = [] := by
  simp only [still_iff, takes_iff, room_iff, txReady_iff]
  decide +kernel

theorem witness_PlainOrdersJoinThePlantQueue_query_drive :
    Still calm.ctl ∧
    Takes calm.ctl (plantTo 20 []).src (plantTo 20 []).tag (plantTo 20 []).payload ∧
    PortRoom calm.ctl ∧
    DriveReady calm.ctl (plantTo 20 []).dest 1 ant1 (still1) ∧
    (plantTo 20 []).payload = [] := by
  simp only [still_iff, takes_iff, room_iff, driveReady_iff]
  decide +kernel

def state15 : State := st (withPhase .storeCheck base)
theorem witness_PlainOrdersJoinThePlantQueue_stop :
    (Still state15.ctl ∧
    Takes state15.ctl (plantTo 20 []).src (plantTo 20 []).tag (plantTo 20 []).payload ∧
    PortRoom state15.ctl ∧
    (plantTo 20 []).dest ≤ 119 ∧
    stationClass state15.ctl.site.work (plantTo 20 []).dest = some .drive ∧
    antOfDrive state15.ctl.site.work (plantTo 20 []).dest = some 1 ∧
    antStatic state15.ctl 1 = some ant1 ∧
    antDyn state15.ctl 1 = some still1 ∧
    tableRising state15.ctl.aerial = true ∧
    (plantTo 20 []).payload = []) ∧
    (∀ j ref, still1.job = some j → j.requester ≠ .operations ref) := by
  refine ⟨?_, (by intro j ref h; cases h)⟩
  simp only [still_iff, takes_iff, room_iff]
  decide +kernel

theorem witness_PlainOrdersJoinThePlantQueue_auxiliary :
    Still state15.ctl ∧
    Takes state15.ctl (plantTo 40 [7#8]).src (plantTo 40 [7#8]).tag (plantTo 40 [7#8]).payload ∧
    PortRoom state15.ctl ∧
    (FrameKind.latch = .order ∨ FrameKind.latch = .latch) ∧
    (plantTo 40 [7#8]).dest ≤ 119 ∧
    stationClass state15.ctl.site.work (plantTo 40 [7#8]).dest = some .auxiliary := by
  simp only [still_iff, takes_iff, room_iff]
  decide +kernel

theorem witness_TuneIsPassedOrRefused_passed :
    Still calm.ctl ∧
    Takes calm.ctl (plantTo 10 [36#8, 184#8]).src (plantTo 10 [36#8, 184#8]).tag (plantTo 10 [36#8, 184#8]).payload ∧
    PortRoom calm.ctl ∧
    TxReady calm.ctl (plantTo 10 [36#8, 184#8]).dest 1 tx1 (off1) ∧
    9400 < 65536 ∧
    (plantTo 10 [36#8, 184#8]).payload = [BitVec.ofNat 8 (9400 / 256), BitVec.ofNat 8 9400] ∧
    (∀ q ∈ calm.ctl.link.plantQueue, q.frame.dest ≠ (plantTo 10 [36#8, 184#8]).dest ∨ q.frame.verb ≠ .carrierOn) := by
  simp only [still_iff, takes_iff, room_iff, txReady_iff]
  decide +kernel

theorem witness_TuneIsPassedOrRefused_below :
    Still calm.ctl ∧
    Takes calm.ctl (plantTo 10 [8#8, 251#8]).src (plantTo 10 [8#8, 251#8]).tag (plantTo 10 [8#8, 251#8]).payload ∧
    PortRoom calm.ctl ∧
    TxReady calm.ctl (plantTo 10 [8#8, 251#8]).dest 1 tx1 (off1) ∧
    2299 < 65536 ∧
    (plantTo 10 [8#8, 251#8]).payload = [BitVec.ofNat 8 (2299 / 256), BitVec.ofNat 8 2299] ∧
    (∀ q ∈ calm.ctl.link.plantQueue, q.frame.dest ≠ (plantTo 10 [8#8, 251#8]).dest ∨ q.frame.verb ≠ .carrierOn) := by
  simp only [still_iff, takes_iff, room_iff, txReady_iff]
  decide +kernel

theorem witness_TuneIsPassedOrRefused_above :
    Still calm.ctl ∧
    Takes calm.ctl (plantTo 10 [101#8, 245#8]).src (plantTo 10 [101#8, 245#8]).tag (plantTo 10 [101#8, 245#8]).payload ∧
    PortRoom calm.ctl ∧
    TxReady calm.ctl (plantTo 10 [101#8, 245#8]).dest 1 tx1 (off1) ∧
    26101 < 65536 ∧
    (plantTo 10 [101#8, 245#8]).payload = [BitVec.ofNat 8 (26101 / 256), BitVec.ofNat 8 26101] ∧
    (∀ q ∈ calm.ctl.link.plantQueue, q.frame.dest ≠ (plantTo 10 [101#8, 245#8]).dest ∨ q.frame.verb ≠ .carrierOn) := by
  simp only [still_iff, takes_iff, room_iff, txReady_iff]
  decide +kernel

theorem witness_TuneIsPassedOrRefused_no_band :
    Still calm.ctl ∧
    Takes calm.ctl (plantTo 10 [38#8, 173#8]).src (plantTo 10 [38#8, 173#8]).tag (plantTo 10 [38#8, 173#8]).payload ∧
    PortRoom calm.ctl ∧
    TxReady calm.ctl (plantTo 10 [38#8, 173#8]).dest 1 tx1 (off1) ∧
    9901 < 65536 ∧
    (plantTo 10 [38#8, 173#8]).payload = [BitVec.ofNat 8 (9901 / 256), BitVec.ofNat 8 9901] ∧
    (∀ q ∈ calm.ctl.link.plantQueue, q.frame.dest ≠ (plantTo 10 [38#8, 173#8]).dest ∨ q.frame.verb ≠ .carrierOn) := by
  simp only [still_iff, takes_iff, room_iff, txReady_iff]
  decide +kernel

def state16 : State := st (withTx on1 base)
theorem witness_TuneIsPassedOrRefused_live :
    Still state16.ctl ∧
    Takes state16.ctl (plantTo 10 [38#8, 172#8]).src (plantTo 10 [38#8, 172#8]).tag (plantTo 10 [38#8, 172#8]).payload ∧
    PortRoom state16.ctl ∧
    TxReady state16.ctl (plantTo 10 [38#8, 172#8]).dest 1 tx1 (on1) ∧
    9900 < 65536 ∧
    (plantTo 10 [38#8, 172#8]).payload = [BitVec.ofNat 8 (9900 / 256), BitVec.ofNat 8 9900] ∧
    (∀ q ∈ state16.ctl.link.plantQueue, q.frame.dest ≠ (plantTo 10 [38#8, 172#8]).dest ∨ q.frame.verb ≠ .carrierOn) := by
  simp only [still_iff, takes_iff, room_iff, txReady_iff]
  decide +kernel

theorem witness_PowerIsClamped_zero :
    Still calm.ctl ∧
    Takes calm.ctl (plantTo 10 [0#8, 0#8]).src (plantTo 10 [0#8, 0#8]).tag (plantTo 10 [0#8, 0#8]).payload ∧
    PortRoom calm.ctl ∧
    TxReady calm.ctl (plantTo 10 [0#8, 0#8]).dest 1 tx1 (off1) ∧
    0 < 65536 ∧
    (plantTo 10 [0#8, 0#8]).payload = [BitVec.ofNat 8 (0 / 256), BitVec.ofNat 8 0] ∧
    calm.ctl.link.reports.length < 32 ∧
    0 < 1 := by
  simp only [still_iff, takes_iff, room_iff, txReady_iff]
  decide +kernel

theorem witness_PowerIsClamped_too_high :
    Still calm.ctl ∧
    Takes calm.ctl (plantTo 10 [3#8, 232#8]).src (plantTo 10 [3#8, 232#8]).tag (plantTo 10 [3#8, 232#8]).payload ∧
    PortRoom calm.ctl ∧
    TxReady calm.ctl (plantTo 10 [3#8, 232#8]).dest 1 tx1 (off1) ∧
    1000 < 65536 ∧
    (plantTo 10 [3#8, 232#8]).payload = [BitVec.ofNat 8 (1000 / 256), BitVec.ofNat 8 1000] ∧
    calm.ctl.link.reports.length < 32 ∧
    999 < 1000 := by
  simp only [still_iff, takes_iff, room_iff, txReady_iff]
  decide +kernel

def state17 : State := st (withPath path1 base)
theorem witness_PowerIsClamped_rated_1 :
    Still state17.ctl ∧
    Takes state17.ctl (plantTo 10 [0#8, 1#8]).src (plantTo 10 [0#8, 1#8]).tag (plantTo 10 [0#8, 1#8]).payload ∧
    PortRoom state17.ctl ∧
    TxReady state17.ctl (plantTo 10 [0#8, 1#8]).dest 1 tx1 (off1) ∧
    1 < 65536 ∧
    (plantTo 10 [0#8, 1#8]).payload = [BitVec.ofNat 8 (1 / 256), BitVec.ofNat 8 1] ∧
    state17.ctl.link.reports.length < 32 ∧
    1 ≤ 1 ∧
    1 ≤ 999 ∧
    rowPath state17.ctl 1 = some path1 ∧
    path1.state = .proven ∧
    ratableBand state17.ctl off1 = some 3 ∧
    ratingOf state17.ctl.site.work path1.ant 3 ≠ 0 := by
  simp only [still_iff, takes_iff, room_iff, txReady_iff]
  decide +kernel

theorem witness_PowerIsClamped_rated_300 :
    Still state17.ctl ∧
    Takes state17.ctl (plantTo 10 [1#8, 44#8]).src (plantTo 10 [1#8, 44#8]).tag (plantTo 10 [1#8, 44#8]).payload ∧
    PortRoom state17.ctl ∧
    TxReady state17.ctl (plantTo 10 [1#8, 44#8]).dest 1 tx1 (off1) ∧
    300 < 65536 ∧
    (plantTo 10 [1#8, 44#8]).payload = [BitVec.ofNat 8 (300 / 256), BitVec.ofNat 8 300] ∧
    state17.ctl.link.reports.length < 32 ∧
    1 ≤ 300 ∧
    300 ≤ 999 ∧
    rowPath state17.ctl 1 = some path1 ∧
    path1.state = .proven ∧
    ratableBand state17.ctl off1 = some 3 ∧
    ratingOf state17.ctl.site.work path1.ant 3 ≠ 0 := by
  simp only [still_iff, takes_iff, room_iff, txReady_iff]
  decide +kernel

theorem witness_PowerIsClamped_rated_301 :
    Still state17.ctl ∧
    Takes state17.ctl (plantTo 10 [1#8, 45#8]).src (plantTo 10 [1#8, 45#8]).tag (plantTo 10 [1#8, 45#8]).payload ∧
    PortRoom state17.ctl ∧
    TxReady state17.ctl (plantTo 10 [1#8, 45#8]).dest 1 tx1 (off1) ∧
    301 < 65536 ∧
    (plantTo 10 [1#8, 45#8]).payload = [BitVec.ofNat 8 (301 / 256), BitVec.ofNat 8 301] ∧
    state17.ctl.link.reports.length < 32 ∧
    1 ≤ 301 ∧
    301 ≤ 999 ∧
    rowPath state17.ctl 1 = some path1 ∧
    path1.state = .proven ∧
    ratableBand state17.ctl off1 = some 3 ∧
    ratingOf state17.ctl.site.work path1.ant 3 ≠ 0 := by
  simp only [still_iff, takes_iff, room_iff, txReady_iff]
  decide +kernel

theorem witness_PowerIsClamped_rated_999 :
    Still state17.ctl ∧
    Takes state17.ctl (plantTo 10 [3#8, 231#8]).src (plantTo 10 [3#8, 231#8]).tag (plantTo 10 [3#8, 231#8]).payload ∧
    PortRoom state17.ctl ∧
    TxReady state17.ctl (plantTo 10 [3#8, 231#8]).dest 1 tx1 (off1) ∧
    999 < 65536 ∧
    (plantTo 10 [3#8, 231#8]).payload = [BitVec.ofNat 8 (999 / 256), BitVec.ofNat 8 999] ∧
    state17.ctl.link.reports.length < 32 ∧
    1 ≤ 999 ∧
    999 ≤ 999 ∧
    rowPath state17.ctl 1 = some path1 ∧
    path1.state = .proven ∧
    ratableBand state17.ctl off1 = some 3 ∧
    ratingOf state17.ctl.site.work path1.ant 3 ≠ 0 := by
  simp only [still_iff, takes_iff, room_iff, txReady_iff]
  decide +kernel

def state18 : State := st ({ withPath path1 base with site := { base.site with work := { tables with ratings := [(1, List.replicate 16 0)] } } })
theorem witness_PowerIsClamped_unrated :
    Still state18.ctl ∧
    Takes state18.ctl (plantTo 10 [3#8, 231#8]).src (plantTo 10 [3#8, 231#8]).tag (plantTo 10 [3#8, 231#8]).payload ∧
    PortRoom state18.ctl ∧
    TxReady state18.ctl (plantTo 10 [3#8, 231#8]).dest 1 tx1 (off1) ∧
    999 < 65536 ∧
    (plantTo 10 [3#8, 231#8]).payload = [BitVec.ofNat 8 (999 / 256), BitVec.ofNat 8 999] ∧
    state18.ctl.link.reports.length < 32 ∧
    1 ≤ 999 ∧
    999 ≤ 999 ∧
    rowPath state18.ctl 1 = some path1 ∧
    path1.state = .proven ∧
    ratableBand state18.ctl off1 = some 3 ∧
    ratingOf state18.ctl.site.work path1.ant 3 = 0 := by
  simp only [still_iff, takes_iff, room_iff, txReady_iff]
  decide +kernel

theorem witness_PowerIsClamped_no_path_500 :
    (Still calm.ctl ∧
    Takes calm.ctl (plantTo 10 [1#8, 244#8]).src (plantTo 10 [1#8, 244#8]).tag (plantTo 10 [1#8, 244#8]).payload ∧
    PortRoom calm.ctl ∧
    TxReady calm.ctl (plantTo 10 [1#8, 244#8]).dest 1 tx1 (off1) ∧
    500 < 65536 ∧
    (plantTo 10 [1#8, 244#8]).payload = [BitVec.ofNat 8 (500 / 256), BitVec.ofNat 8 500] ∧
    calm.ctl.link.reports.length < 32 ∧
    1 ≤ 500 ∧
    500 ≤ 999) ∧
    (∀ p, rowPath calm.ctl 1 = some p → p.state ≠ .proven ∨ ratableBand calm.ctl off1 = none) := by
  refine ⟨?_, none_all (by decide)⟩
  simp only [still_iff, takes_iff, room_iff, txReady_iff]
  decide +kernel

theorem witness_PowerIsClamped_no_path_501 :
    (Still calm.ctl ∧
    Takes calm.ctl (plantTo 10 [1#8, 245#8]).src (plantTo 10 [1#8, 245#8]).tag (plantTo 10 [1#8, 245#8]).payload ∧
    PortRoom calm.ctl ∧
    TxReady calm.ctl (plantTo 10 [1#8, 245#8]).dest 1 tx1 (off1) ∧
    501 < 65536 ∧
    (plantTo 10 [1#8, 245#8]).payload = [BitVec.ofNat 8 (501 / 256), BitVec.ofNat 8 501] ∧
    calm.ctl.link.reports.length < 32 ∧
    1 ≤ 501 ∧
    501 ≤ 999) ∧
    (∀ p, rowPath calm.ctl 1 = some p → p.state ≠ .proven ∨ ratableBand calm.ctl off1 = none) := by
  refine ⟨?_, none_all (by decide)⟩
  simp only [still_iff, takes_iff, room_iff, txReady_iff]
  decide +kernel

/-- Held on its path since 0, eleven times: one place of the hold queue is left. -/
def heldTimes (n : Nat) : List Held :=
  List.replicate n { frame := gateFrame (plantTo 10 []) .carrierOn, waits := .path, since := 0 }
def loud1 : TxDyn := { off1 with power := some 301 }
def mute1 : TxDyn := { off1 with power := none }

def state19 : State := st ({ withPath { path1 with state := .setting } base with gate := { base.gate with held := heldTimes 11 } })
theorem witness_CarrierOnIsPassedOrHeld_setting :
    Still state19.ctl ∧
    Takes state19.ctl (plantTo 10 []).src (plantTo 10 []).tag (plantTo 10 []).payload ∧
    PortRoom state19.ctl ∧
    TxReady state19.ctl (plantTo 10 []).dest 1 tx1 (off1) ∧
    (plantTo 10 []).payload = [] ∧
    state19.ctl.hall.inForce = false ∧
    rowPath state19.ctl 1 = some { path1 with state := .setting } ∧
    lockedOut state19.ctl ({ path1 with state := .setting } : Path).ant = false ∧
    state19.ctl.gate.held.length < 12 ∧
    ({ path1 with state := .setting } : Path).state = .setting := by
  simp only [still_iff, takes_iff, room_iff, txReady_iff]
  decide +kernel

theorem witness_CarrierOnIsPassedOrHeld_passed :
    Still state17.ctl ∧
    Takes state17.ctl (plantTo 10 []).src (plantTo 10 []).tag (plantTo 10 []).payload ∧
    PortRoom state17.ctl ∧
    TxReady state17.ctl (plantTo 10 []).dest 1 tx1 (off1) ∧
    (plantTo 10 []).payload = [] ∧
    state17.ctl.hall.inForce = false ∧
    rowPath state17.ctl 1 = some path1 ∧
    lockedOut state17.ctl (path1 : Path).ant = false ∧
    state17.ctl.gate.held.length < 12 ∧
    path1.state = .proven ∧
    ratableBand state17.ctl off1 = some 3 ∧
    ratingOf state17.ctl.site.work path1.ant 3 ≠ 0 ∧
    off1.power = some 300 ∧
    300 ≤ min tx1.maxPower (ratingOf state17.ctl.site.work path1.ant 3) ∧
    state17.ctl.matrix.queue = [] ∧
    (∀ x ∈ state17.ctl.cu, x.2.busy = false) := by
  simp only [still_iff, takes_iff, room_iff, txReady_iff]
  decide +kernel

def state20 : State := st (withTx loud1 (withPath path1 base))
theorem witness_CarrierOnIsPassedOrHeld_above :
    (Still state20.ctl ∧
    Takes state20.ctl (plantTo 10 []).src (plantTo 10 []).tag (plantTo 10 []).payload ∧
    PortRoom state20.ctl ∧
    TxReady state20.ctl (plantTo 10 []).dest 1 tx1 (loud1) ∧
    (plantTo 10 []).payload = [] ∧
    state20.ctl.hall.inForce = false ∧
    rowPath state20.ctl 1 = some path1 ∧
    lockedOut state20.ctl (path1 : Path).ant = false ∧
    state20.ctl.gate.held.length < 12 ∧
    path1.state = .proven ∧
    ratableBand state20.ctl loud1 = some 3 ∧
    ratingOf state20.ctl.site.work path1.ant 3 ≠ 0 ∧
    1 ≤ tx1.maxPower ∧
    tx1.maxPower ≤ 999 ∧
    clampPending state20.ctl.link (plantTo 10 []).dest = false ∧
    state20.ctl.link.reports.length < 32) ∧
    (∀ kW, loud1.power = some kW → min tx1.maxPower (ratingOf state20.ctl.site.work path1.ant 3) < kW) := by
  refine ⟨?_, some_all rfl (by decide)⟩
  simp only [still_iff, takes_iff, room_iff, txReady_iff]
  decide +kernel

def state21 : State := st (withTx mute1 (withPath path1 base))
theorem witness_CarrierOnIsPassedOrHeld_unknown :
    (Still state21.ctl ∧
    Takes state21.ctl (plantTo 10 []).src (plantTo 10 []).tag (plantTo 10 []).payload ∧
    PortRoom state21.ctl ∧
    TxReady state21.ctl (plantTo 10 []).dest 1 tx1 (mute1) ∧
    (plantTo 10 []).payload = [] ∧
    state21.ctl.hall.inForce = false ∧
    rowPath state21.ctl 1 = some path1 ∧
    lockedOut state21.ctl (path1 : Path).ant = false ∧
    state21.ctl.gate.held.length < 12 ∧
    path1.state = .proven ∧
    ratableBand state21.ctl mute1 = some 3 ∧
    ratingOf state21.ctl.site.work path1.ant 3 ≠ 0 ∧
    1 ≤ tx1.maxPower ∧
    tx1.maxPower ≤ 999 ∧
    clampPending state21.ctl.link (plantTo 10 []).dest = false ∧
    state21.ctl.link.reports.length < 32) ∧
    (∀ kW, mute1.power = some kW → min tx1.maxPower (ratingOf state21.ctl.site.work path1.ant 3) < kW) := by
  refine ⟨?_, none_all rfl⟩
  simp only [still_iff, takes_iff, room_iff, txReady_iff]
  decide +kernel

def state22 : State := st (withTx { off1 with power := some 301 } (withPath path1 { base with site := { base.site with work := { tables with tx := [(1, { tx1 with maxPower := 250 })] } } }))
theorem witness_CarrierOnIsPassedOrHeld_maximum :
    (Still state22.ctl ∧
    Takes state22.ctl (plantTo 10 []).src (plantTo 10 []).tag (plantTo 10 []).payload ∧
    PortRoom state22.ctl ∧
    TxReady state22.ctl (plantTo 10 []).dest 1 ({ tx1 with maxPower := 250 }) ({ off1 with power := some 301 }) ∧
    (plantTo 10 []).payload = [] ∧
    state22.ctl.hall.inForce = false ∧
    rowPath state22.ctl 1 = some path1 ∧
    lockedOut state22.ctl (path1 : Path).ant = false ∧
    state22.ctl.gate.held.length < 12 ∧
    path1.state = .proven ∧
    ratableBand state22.ctl { off1 with power := some 301 } = some 3 ∧
    ratingOf state22.ctl.site.work path1.ant 3 ≠ 0 ∧
    1 ≤ ({ tx1 with maxPower := 250 } : TxStatic).maxPower ∧
    ({ tx1 with maxPower := 250 } : TxStatic).maxPower ≤ 999 ∧
    clampPending state22.ctl.link (plantTo 10 []).dest = false ∧
    state22.ctl.link.reports.length < 32) ∧
    (∀ kW, ({ off1 with power := some 301 } : TxDyn).power = some kW → min ({ tx1 with maxPower := 250 } : TxStatic).maxPower (ratingOf state22.ctl.site.work path1.ant 3) < kW) := by
  refine ⟨?_, some_all rfl (by decide)⟩
  simp only [still_iff, takes_iff, room_iff, txReady_iff]
  decide +kernel

def state23 : State := st (withPhase .survey (withTx { on1 with reportedLocal := true } base))
theorem witness_CarrierOffIsPassed :
    Still state23.ctl ∧
    Takes state23.ctl (plantTo 10 []).src (plantTo 10 []).tag (plantTo 10 []).payload ∧
    PortRoom state23.ctl ∧
    (plantTo 10 []).dest ≤ 119 ∧
    stationClass state23.ctl.site.work (plantTo 10 []).dest = some .transmitter ∧
    txOfStation state23.ctl.site.work (plantTo 10 []).dest = some 1 ∧
    txStatic state23.ctl 1 = some tx1 ∧
    txDyn state23.ctl 1 = some { on1 with reportedLocal := true } ∧
    ownedByCtx { on1 with reportedLocal := true } = false ∧
    (plantTo 10 []).payload = [] := by
  simp only [still_iff, takes_iff, room_iff]
  decide +kernel

def opsJob1 : Job := newJob (.operations ref1) (.bearing 100)
def turning1 : AntDyn := { still1 with job := some opsJob1 }
def withAerial (d : AntDyn) (c : Ctl) : Ctl := { c with aerial := [(1, d), (2, still2)] }

theorem witness_SlewAndSteerOpenJobs_slew_1850 :
    (Still calm.ctl ∧
    Takes calm.ctl (plantTo 20 [7#8, 58#8]).src (plantTo 20 [7#8, 58#8]).tag (plantTo 20 [7#8, 58#8]).payload ∧
    PortRoom calm.ctl ∧
    DriveReady calm.ctl (plantTo 20 [7#8, 58#8]).dest 1 ant1 (still1) ∧
    columnLive calm.ctl 1 = false ∧
    columnOwned calm.ctl 1 (.ops (plantTo 20 [7#8, 58#8]).src (plantTo 20 [7#8, 58#8]).tag) = false ∧
    ant1.kind = .rotatable ∧
    1850 < 3600 ∧
    reachable ant1 1850 = true ∧
    (plantTo 20 [7#8, 58#8]).payload = [BitVec.ofNat 8 (1850 / 256), BitVec.ofNat 8 1850]) ∧
    (∀ j k w, still1.job = some j → j.requester ≠ .ctx k w) := by
  refine ⟨?_, (by intro j k w h; cases h)⟩
  simp only [still_iff, takes_iff, room_iff, driveReady_iff]
  decide +kernel

theorem witness_SlewAndSteerOpenJobs_slew_1750 :
    (Still calm.ctl ∧
    Takes calm.ctl (plantTo 20 [6#8, 214#8]).src (plantTo 20 [6#8, 214#8]).tag (plantTo 20 [6#8, 214#8]).payload ∧
    PortRoom calm.ctl ∧
    DriveReady calm.ctl (plantTo 20 [6#8, 214#8]).dest 1 ant1 (still1) ∧
    columnLive calm.ctl 1 = false ∧
    columnOwned calm.ctl 1 (.ops (plantTo 20 [6#8, 214#8]).src (plantTo 20 [6#8, 214#8]).tag) = false ∧
    ant1.kind = .rotatable ∧
    1750 < 3600 ∧
    reachable ant1 1750 = true ∧
    (plantTo 20 [6#8, 214#8]).payload = [BitVec.ofNat 8 (1750 / 256), BitVec.ofNat 8 1750]) ∧
    (∀ j k w, still1.job = some j → j.requester ≠ .ctx k w) := by
  refine ⟨?_, (by intro j k w h; cases h)⟩
  simp only [still_iff, takes_iff, room_iff, driveReady_iff]
  decide +kernel

theorem witness_SlewAndSteerOpenJobs_steer_1 :
    (Still calm.ctl ∧
    Takes calm.ctl (plantTo 21 [1#8]).src (plantTo 21 [1#8]).tag (plantTo 21 [1#8]).payload ∧
    PortRoom calm.ctl ∧
    DriveReady calm.ctl (plantTo 21 [1#8]).dest 2 ant2 (still2) ∧
    columnLive calm.ctl 2 = false ∧
    columnOwned calm.ctl 2 (.ops (plantTo 21 [1#8]).src (plantTo 21 [1#8]).tag) = false ∧
    ant2.kind = .steerable ∧
    1 ≤ 1 ∧
    1 ≤ (ant2.offsets.getD []).length ∧
    1 < 256 ∧
    (plantTo 21 [1#8]).payload = [BitVec.ofNat 8 1]) ∧
    (∀ j k w, still2.job = some j → j.requester ≠ .ctx k w) := by
  refine ⟨?_, (by intro j k w h; cases h)⟩
  simp only [still_iff, takes_iff, room_iff, driveReady_iff]
  decide +kernel

theorem witness_SlewAndSteerOpenJobs_steer_3 :
    (Still calm.ctl ∧
    Takes calm.ctl (plantTo 21 [3#8]).src (plantTo 21 [3#8]).tag (plantTo 21 [3#8]).payload ∧
    PortRoom calm.ctl ∧
    DriveReady calm.ctl (plantTo 21 [3#8]).dest 2 ant2 (still2) ∧
    columnLive calm.ctl 2 = false ∧
    columnOwned calm.ctl 2 (.ops (plantTo 21 [3#8]).src (plantTo 21 [3#8]).tag) = false ∧
    ant2.kind = .steerable ∧
    1 ≤ 3 ∧
    3 ≤ (ant2.offsets.getD []).length ∧
    3 < 256 ∧
    (plantTo 21 [3#8]).payload = [BitVec.ofNat 8 3]) ∧
    (∀ j k w, still2.job = some j → j.requester ≠ .ctx k w) := by
  refine ⟨?_, (by intro j k w h; cases h)⟩
  simp only [still_iff, takes_iff, room_iff, driveReady_iff]
  decide +kernel

def state24 : State := st (withAerial turning1 base)
theorem witness_SlewAndSteerOpenJobs_stop :
    (Still state24.ctl ∧
    Takes state24.ctl (plantTo 20 []).src (plantTo 20 []).tag (plantTo 20 []).payload ∧
    PortRoom state24.ctl ∧
    DriveReady state24.ctl (plantTo 20 []).dest 1 ant1 (turning1) ∧
    columnLive state24.ctl 1 = false ∧
    columnOwned state24.ctl 1 (.ops (plantTo 20 []).src (plantTo 20 []).tag) = false ∧
    turning1.job = some opsJob1 ∧
    opsJob1.requester = .operations ref1 ∧
    (plantTo 20 []).payload = []) ∧
    (∀ j k w, turning1.job = some j → j.requester ≠ .ctx k w) := by
  refine ⟨?_, (by intro j k w h; cases h; intro h; cases h)⟩
  simp only [still_iff, takes_iff, room_iff, driveReady_iff]
  decide +kernel

/-! ## Orders to the controller -/

def state25 : State := st (withPhase .adopt base)
theorem witness_StartUpRefusesOrders_store_open :
    Still state25.ctl ∧
    Takes state25.ctl (own [9#8]).src (own [9#8]).tag (own [9#8]).payload ∧
    state25.ctl.start.phase ≠ .running ∧
    (42, Instr.storeOpen (own [9#8])) ∈ [(37, Instr.hallResume (own [9#8])), (39, .siteWrite (own [9#8])), (41, .siteSave (own [9#8])), (42, .storeOpen (own [9#8])), (44, .bankCreate (own [9#8])), (45, .bankSeal (own [9#8])), (46, .bankClear (own [9#8])), (47, .entryAppend (own [9#8])), (48, .entryVoid (own [9#8])), (49, .pageErase (own [9#8])), (51, .storeFaultClear (own [9#8])), (1, .loadOpen (own [9#8]))] := by
  simp only [still_iff, takes_iff]
  decide +kernel

theorem witness_StartUpRefusesOrders_path_free :
    Still state25.ctl ∧
    Takes state25.ctl (own [9#8]).src (own [9#8]).tag (own [9#8]).payload ∧
    state25.ctl.start.phase ≠ .running ∧
    (own [9#8]).payload = [9#8] := by
  simp only [still_iff, takes_iff]
  decide +kernel

theorem witness_StartUpRefusesOrders_path_set :
    Still state25.ctl ∧
    Takes state25.ctl (own [1#8, 2#8]).src (own [1#8, 2#8]).tag (own [1#8, 2#8]).payload ∧
    state25.ctl.start.phase ≠ .running ∧
    (own [1#8, 2#8]).payload = [1#8, 2#8] := by
  simp only [still_iff, takes_iff]
  decide +kernel

def state26 : State := st (withPhase .survey (withBankA (bankOf .active [entry 7 1 9410 2 none 60 60 5]) base))
theorem witness_ReadingOrdersOnlyAnswer_site_read :
    Still state26.ctl ∧
    Takes state26.ctl (own [3#8, 1#8, 1#8]).src (own [3#8, 1#8, 1#8]).tag (own [3#8, 1#8, 1#8]).payload ∧
    (own [3#8, 1#8, 1#8]).payload = [3#8, 1#8, 1#8] ∧
    recordKindOf (3#8).toNat = some .ratings ∧
    keyValid .ratings (1#8).toNat = true ∧
    (1#8 = 1#8 ∨ 1#8 = 2#8) := by
  simp only [still_iff, takes_iff]
  decide +kernel

theorem witness_ReadingOrdersOnlyAnswer_store_status :
    Still state26.ctl ∧
    Takes state26.ctl (own []).src (own []).tag (own []).payload := by
  simp only [still_iff, takes_iff]
  decide +kernel

theorem witness_ReadingOrdersOnlyAnswer_entry_by_id :
    Still state26.ctl ∧
    Takes state26.ctl (own [1#8, 0#8, 7#8, 255#8, 255#8]).src (own [1#8, 0#8, 7#8, 255#8, 255#8]).tag (own [1#8, 0#8, 7#8, 255#8, 255#8]).payload ∧
    (own [1#8, 0#8, 7#8, 255#8, 255#8]).payload = [1#8, 0#8, 7#8, 255#8, 255#8] ∧
    bankOfCode (1#8).toNat = some .a ∧
    state26.ctl.store.checked = true ∧
    slotOfId state26.ctl .a (rd2 0#8 7#8) = some 0 := by
  simp only [still_iff, takes_iff]
  decide +kernel

theorem witness_ReadingOrdersOnlyAnswer_entry_by_place :
    Still state26.ctl ∧
    Takes state26.ctl (own [2#8, 0#8, 7#8, 16#8, 128#8]).src (own [2#8, 0#8, 7#8, 16#8, 128#8]).tag (own [2#8, 0#8, 7#8, 16#8, 128#8]).payload ∧
    (own [2#8, 0#8, 7#8, 16#8, 128#8]).payload = [2#8, 0#8, 7#8, 16#8, 128#8] ∧
    bankOfCode (2#8).toNat = some .b ∧
    state26.ctl.store.checked = true ∧
    1 ≤ (16#8).toNat ∧
    (16#8).toNat ≤ 16 ∧
    1 ≤ (128#8).toNat ∧
    (128#8).toNat ≤ 128 := by
  simp only [still_iff, takes_iff]
  decide +kernel

theorem witness_ReadingOrdersOnlyAnswer_context_1 :
    Still state26.ctl ∧
    Takes state26.ctl (own [1#8]).src (own [1#8]).tag (own [1#8]).payload ∧
    (own [1#8]).payload = [1#8] ∧
    1 ≤ (1#8).toNat ∧
    (1#8).toNat ≤ 16 := by
  simp only [still_iff, takes_iff]
  decide +kernel

theorem witness_ReadingOrdersOnlyAnswer_context_16 :
    Still state26.ctl ∧
    Takes state26.ctl (own [16#8]).src (own [16#8]).tag (own [16#8]).payload ∧
    (own [16#8]).payload = [16#8] ∧
    1 ≤ (16#8).toNat ∧
    (16#8).toNat ≤ 16 := by
  simp only [still_iff, takes_iff]
  decide +kernel

theorem witness_ReadingOrdersOnlyAnswer_plan :
    Still state26.ctl ∧
    Takes state26.ctl (own [16#8]).src (own [16#8]).tag (own [16#8]).payload ∧
    (own [16#8]).payload = [16#8] := by
  simp only [still_iff, takes_iff]
  decide +kernel

theorem witness_ReadingOrdersOnlyAnswer_section_1 :
    Still state26.ctl ∧
    Takes state26.ctl (own [1#8, 0#8, 1#8]).src (own [1#8, 0#8, 1#8]).tag (own [1#8, 0#8, 1#8]).payload ∧
    (own [1#8, 0#8, 1#8]).payload = [1#8, 0#8, 1#8] := by
  simp only [still_iff, takes_iff]
  decide +kernel

theorem witness_ReadingOrdersOnlyAnswer_section_2 :
    Still state26.ctl ∧
    Takes state26.ctl (own [2#8, 0#8, 1#8]).src (own [2#8, 0#8, 1#8]).tag (own [2#8, 0#8, 1#8]).payload ∧
    (own [2#8, 0#8, 1#8]).payload = [2#8, 0#8, 1#8] := by
  simp only [still_iff, takes_iff]
  decide +kernel

theorem witness_ReadingOrdersOnlyAnswer_section_3 :
    Still state26.ctl ∧
    Takes state26.ctl (own [3#8, 0#8, 1#8]).src (own [3#8, 0#8, 1#8]).tag (own [3#8, 0#8, 1#8]).payload ∧
    (own [3#8, 0#8, 1#8]).payload = [3#8, 0#8, 1#8] := by
  simp only [still_iff, takes_iff]
  decide +kernel

theorem witness_ReadingOrdersOnlyAnswer_section_4 :
    Still state26.ctl ∧
    Takes state26.ctl (own [4#8, 0#8, 1#8]).src (own [4#8, 0#8, 1#8]).tag (own [4#8, 0#8, 1#8]).payload ∧
    (own [4#8, 0#8, 1#8]).payload = [4#8, 0#8, 1#8] := by
  simp only [still_iff, takes_iff]
  decide +kernel

theorem witness_ReadingOrdersOnlyAnswer_section_5 :
    Still state26.ctl ∧
    Takes state26.ctl (own [5#8, 0#8, 1#8]).src (own [5#8, 0#8, 1#8]).tag (own [5#8, 0#8, 1#8]).payload ∧
    (own [5#8, 0#8, 1#8]).payload = [5#8, 0#8, 1#8] := by
  simp only [still_iff, takes_iff]
  decide +kernel

def eraseReq (ref : Ref) : StoreReq := .erase .b [1] [ref] false
/-- Bank A is FILLING and open, and seven requests wait in the store queue. -/
def filling : Ctl :=
  { base with store := { base.store with
      bankA := bankOf .filling [entry 7 1 9410 2 none 60 60 5], openBank := some .a
      queue := List.replicate 7 (eraseReq ref1) } }

def state27 : State := st filling
theorem witness_StoreOrdersAreQueued_save :
    Still state27.ctl ∧
    Takes state27.ctl (own []).src (own []).tag (own []).payload ∧
    state27.ctl.start.phase = .running ∧
    state27.ctl.store.op.isSome = true ∧
    state27.ctl.load.state = .none ∧
    state27.ctl.store.queue.length < 8 := by
  simp only [still_iff, takes_iff]
  decide +kernel

theorem witness_StoreOrdersAreQueued_create :
    Still state27.ctl ∧
    Takes state27.ctl (own [2#8, 0#8, 8#8, 255#8, 255#8, 1#8, 81#8, 127#8]).src (own [2#8, 0#8, 8#8, 255#8, 255#8, 1#8, 81#8, 127#8]).tag (own [2#8, 0#8, 8#8, 255#8, 255#8, 1#8, 81#8, 127#8]).payload ∧
    state27.ctl.start.phase = .running ∧
    state27.ctl.store.op.isSome = true ∧
    state27.ctl.load.state = .none ∧
    (own [2#8, 0#8, 8#8, 255#8, 255#8, 1#8, 81#8, 127#8]).payload = [2#8, 0#8, 8#8, 255#8, 255#8, 1#8, 81#8, 127#8] ∧
    bankOfCode (2#8).toNat = some .b ∧
    createTests state27.ctl .b (rd2 0#8 8#8) (rd3 1#8 81#8 127#8) = none := by
  simp only [still_iff, takes_iff]
  decide +kernel

theorem witness_StoreOrdersAreQueued_seal :
    Still state27.ctl ∧
    Takes state27.ctl (own [1#8]).src (own [1#8]).tag (own [1#8]).payload ∧
    state27.ctl.start.phase = .running ∧
    state27.ctl.store.op.isSome = true ∧
    state27.ctl.load.state = .none ∧
    (own [1#8]).payload = [1#8] ∧
    bankOfCode (1#8).toNat = some .a ∧
    state27.ctl.store.openBank = some .a ∧
    (bankRec state27.ctl .a).header.state = .filling ∧
    (bankRec state27.ctl .a).fault = false ∧
    sealTests state27.ctl .a = none := by
  simp only [still_iff, takes_iff]
  decide +kernel

theorem witness_StoreOrdersAreQueued_clear :
    Still state27.ctl ∧
    Takes state27.ctl (own [1#8]).src (own [1#8]).tag (own [1#8]).payload ∧
    state27.ctl.start.phase = .running ∧
    state27.ctl.store.op.isSome = true ∧
    state27.ctl.load.state = .none ∧
    (own [1#8]).payload = [1#8] ∧
    bankOfCode (1#8).toNat = some .a ∧
    clearTests state27.ctl .a = none := by
  simp only [still_iff, takes_iff]
  decide +kernel

theorem witness_StoreOrdersAreQueued_append :
    Still state27.ctl ∧
    Takes state27.ctl (own (1#8 :: entryOctets (entry 8 1 9410 2 none 60 60 5))).src (own (1#8 :: entryOctets (entry 8 1 9410 2 none 60 60 5))).tag (own (1#8 :: entryOctets (entry 8 1 9410 2 none 60 60 5))).payload ∧
    state27.ctl.start.phase = .running ∧
    state27.ctl.store.op.isSome = true ∧
    state27.ctl.load.state = .none ∧
    (own (1#8 :: entryOctets (entry 8 1 9410 2 none 60 60 5))).payload = 1#8 :: entryOctets (entry 8 1 9410 2 none 60 60 5) ∧
    bankOfCode (1#8).toNat = some .a ∧
    parseEntry (entryOctets (entry 8 1 9410 2 none 60 60 5)) = some (entry 8 1 9410 2 none 60 60 5) ∧
    writeTests state27.ctl .a (acceptsWrites state27.ctl .a) = none ∧
    appendTests state27.ctl .a (entry 8 1 9410 2 none 60 60 5) = none := by
  simp only [still_iff, takes_iff]
  decide +kernel

theorem witness_StoreOrdersAreQueued_void :
    Still state27.ctl ∧
    Takes state27.ctl (own [1#8, 0#8, 7#8]).src (own [1#8, 0#8, 7#8]).tag (own [1#8, 0#8, 7#8]).payload ∧
    state27.ctl.start.phase = .running ∧
    state27.ctl.store.op.isSome = true ∧
    state27.ctl.load.state = .none ∧
    (own [1#8, 0#8, 7#8]).payload = [1#8, 0#8, 7#8] ∧
    bankOfCode (1#8).toNat = some .a ∧
    writeTests state27.ctl .a (acceptsWrites state27.ctl .a) = none ∧
    voidTests state27.ctl .a (rd2 0#8 7#8) = none := by
  simp only [still_iff, takes_iff]
  decide +kernel

theorem witness_PageEraseOpensAWindow_first :
    Still state27.ctl ∧
    Takes state27.ctl (own [1#8, 0#8, 1#8]).src (own [1#8, 0#8, 1#8]).tag (own [1#8, 0#8, 1#8]).payload ∧
    state27.ctl.start.phase = .running ∧
    state27.ctl.store.op.isSome = true ∧
    (own [1#8, 0#8, 1#8]).payload = [1#8, 0#8, 1#8] ∧
    bankOfCode (1#8).toNat = some .a ∧
    maskPages (rd2 0#8 1#8) ≠ [] ∧
    state27.ctl.store.openBank = some .a ∧
    (bankRec state27.ctl .a).header.state = .filling ∧
    (bankRec state27.ctl .a).fault = false ∧
    eraseTests state27.ctl .a (maskPages (rd2 0#8 1#8)) = none ∧
    windowOpenFor state27.ctl.store .a = false := by
  simp only [still_iff, takes_iff]
  decide +kernel

def state28 : State := st ({ filling with store := { filling.store with queue := [.erase .a [16] [ref1] true] } })
theorem witness_PageEraseOpensAWindow_further :
    Still state28.ctl ∧
    Takes state28.ctl (own [1#8, 0#8, 1#8]).src (own [1#8, 0#8, 1#8]).tag (own [1#8, 0#8, 1#8]).payload ∧
    state28.ctl.start.phase = .running ∧
    state28.ctl.store.op.isSome = true ∧
    (own [1#8, 0#8, 1#8]).payload = [1#8, 0#8, 1#8] ∧
    bankOfCode (1#8).toNat = some .a ∧
    maskPages (rd2 0#8 1#8) ≠ [] ∧
    state28.ctl.store.openBank = some .a ∧
    (bankRec state28.ctl .a).header.state = .filling ∧
    (bankRec state28.ctl .a).fault = false ∧
    eraseTests state28.ctl .a (maskPages (rd2 0#8 1#8)) = none ∧
    state28.ctl.store.queue = [.erase .a [16] [ref1] true] := by
  simp only [still_iff, takes_iff]
  decide +kernel

theorem witness_BanksProtectTheirRecords_not_open :
    Still calm.ctl ∧
    Takes calm.ctl (own [1#8, 0#8, 7#8]).src (own [1#8, 0#8, 7#8]).tag (own [1#8, 0#8, 7#8]).payload ∧
    calm.ctl.start.phase = .running ∧
    (own [1#8, 0#8, 7#8]).payload = 1#8 :: [0#8, 7#8] ∧
    bankOfCode (1#8).toNat = some .a ∧
    (48, Instr.entryVoid (own [1#8, 0#8, 7#8])) ∈ [(47, Instr.entryAppend (own [1#8, 0#8, 7#8])), (48, .entryVoid (own [1#8, 0#8, 7#8])), (49, .pageErase (own [1#8, 0#8, 7#8])), (45, .bankSeal (own [1#8, 0#8, 7#8])), (1, .loadOpen (own [1#8, 0#8, 7#8]))] ∧
    ((48, Instr.entryVoid (own [1#8, 0#8, 7#8])).1 = 48 ∧ ([0#8, 7#8] : List Byte).length = 2) ∧
    calm.ctl.store.openBank ≠ some .a := by
  simp only [still_iff, takes_iff]
  decide +kernel

def state29 : State := st ({ base with store := { base.store with bankA := bankOf .active [], openBank := some .a } })
theorem witness_BanksProtectTheirRecords_active_without_key :
    Still state29.ctl ∧
    Takes state29.ctl (own [1#8, 0#8, 7#8]).src (own [1#8, 0#8, 7#8]).tag (own [1#8, 0#8, 7#8]).payload ∧
    state29.ctl.start.phase = .running ∧
    (own [1#8, 0#8, 7#8]).payload = 1#8 :: [0#8, 7#8] ∧
    bankOfCode (1#8).toNat = some .a ∧
    (48, Instr.entryVoid (own [1#8, 0#8, 7#8])) ∈ [(47, Instr.entryAppend (own [1#8, 0#8, 7#8])), (48, .entryVoid (own [1#8, 0#8, 7#8])), (49, .pageErase (own [1#8, 0#8, 7#8])), (45, .bankSeal (own [1#8, 0#8, 7#8])), (1, .loadOpen (own [1#8, 0#8, 7#8]))] ∧
    ((48, Instr.entryVoid (own [1#8, 0#8, 7#8])).1 = 48 ∧ ([0#8, 7#8] : List Byte).length = 2) ∧
    state29.ctl.store.openBank = some .a ∧
    (bankRec state29.ctl .a).header.state ≠ .filling ∧
    state29.ctl.panel.cond.maintenance = false := by
  simp only [still_iff, takes_iff]
  decide +kernel

theorem witness_BanksProtectTheirRecords_load :
    Still state29.ctl ∧
    Takes state29.ctl (own [1#8, 8#8, 0#8]).src (own [1#8, 8#8, 0#8]).tag (own [1#8, 8#8, 0#8]).payload ∧
    state29.ctl.start.phase = .running ∧
    (own [1#8, 8#8, 0#8]).payload = 1#8 :: [8#8, 0#8] ∧
    bankOfCode (1#8).toNat = some .a ∧
    (1, Instr.loadOpen (own [1#8, 8#8, 0#8])) ∈ [(47, Instr.entryAppend (own [1#8, 8#8, 0#8])), (48, .entryVoid (own [1#8, 8#8, 0#8])), (49, .pageErase (own [1#8, 8#8, 0#8])), (45, .bankSeal (own [1#8, 8#8, 0#8])), (1, .loadOpen (own [1#8, 8#8, 0#8]))] ∧
    1 ≤ rd2 8#8 0#8 ∧
    rd2 8#8 0#8 ≤ 2048 ∧
    state29.ctl.store.openBank = some .a ∧
    (bankRec state29.ctl .a).header.state ≠ .filling := by
  simp only [still_iff, takes_iff]
  decide +kernel

theorem witness_BanksProtectTheirRecords_clear :
    Still state29.ctl ∧
    Takes state29.ctl (own [1#8]).src (own [1#8]).tag (own [1#8]).payload ∧
    state29.ctl.start.phase = .running ∧
    (own [1#8]).payload = [1#8] ∧
    bankOfCode (1#8).toNat = some .a ∧
    (bankRec state29.ctl .a).header.state ≠ .filling ∧
    (bankRec state29.ctl .a).header.state ≠ .retired := by
  simp only [still_iff, takes_iff]
  decide +kernel

def state30 : State := st (withBankA (bankOf .standby []) base)
theorem witness_StoreOpensAndCloses_opened :
    Still state30.ctl ∧
    Takes state30.ctl (own [1#8, 0#8, 7#8]).src (own [1#8, 0#8, 7#8]).tag (own [1#8, 0#8, 7#8]).payload ∧
    state30.ctl.load.state = .none ∧
    (own [1#8, 0#8, 7#8]).payload = [1#8, 0#8, 7#8] ∧
    bankOfCode (1#8).toNat = some .a ∧
    state30.ctl.start.phase = .running ∧
    (bankRec state30.ctl .a).header.state ≠ .blank ∧
    (bankRec state30.ctl .a).header.season = some (rd2 0#8 7#8) ∧
    (bankRec state30.ctl .a).change ≠ .clear := by
  simp only [still_iff, takes_iff]
  decide +kernel

theorem witness_StoreOpensAndCloses_wrong_season :
    Still state30.ctl ∧
    Takes state30.ctl (own [1#8, 0#8, 6#8]).src (own [1#8, 0#8, 6#8]).tag (own [1#8, 0#8, 6#8]).payload ∧
    state30.ctl.load.state = .none ∧
    (own [1#8, 0#8, 6#8]).payload = [1#8, 0#8, 6#8] ∧
    bankOfCode (1#8).toNat = some .a ∧
    state30.ctl.start.phase = .running ∧
    (bankRec state30.ctl .a).header.season ≠ some (rd2 0#8 6#8) := by
  simp only [still_iff, takes_iff]
  decide +kernel

theorem witness_StoreOpensAndCloses_closed :
    Still state30.ctl ∧
    Takes state30.ctl (own []).src (own []).tag (own []).payload ∧
    state30.ctl.load.state = .none := by
  simp only [still_iff, takes_iff]
  decide +kernel

theorem witness_StoreFaultIsCleared_cleared :
    Still calm.ctl ∧
    Takes calm.ctl (own [1#8]).src (own [1#8]).tag (own [1#8]).payload ∧
    calm.ctl.start.phase = .running ∧
    (own [1#8]).payload = [1#8] ∧
    bankOfCode (1#8).toNat = some .a := by
  simp only [still_iff, takes_iff]
  decide +kernel

theorem witness_StoreFaultIsCleared_code_0 :
    Still calm.ctl ∧
    Takes calm.ctl (own [0#8]).src (own [0#8]).tag (own [0#8]).payload ∧
    calm.ctl.start.phase = .running ∧
    (own [0#8]).payload = [0#8] ∧
    0#8 ≠ 1#8 ∧
    0#8 ≠ 2#8 := by
  simp only [still_iff, takes_iff]
  decide +kernel

theorem witness_StoreFaultIsCleared_code_3 :
    Still calm.ctl ∧
    Takes calm.ctl (own [3#8]).src (own [3#8]).tag (own [3#8]).payload ∧
    calm.ctl.start.phase = .running ∧
    (own [3#8]).payload = [3#8] ∧
    3#8 ≠ 1#8 ∧
    3#8 ≠ 2#8 := by
  simp only [still_iff, takes_iff]
  decide +kernel

theorem witness_HoldLevelMasksStarts_level_15 :
    Still state15.ctl ∧
    Takes state15.ctl (own [15#8]).src (own [15#8]).tag (own [15#8]).payload ∧
    (own [15#8]).payload = [15#8] ∧
    state15.ctl.plan.events = [] := by
  simp only [still_iff, takes_iff]
  decide +kernel

theorem witness_HoldLevelMasksStarts_level_16 :
    Still state15.ctl ∧
    Takes state15.ctl (own [16#8]).src (own [16#8]).tag (own [16#8]).payload ∧
    (own [16#8]).payload = [16#8] ∧
    state15.ctl.plan.events = [] := by
  simp only [still_iff, takes_iff]
  decide +kernel

/-- Two STARTs, one MASKED under the present level, and an END between them. -/
def threePlanned : List Event :=
  [planned 1 1 900, { planned 2 1 950 with kind := .finish, priority := 0 }, { planned 3 1 990 with priority := 7, masked := true }]
def planOf (l : List Event) (c : Ctl) : Ctl := { c with plan := { c.plan with events := l } }

def state31 : State := st (withTime 899 (planOf threePlanned base))
theorem witness_HoldLevelMasksStarts_masked :
    (Still state31.ctl ∧
    Takes state31.ctl (own [6#8]).src (own [6#8]).tag (own [6#8]).payload ∧
    (own [6#8]).payload = [6#8] ∧
    min (6#8).toNat 15 ≠ state31.ctl.plan.holdLevel ∧
    (∀ v ∈ state31.ctl.plan.events, v.absorbed = none) ∧
    (∀ v ∈ state31.ctl.plan.events, v.kind = .finish → v.masked = false)) ∧
    (∀ now, state31.ctl.plan.time = some now → ∀ v ∈ state31.ctl.plan.events, now < v.begin_) := by
  refine ⟨?_, some_all (x := 899) rfl (by decide)⟩
  simp only [still_iff, takes_iff]
  decide +kernel

def state32 : State := st ({ withPhase .survey base with hall := { inForce := true, sources := [.push] } })
theorem witness_HallStopBeginsAndEnds_already :
    Takes state32.ctl (own []).src (own []).tag (own []).payload ∧
    Still state32.ctl ∧
    state32.ctl.hall.inForce = true := by
  simp only [still_iff, takes_iff]
  decide +kernel

theorem witness_HallStopBeginsAndEnds_now :
    Takes state16.ctl (own []).src (own []).tag (own []).payload ∧
    Calm state16.ctl ∧
    state16.ctl.gate.tx = [(1, on1)] ∧
    on1.live = true ∧
    on1.running = none ∧
    txStatic state16.ctl 1 = some tx1 ∧
    stationClass state16.ctl.site.work tx1.station = some .transmitter ∧
    txOfStation state16.ctl.site.work tx1.station = some 1 ∧
    state16.ctl.link.plantQueue.length < 32 ∧
    (∀ q ∈ state16.ctl.link.plantQueue, q.frame.dest ≠ tx1.station ∨ q.frame.verb ≠ .carrierOn) ∧
    state16.ctl.link.reports.length < 32 := by
  simp only [calm_iff, quiet_iff, still_iff, takes_iff]
  decide +kernel

def state33 : State := st ({ base with panel := { base.panel with cond := { Levels.off with push := true }, raw := { Levels.off with push := true } } })
theorem witness_HallStopBeginsAndEnds_push_on :
    Still state33.ctl ∧
    Takes state33.ctl (own []).src (own []).tag (own []).payload ∧
    state33.ctl.start.phase = .running ∧
    state33.ctl.panel.cond.push = true := by
  simp only [still_iff, takes_iff]
  decide +kernel

theorem witness_HallStopBeginsAndEnds_no_stop :
    Still calm.ctl ∧
    Takes calm.ctl (own []).src (own []).tag (own []).payload ∧
    calm.ctl.start.phase = .running ∧
    calm.ctl.panel.cond.push = false ∧
    calm.ctl.hall.inForce = false := by
  simp only [still_iff, takes_iff]
  decide +kernel

def state34 : State := st ({ base with hall := { inForce := true, sources := [.station 126] } })
theorem witness_HallStopBeginsAndEnds_ended :
    Still state34.ctl ∧
    Takes state34.ctl (own []).src (own []).tag (own []).payload ∧
    state34.ctl.start.phase = .running ∧
    state34.ctl.panel.cond.push = false ∧
    state34.ctl.hall.inForce = true ∧
    state34.ctl.plan.time = none := by
  simp only [still_iff, takes_iff]
  decide +kernel

theorem witness_TimeIsSet_second :
    Still calm.ctl ∧
    Takes calm.ctl (own [0#8, 1#8, 1#8, 81#8, 128#8]).src (own [0#8, 1#8, 1#8, 81#8, 128#8]).tag (own [0#8, 1#8, 1#8, 81#8, 128#8]).payload ∧
    (own [0#8, 1#8, 1#8, 81#8, 128#8]).payload = [0#8, 1#8, 1#8, 81#8, 128#8] ∧
    86400 ≤ rd3 1#8 81#8 128#8 := by
  simp only [still_iff, takes_iff]
  decide +kernel

def state35 : State := st (withTime 172799 base)
theorem witness_TimeIsSet_same :
    Still state35.ctl ∧
    Takes state35.ctl (own [0#8, 1#8, 1#8, 81#8, 127#8]).src (own [0#8, 1#8, 1#8, 81#8, 127#8]).tag (own [0#8, 1#8, 1#8, 81#8, 127#8]).payload ∧
    (own [0#8, 1#8, 1#8, 81#8, 127#8]).payload = [0#8, 1#8, 1#8, 81#8, 127#8] ∧
    rd3 1#8 81#8 127#8 < 86400 ∧
    state35.ctl.plan.time = some (rd2 0#8 1#8 * 86400 + rd3 1#8 81#8 127#8) := by
  simp only [still_iff, takes_iff]
  decide +kernel

theorem witness_TimeIsSet_start_up :
    Still state25.ctl ∧
    Takes state25.ctl (own [0#8, 1#8, 1#8, 81#8, 127#8]).src (own [0#8, 1#8, 1#8, 81#8, 127#8]).tag (own [0#8, 1#8, 1#8, 81#8, 127#8]).payload ∧
    (own [0#8, 1#8, 1#8, 81#8, 127#8]).payload = [0#8, 1#8, 1#8, 81#8, 127#8] ∧
    rd3 1#8 81#8 127#8 < 86400 ∧
    state25.ctl.start.phase ≠ .running ∧
    state25.ctl.plan.time = none := by
  simp only [still_iff, takes_iff]
  decide +kernel

def state36 : State := st (withPhase .adopt (withTime 172800 base))
theorem witness_TimeIsSet_step :
    Still state36.ctl ∧
    Takes state36.ctl (own [0#8, 1#8, 1#8, 81#8, 127#8]).src (own [0#8, 1#8, 1#8, 81#8, 127#8]).tag (own [0#8, 1#8, 1#8, 81#8, 127#8]).payload ∧
    (own [0#8, 1#8, 1#8, 81#8, 127#8]).payload = [0#8, 1#8, 1#8, 81#8, 127#8] ∧
    rd3 1#8 81#8 127#8 < 86400 ∧
    state36.ctl.start.phase ≠ .running ∧
    state36.ctl.plan.time = some 172800 ∧
    172800 ≠ (rd2 0#8 1#8 * 86400 + rd3 1#8 81#8 127#8) ∧
    state36.ctl.link.reports.length < 32 := by
  simp only [still_iff, takes_iff]
  decide +kernel

theorem witness_TimeIsSet_first :
    Still calm.ctl ∧
    Takes calm.ctl (own [0#8, 1#8, 1#8, 81#8, 127#8]).src (own [0#8, 1#8, 1#8, 81#8, 127#8]).tag (own [0#8, 1#8, 1#8, 81#8, 127#8]).payload ∧
    (own [0#8, 1#8, 1#8, 81#8, 127#8]).payload = [0#8, 1#8, 1#8, 81#8, 127#8] ∧
    rd3 1#8 81#8 127#8 < 86400 ∧
    calm.ctl.start.phase = .running ∧
    calm.ctl.plan.time = none ∧
    calm.ctl.plan.watch = none ∧
    activeBank calm.ctl = none ∧
    (∀ p ∈ calm.ctl.gate.tx, p.2.running = none) := by
  simp only [still_iff, takes_iff]
  decide +kernel

/-- A schedule with one occurrence under way on the evening of day 1, under a hall stop. -/
def evening : EntryRec := { id := 6, days := 127, start := 1410, duration := 600, validFrom := none, validTo := none, tx := 1, freq := 15160, ant := 1, bearing := some 1500, power := 250, feed := 1, priority := 7, spare := 0 }
def stopped : Ctl :=
  { withBankA (bankOf .active [evening]) base with hall := { inForce := true, sources := [.push] } }
def evening1 : Consider :=
  (bothEvents .a evening 1).headD { key := { time := 0, priority := 0, id := 0, day := 0, isStart := true }, occ := { bank := .a, id := 0, day := 0 }, tx := 0, start := 0, finish := 0, entry := none }

def state37 : State := st stopped
theorem witness_TimeIsSet_catch_up :
    Still state37.ctl ∧
    Takes state37.ctl (own [0#8, 1#8, 1#8, 81#8, 127#8]).src (own [0#8, 1#8, 1#8, 81#8, 127#8]).tag (own [0#8, 1#8, 1#8, 81#8, 127#8]).payload ∧
    (own [0#8, 1#8, 1#8, 81#8, 127#8]).payload = [0#8, 1#8, 1#8, 81#8, 127#8] ∧
    rd3 1#8 81#8 127#8 < 86400 ∧
    state37.ctl.start.phase = .running ∧
    state37.ctl.hall.inForce = true ∧
    state37.ctl.plan.time = none ∧
    state37.ctl.plan.watch = none ∧
    state37.ctl.plan.events = [] ∧
    activeBank state37.ctl = some .a ∧
    (∀ p ∈ state37.ctl.gate.tx, p.2.running = none) ∧
    catchUpList state37.ctl .a (scheduleEntries (bankRec state37.ctl .a)) (rd2 0#8 1#8 * 86400 + rd3 1#8 81#8 127#8) = [evening1] ∧
    (evening1).entry = some evening ∧
    scanRange { state37.ctl with plan := { state37.ctl.plan with scan := { time := (rd2 0#8 1#8 * 86400 + rd3 1#8 81#8 127#8), resume := none, left := [] } } } (min ((rd2 0#8 1#8 * 86400 + rd3 1#8 81#8 127#8) + 3600) (65536 * 86400 - 1)) = [] ∧
    siteTests state37.ctl.site.work evening = none ∧
    txStatic state37.ctl evening.tx = some tx1 ∧
    antStatic state37.ctl evening.ant = some ant1 ∧
    mapBearing state37.ctl.site.work ant1 evening.bearing = some (.bearing 1500) ∧
    state37.ctl.link.reports.length < 31 := by
  simp only [still_iff, takes_iff]
  decide +kernel

def tx2 : TxStatic := { tx1 with station := 119, row := 2, maxPower := 999 }
def ant3 : AntStatic :=
  { kind := .fixed, column := 40, drive := none, boresight := some 3599, stopBearing := none, margin := none,
    slewRate := none, settle := none, offsets := none, phasing := none }
/-- The installation with a wider matrix. -/
def wide : Ctl :=
  { base with site := { base.site with work := { tables with
      site := { tables.site with geometry := some { rows := 24, cols := 40, station := 30 } } } } }

theorem witness_SiteWriteReplacesARecord_no_kind :
    Still calm.ctl ∧
    Takes calm.ctl (own (7#8 :: 1#8 :: 1#8 :: [])).src (own (7#8 :: 1#8 :: 1#8 :: [])).tag (own (7#8 :: 1#8 :: 1#8 :: [])).payload ∧
    calm.ctl.start.phase = .running ∧
    (own (7#8 :: 1#8 :: 1#8 :: [])).payload = 7#8 :: 1#8 :: 1#8 :: [] ∧
    recordKindOf (7#8).toNat = none := by
  simp only [still_iff, takes_iff]
  decide +kernel

theorem witness_SiteWriteReplacesARecord_no_key :
    Still calm.ctl ∧
    Takes calm.ctl (own (2#8 :: 41#8 :: 1#8 :: [])).src (own (2#8 :: 41#8 :: 1#8 :: [])).tag (own (2#8 :: 41#8 :: 1#8 :: [])).payload ∧
    calm.ctl.start.phase = .running ∧
    (own (2#8 :: 41#8 :: 1#8 :: [])).payload = 2#8 :: 41#8 :: 1#8 :: [] ∧
    recordKindOf (2#8).toNat = some .antenna ∧
    keyValid .antenna (41#8).toNat = false := by
  simp only [still_iff, takes_iff]
  decide +kernel

theorem witness_SiteWriteReplacesARecord_absent_antenna :
    Still calm.ctl ∧
    Takes calm.ctl (own (3#8 :: 3#8 :: 1#8 :: [])).src (own (3#8 :: 3#8 :: 1#8 :: [])).tag (own (3#8 :: 3#8 :: 1#8 :: [])).payload ∧
    calm.ctl.start.phase = .running ∧
    (own (3#8 :: 3#8 :: 1#8 :: [])).payload = 3#8 :: 3#8 :: 1#8 :: [] ∧
    recordKindOf (3#8).toNat = some .ratings ∧
    tget (3#8).toNat calm.ctl.site.work.ant = none := by
  simp only [still_iff, takes_iff]
  decide +kernel

theorem witness_SiteWriteReplacesARecord_no_site :
    Still calm.ctl ∧
    Takes calm.ctl (own (5#8 :: 255#8 :: 0#8 :: [])).src (own (5#8 :: 255#8 :: 0#8 :: [])).tag (own (5#8 :: 255#8 :: 0#8 :: [])).payload ∧
    calm.ctl.start.phase = .running ∧
    (own (5#8 :: 255#8 :: 0#8 :: [])).payload = 5#8 :: 255#8 :: 0#8 :: [] ∧
    recordKindOf (5#8).toNat = some .site := by
  simp only [still_iff, takes_iff]
  decide +kernel

theorem witness_SiteWriteReplacesARecord_record_check :
    Still calm.ctl ∧
    Takes calm.ctl (own (4#8 :: 4#8 :: 1#8 :: siteRecOctets (.band ({ low := 9800, high := 2299 })))).src (own (4#8 :: 4#8 :: 1#8 :: siteRecOctets (.band ({ low := 9800, high := 2299 })))).tag (own (4#8 :: 4#8 :: 1#8 :: siteRecOctets (.band ({ low := 9800, high := 2299 })))).payload ∧
    calm.ctl.start.phase = .running ∧
    (own (4#8 :: 4#8 :: 1#8 :: siteRecOctets (.band ({ low := 9800, high := 2299 })))).payload = 4#8 :: 4#8 :: 1#8 :: siteRecOctets (.band ({ low := 9800, high := 2299 })) ∧
    recordKindOf (4#8).toNat = some .band ∧
    keyValid .band (4#8).toNat = true ∧
    (RecordKind.band = .ratings → (tget (4#8).toNat calm.ctl.site.work.ant).isSome = true) ∧
    1#8 = 1#8 ∧
    parseSiteRec .band (siteRecOctets (.band ({ low := 9800, high := 2299 }))) = .ok (.band ({ low := 9800, high := 2299 })) ∧
    firstFailed (recordChecks calm.ctl.site.work (4#8).toNat (.band ({ low := 9800, high := 2299 }))) = some 14 := by
  simp only [still_iff, takes_iff]
  decide +kernel

theorem witness_SiteWriteReplacesARecord_consistency :
    Still calm.ctl ∧
    Takes calm.ctl (own (4#8 :: 4#8 :: 1#8 :: siteRecOctets (.band ({ low := 9800, high := 15100 })))).src (own (4#8 :: 4#8 :: 1#8 :: siteRecOctets (.band ({ low := 9800, high := 15100 })))).tag (own (4#8 :: 4#8 :: 1#8 :: siteRecOctets (.band ({ low := 9800, high := 15100 })))).payload ∧
    calm.ctl.start.phase = .running ∧
    (own (4#8 :: 4#8 :: 1#8 :: siteRecOctets (.band ({ low := 9800, high := 15100 })))).payload = 4#8 :: 4#8 :: 1#8 :: siteRecOctets (.band ({ low := 9800, high := 15100 })) ∧
    recordKindOf (4#8).toNat = some .band ∧
    keyValid .band (4#8).toNat = true ∧
    (RecordKind.band = .ratings → (tget (4#8).toNat calm.ctl.site.work.ant).isSome = true) ∧
    1#8 = 1#8 ∧
    parseSiteRec .band (siteRecOctets (.band ({ low := 9800, high := 15100 }))) = .ok (.band ({ low := 9800, high := 15100 })) ∧
    firstFailed (recordChecks calm.ctl.site.work (4#8).toNat (.band ({ low := 9800, high := 15100 }))) = none ∧
    firstFailed (consistencyChecks ({ calm.ctl.site.work with bands := tset (4#8).toNat ({ low := 9800, high := 15100 }) calm.ctl.site.work.bands })) = some 20 := by
  simp only [still_iff, takes_iff]
  decide +kernel

theorem witness_SiteWriteReplacesARecord_same :
    Still calm.ctl ∧
    Takes calm.ctl (own (4#8 :: 3#8 :: 1#8 :: siteRecOctets (.band ({ low := 9400, high := 9900 })))).src (own (4#8 :: 3#8 :: 1#8 :: siteRecOctets (.band ({ low := 9400, high := 9900 })))).tag (own (4#8 :: 3#8 :: 1#8 :: siteRecOctets (.band ({ low := 9400, high := 9900 })))).payload ∧
    calm.ctl.start.phase = .running ∧
    (own (4#8 :: 3#8 :: 1#8 :: siteRecOctets (.band ({ low := 9400, high := 9900 })))).payload = 4#8 :: 3#8 :: 1#8 :: siteRecOctets (.band ({ low := 9400, high := 9900 })) ∧
    recordKindOf (4#8).toNat = some .band ∧
    keyValid .band (3#8).toNat = true ∧
    (RecordKind.band = .ratings → (tget (3#8).toNat calm.ctl.site.work.ant).isSome = true) ∧
    1#8 = 1#8 ∧
    parseSiteRec .band (siteRecOctets (.band ({ low := 9400, high := 9900 }))) = .ok (.band ({ low := 9400, high := 9900 })) ∧
    firstFailed (recordChecks calm.ctl.site.work (3#8).toNat (.band ({ low := 9400, high := 9900 }))) = none ∧
    firstFailed (consistencyChecks ({ calm.ctl.site.work with bands := tset (3#8).toNat ({ low := 9400, high := 9900 }) calm.ctl.site.work.bands })) = none ∧
    ({ calm.ctl.site.work with bands := tset (3#8).toNat ({ low := 9400, high := 9900 }) calm.ctl.site.work.bands }) = calm.ctl.site.work := by
  simp only [still_iff, takes_iff]
  decide +kernel

theorem witness_SiteWriteReplacesARecord_in_use :
    Still state17.ctl ∧
    Takes state17.ctl (own (1#8 :: 1#8 :: 1#8 :: siteRecOctets (.transmitter ({ tx1 with ti := 21 })))).src (own (1#8 :: 1#8 :: 1#8 :: siteRecOctets (.transmitter ({ tx1 with ti := 21 })))).tag (own (1#8 :: 1#8 :: 1#8 :: siteRecOctets (.transmitter ({ tx1 with ti := 21 })))).payload ∧
    state17.ctl.start.phase = .running ∧
    (own (1#8 :: 1#8 :: 1#8 :: siteRecOctets (.transmitter ({ tx1 with ti := 21 })))).payload = 1#8 :: 1#8 :: 1#8 :: siteRecOctets (.transmitter ({ tx1 with ti := 21 })) ∧
    recordKindOf (1#8).toNat = some .transmitter ∧
    keyValid .transmitter (1#8).toNat = true ∧
    (RecordKind.transmitter = .ratings → (tget (1#8).toNat state17.ctl.site.work.ant).isSome = true) ∧
    1#8 = 1#8 ∧
    parseSiteRec .transmitter (siteRecOctets (.transmitter ({ tx1 with ti := 21 }))) = .ok (.transmitter ({ tx1 with ti := 21 })) ∧
    firstFailed (recordChecks state17.ctl.site.work (1#8).toNat (.transmitter ({ tx1 with ti := 21 }))) = none ∧
    firstFailed (consistencyChecks ({ state17.ctl.site.work with tx := tset (1#8).toNat ({ tx1 with ti := 21 }) state17.ctl.site.work.tx })) = none ∧
    ({ state17.ctl.site.work with tx := tset (1#8).toNat ({ tx1 with ti := 21 }) state17.ctl.site.work.tx }) ≠ state17.ctl.site.work ∧
    useRefusal state17.ctl ({ state17.ctl.site.work with tx := tset (1#8).toNat ({ tx1 with ti := 21 }) state17.ctl.site.work.tx }) .transmitter (1#8).toNat = some .inUse := by
  simp only [still_iff, takes_iff]
  decide +kernel

theorem witness_SiteWriteReplacesARecord_transmitter_kept :
    Still calm.ctl ∧
    Takes calm.ctl (own (1#8 :: 1#8 :: 1#8 :: siteRecOctets (.transmitter ({ tx1 with ti := 21 })))).src (own (1#8 :: 1#8 :: 1#8 :: siteRecOctets (.transmitter ({ tx1 with ti := 21 })))).tag (own (1#8 :: 1#8 :: 1#8 :: siteRecOctets (.transmitter ({ tx1 with ti := 21 })))).payload ∧
    calm.ctl.start.phase = .running ∧
    (own (1#8 :: 1#8 :: 1#8 :: siteRecOctets (.transmitter ({ tx1 with ti := 21 })))).payload = 1#8 :: 1#8 :: 1#8 :: siteRecOctets (.transmitter ({ tx1 with ti := 21 })) ∧
    recordKindOf (1#8).toNat = some .transmitter ∧
    keyValid .transmitter (1#8).toNat = true ∧
    (RecordKind.transmitter = .ratings → (tget (1#8).toNat calm.ctl.site.work.ant).isSome = true) ∧
    1#8 = 1#8 ∧
    parseSiteRec .transmitter (siteRecOctets (.transmitter ({ tx1 with ti := 21 }))) = .ok (.transmitter ({ tx1 with ti := 21 })) ∧
    firstFailed (recordChecks calm.ctl.site.work (1#8).toNat (.transmitter ({ tx1 with ti := 21 }))) = none ∧
    Calm calm.ctl ∧
    firstFailed (consistencyChecks ({ calm.ctl.site.work with tx := tset (1#8).toNat ({ tx1 with ti := 21 }) calm.ctl.site.work.tx })) = none ∧
    ({ calm.ctl.site.work with tx := tset (1#8).toNat ({ tx1 with ti := 21 }) calm.ctl.site.work.tx }) ≠ calm.ctl.site.work ∧
    useRefusal calm.ctl ({ calm.ctl.site.work with tx := tset (1#8).toNat ({ tx1 with ti := 21 }) calm.ctl.site.work.tx }) .transmitter (1#8).toNat = none ∧
    (tget (1#8).toNat calm.ctl.site.work.tx).map (·.station) = some ({ tx1 with ti := 21 } : TxStatic).station := by
  simp only [calm_iff, quiet_iff, still_iff, takes_iff]
  decide +kernel

theorem witness_SiteWriteReplacesARecord_transmitter_new :
    Still calm.ctl ∧
    Takes calm.ctl (own (1#8 :: 24#8 :: 1#8 :: siteRecOctets (.transmitter (tx2)))).src (own (1#8 :: 24#8 :: 1#8 :: siteRecOctets (.transmitter (tx2)))).tag (own (1#8 :: 24#8 :: 1#8 :: siteRecOctets (.transmitter (tx2)))).payload ∧
    calm.ctl.start.phase = .running ∧
    (own (1#8 :: 24#8 :: 1#8 :: siteRecOctets (.transmitter (tx2)))).payload = 1#8 :: 24#8 :: 1#8 :: siteRecOctets (.transmitter (tx2)) ∧
    recordKindOf (1#8).toNat = some .transmitter ∧
    keyValid .transmitter (24#8).toNat = true ∧
    (RecordKind.transmitter = .ratings → (tget (24#8).toNat calm.ctl.site.work.ant).isSome = true) ∧
    1#8 = 1#8 ∧
    parseSiteRec .transmitter (siteRecOctets (.transmitter (tx2))) = .ok (.transmitter (tx2)) ∧
    firstFailed (recordChecks calm.ctl.site.work (24#8).toNat (.transmitter (tx2))) = none ∧
    Calm calm.ctl ∧
    firstFailed (consistencyChecks ({ calm.ctl.site.work with tx := tset (24#8).toNat (tx2) calm.ctl.site.work.tx })) = none ∧
    ({ calm.ctl.site.work with tx := tset (24#8).toNat (tx2) calm.ctl.site.work.tx }) ≠ calm.ctl.site.work ∧
    useRefusal calm.ctl ({ calm.ctl.site.work with tx := tset (24#8).toNat (tx2) calm.ctl.site.work.tx }) .transmitter (24#8).toNat = none ∧
    (tget (24#8).toNat calm.ctl.site.work.tx).map (·.station) ≠ some tx2.station ∧
    stationClass ({ calm.ctl.site.work with tx := tset (24#8).toNat (tx2) calm.ctl.site.work.tx }) tx2.station = some .transmitter ∧
    txOfStation ({ calm.ctl.site.work with tx := tset (24#8).toNat (tx2) calm.ctl.site.work.tx }) tx2.station = some (24#8).toNat ∧
    calm.ctl.link.plantQueue.length < 32 := by
  simp only [calm_iff, quiet_iff, still_iff, takes_iff]
  decide +kernel

theorem witness_SiteWriteReplacesARecord_antenna_kept :
    Still calm.ctl ∧
    Takes calm.ctl (own (2#8 :: 2#8 :: 1#8 :: siteRecOctets (.antenna ({ ant2 with offsets := some [-100, 0] })))).src (own (2#8 :: 2#8 :: 1#8 :: siteRecOctets (.antenna ({ ant2 with offsets := some [-100, 0] })))).tag (own (2#8 :: 2#8 :: 1#8 :: siteRecOctets (.antenna ({ ant2 with offsets := some [-100, 0] })))).payload ∧
    calm.ctl.start.phase = .running ∧
    (own (2#8 :: 2#8 :: 1#8 :: siteRecOctets (.antenna ({ ant2 with offsets := some [-100, 0] })))).payload = 2#8 :: 2#8 :: 1#8 :: siteRecOctets (.antenna ({ ant2 with offsets := some [-100, 0] })) ∧
    recordKindOf (2#8).toNat = some .antenna ∧
    keyValid .antenna (2#8).toNat = true ∧
    (RecordKind.antenna = .ratings → (tget (2#8).toNat calm.ctl.site.work.ant).isSome = true) ∧
    1#8 = 1#8 ∧
    parseSiteRec .antenna (siteRecOctets (.antenna ({ ant2 with offsets := some [-100, 0] }))) = .ok (.antenna ({ ant2 with offsets := some [-100, 0] })) ∧
    firstFailed (recordChecks calm.ctl.site.work (2#8).toNat (.antenna ({ ant2 with offsets := some [-100, 0] }))) = none ∧
    Calm calm.ctl ∧
    firstFailed (consistencyChecks ({ calm.ctl.site.work with ant := tset (2#8).toNat ({ ant2 with offsets := some [-100, 0] }) calm.ctl.site.work.ant, ratings := if (tget (2#8).toNat calm.ctl.site.work.ratings).isSome = true then calm.ctl.site.work.ratings else tset (2#8).toNat (List.replicate 16 0) calm.ctl.site.work.ratings })) = none ∧
    ({ calm.ctl.site.work with ant := tset (2#8).toNat ({ ant2 with offsets := some [-100, 0] }) calm.ctl.site.work.ant, ratings := if (tget (2#8).toNat calm.ctl.site.work.ratings).isSome = true then calm.ctl.site.work.ratings else tset (2#8).toNat (List.replicate 16 0) calm.ctl.site.work.ratings }) ≠ calm.ctl.site.work ∧
    useRefusal calm.ctl ({ calm.ctl.site.work with ant := tset (2#8).toNat ({ ant2 with offsets := some [-100, 0] }) calm.ctl.site.work.ant, ratings := if (tget (2#8).toNat calm.ctl.site.work.ratings).isSome = true then calm.ctl.site.work.ratings else tset (2#8).toNat (List.replicate 16 0) calm.ctl.site.work.ratings }) .antenna (2#8).toNat = none ∧
    tget (2#8).toNat calm.ctl.site.work.ant = some ant2 ∧
    ant2.kind = ({ ant2 with offsets := some [-100, 0] } : AntStatic).kind ∧
    ant2.drive = ({ ant2 with offsets := some [-100, 0] } : AntStatic).drive := by
  simp only [calm_iff, quiet_iff, still_iff, takes_iff]
  decide +kernel

def state38 : State := st wide
theorem witness_SiteWriteReplacesARecord_antenna_new :
    (Still state38.ctl ∧
    Takes state38.ctl (own (2#8 :: 40#8 :: 1#8 :: siteRecOctets (.antenna (ant3)))).src (own (2#8 :: 40#8 :: 1#8 :: siteRecOctets (.antenna (ant3)))).tag (own (2#8 :: 40#8 :: 1#8 :: siteRecOctets (.antenna (ant3)))).payload ∧
    state38.ctl.start.phase = .running ∧
    (own (2#8 :: 40#8 :: 1#8 :: siteRecOctets (.antenna (ant3)))).payload = 2#8 :: 40#8 :: 1#8 :: siteRecOctets (.antenna (ant3)) ∧
    recordKindOf (2#8).toNat = some .antenna ∧
    keyValid .antenna (40#8).toNat = true ∧
    (RecordKind.antenna = .ratings → (tget (40#8).toNat state38.ctl.site.work.ant).isSome = true) ∧
    1#8 = 1#8 ∧
    parseSiteRec .antenna (siteRecOctets (.antenna (ant3))) = .ok (.antenna (ant3)) ∧
    firstFailed (recordChecks state38.ctl.site.work (40#8).toNat (.antenna (ant3))) = none ∧
    Calm state38.ctl ∧
    firstFailed (consistencyChecks ({ state38.ctl.site.work with ant := tset (40#8).toNat (ant3) state38.ctl.site.work.ant, ratings := if (tget (40#8).toNat state38.ctl.site.work.ratings).isSome = true then state38.ctl.site.work.ratings else tset (40#8).toNat (List.replicate 16 0) state38.ctl.site.work.ratings })) = none ∧
    ({ state38.ctl.site.work with ant := tset (40#8).toNat (ant3) state38.ctl.site.work.ant, ratings := if (tget (40#8).toNat state38.ctl.site.work.ratings).isSome = true then state38.ctl.site.work.ratings else tset (40#8).toNat (List.replicate 16 0) state38.ctl.site.work.ratings }) ≠ state38.ctl.site.work ∧
    useRefusal state38.ctl ({ state38.ctl.site.work with ant := tset (40#8).toNat (ant3) state38.ctl.site.work.ant, ratings := if (tget (40#8).toNat state38.ctl.site.work.ratings).isSome = true then state38.ctl.site.work.ratings else tset (40#8).toNat (List.replicate 16 0) state38.ctl.site.work.ratings }) .antenna (40#8).toNat = none ∧
    ant3.drive = none) ∧
    (∀ y, tget (40#8).toNat state38.ctl.site.work.ant = some y → y.kind ≠ ant3.kind ∨ y.drive ≠ ant3.drive) := by
  refine ⟨?_, none_all (by decide)⟩
  simp only [calm_iff, quiet_iff, still_iff, takes_iff]
  decide +kernel

theorem witness_SiteWriteReplacesARecord_antenna_drive :
    (Still state38.ctl ∧
    Takes state38.ctl (own (2#8 :: 2#8 :: 1#8 :: siteRecOctets (.antenna ({ ant2 with column := 40, drive := some 119 })))).src (own (2#8 :: 2#8 :: 1#8 :: siteRecOctets (.antenna ({ ant2 with column := 40, drive := some 119 })))).tag (own (2#8 :: 2#8 :: 1#8 :: siteRecOctets (.antenna ({ ant2 with column := 40, drive := some 119 })))).payload ∧
    state38.ctl.start.phase = .running ∧
    (own (2#8 :: 2#8 :: 1#8 :: siteRecOctets (.antenna ({ ant2 with column := 40, drive := some 119 })))).payload = 2#8 :: 2#8 :: 1#8 :: siteRecOctets (.antenna ({ ant2 with column := 40, drive := some 119 })) ∧
    recordKindOf (2#8).toNat = some .antenna ∧
    keyValid .antenna (2#8).toNat = true ∧
    (RecordKind.antenna = .ratings → (tget (2#8).toNat state38.ctl.site.work.ant).isSome = true) ∧
    1#8 = 1#8 ∧
    parseSiteRec .antenna (siteRecOctets (.antenna ({ ant2 with column := 40, drive := some 119 }))) = .ok (.antenna ({ ant2 with column := 40, drive := some 119 })) ∧
    firstFailed (recordChecks state38.ctl.site.work (2#8).toNat (.antenna ({ ant2 with column := 40, drive := some 119 }))) = none ∧
    Calm state38.ctl ∧
    firstFailed (consistencyChecks ({ state38.ctl.site.work with ant := tset (2#8).toNat ({ ant2 with column := 40, drive := some 119 }) state38.ctl.site.work.ant, ratings := if (tget (2#8).toNat state38.ctl.site.work.ratings).isSome = true then state38.ctl.site.work.ratings else tset (2#8).toNat (List.replicate 16 0) state38.ctl.site.work.ratings })) = none ∧
    ({ state38.ctl.site.work with ant := tset (2#8).toNat ({ ant2 with column := 40, drive := some 119 }) state38.ctl.site.work.ant, ratings := if (tget (2#8).toNat state38.ctl.site.work.ratings).isSome = true then state38.ctl.site.work.ratings else tset (2#8).toNat (List.replicate 16 0) state38.ctl.site.work.ratings }) ≠ state38.ctl.site.work ∧
    useRefusal state38.ctl ({ state38.ctl.site.work with ant := tset (2#8).toNat ({ ant2 with column := 40, drive := some 119 }) state38.ctl.site.work.ant, ratings := if (tget (2#8).toNat state38.ctl.site.work.ratings).isSome = true then state38.ctl.site.work.ratings else tset (2#8).toNat (List.replicate 16 0) state38.ctl.site.work.ratings }) .antenna (2#8).toNat = none ∧
    ({ ant2 with column := 40, drive := some 119 } : AntStatic).drive = some 119 ∧
    stationClass ({ state38.ctl.site.work with ant := tset (2#8).toNat ({ ant2 with column := 40, drive := some 119 }) state38.ctl.site.work.ant, ratings := if (tget (2#8).toNat state38.ctl.site.work.ratings).isSome = true then state38.ctl.site.work.ratings else tset (2#8).toNat (List.replicate 16 0) state38.ctl.site.work.ratings }) 119 = some .drive ∧
    antOfDrive ({ state38.ctl.site.work with ant := tset (2#8).toNat ({ ant2 with column := 40, drive := some 119 }) state38.ctl.site.work.ant, ratings := if (tget (2#8).toNat state38.ctl.site.work.ratings).isSome = true then state38.ctl.site.work.ratings else tset (2#8).toNat (List.replicate 16 0) state38.ctl.site.work.ratings }) 119 = some (2#8).toNat ∧
    state38.ctl.link.plantQueue.length < 32) ∧
    (∀ y, tget (2#8).toNat state38.ctl.site.work.ant = some y → y.kind ≠ ({ ant2 with column := 40, drive := some 119 } : AntStatic).kind ∨ y.drive ≠ ({ ant2 with column := 40, drive := some 119 } : AntStatic).drive) := by
  refine ⟨?_, some_all (x := ant2) rfl (by decide)⟩
  simp only [calm_iff, quiet_iff, still_iff, takes_iff]
  decide +kernel

theorem witness_SiteWriteReplacesARecord_ratings :
    Still calm.ctl ∧
    Takes calm.ctl (own (3#8 :: 1#8 :: 1#8 :: siteRecOctets (.ratings (List.replicate 16 999)))).src (own (3#8 :: 1#8 :: 1#8 :: siteRecOctets (.ratings (List.replicate 16 999)))).tag (own (3#8 :: 1#8 :: 1#8 :: siteRecOctets (.ratings (List.replicate 16 999)))).payload ∧
    calm.ctl.start.phase = .running ∧
    (own (3#8 :: 1#8 :: 1#8 :: siteRecOctets (.ratings (List.replicate 16 999)))).payload = 3#8 :: 1#8 :: 1#8 :: siteRecOctets (.ratings (List.replicate 16 999)) ∧
    recordKindOf (3#8).toNat = some .ratings ∧
    keyValid .ratings (1#8).toNat = true ∧
    (RecordKind.ratings = .ratings → (tget (1#8).toNat calm.ctl.site.work.ant).isSome = true) ∧
    1#8 = 1#8 ∧
    parseSiteRec .ratings (siteRecOctets (.ratings (List.replicate 16 999))) = .ok (.ratings (List.replicate 16 999)) ∧
    firstFailed (recordChecks calm.ctl.site.work (1#8).toNat (.ratings (List.replicate 16 999))) = none ∧
    Calm calm.ctl ∧
    firstFailed (consistencyChecks ({ calm.ctl.site.work with ratings := tset (1#8).toNat (List.replicate 16 999) calm.ctl.site.work.ratings })) = none ∧
    ({ calm.ctl.site.work with ratings := tset (1#8).toNat (List.replicate 16 999) calm.ctl.site.work.ratings }) ≠ calm.ctl.site.work ∧
    useRefusal calm.ctl ({ calm.ctl.site.work with ratings := tset (1#8).toNat (List.replicate 16 999) calm.ctl.site.work.ratings }) .ratings (1#8).toNat = none ∧
    columnPaths calm.ctl (1#8).toNat = [] := by
  simp only [calm_iff, quiet_iff, still_iff, takes_iff]
  decide +kernel

theorem witness_SiteWriteReplacesARecord_band :
    Still calm.ctl ∧
    Takes calm.ctl (own (4#8 :: 1#8 :: 1#8 :: siteRecOctets (.band ({ low := 2300, high := 2300 })))).src (own (4#8 :: 1#8 :: 1#8 :: siteRecOctets (.band ({ low := 2300, high := 2300 })))).tag (own (4#8 :: 1#8 :: 1#8 :: siteRecOctets (.band ({ low := 2300, high := 2300 })))).payload ∧
    calm.ctl.start.phase = .running ∧
    (own (4#8 :: 1#8 :: 1#8 :: siteRecOctets (.band ({ low := 2300, high := 2300 })))).payload = 4#8 :: 1#8 :: 1#8 :: siteRecOctets (.band ({ low := 2300, high := 2300 })) ∧
    recordKindOf (4#8).toNat = some .band ∧
    keyValid .band (1#8).toNat = true ∧
    (RecordKind.band = .ratings → (tget (1#8).toNat calm.ctl.site.work.ant).isSome = true) ∧
    1#8 = 1#8 ∧
    parseSiteRec .band (siteRecOctets (.band ({ low := 2300, high := 2300 }))) = .ok (.band ({ low := 2300, high := 2300 })) ∧
    firstFailed (recordChecks calm.ctl.site.work (1#8).toNat (.band ({ low := 2300, high := 2300 }))) = none ∧
    Calm calm.ctl ∧
    firstFailed (consistencyChecks ({ calm.ctl.site.work with bands := tset (1#8).toNat ({ low := 2300, high := 2300 }) calm.ctl.site.work.bands })) = none ∧
    ({ calm.ctl.site.work with bands := tset (1#8).toNat ({ low := 2300, high := 2300 }) calm.ctl.site.work.bands }) ≠ calm.ctl.site.work ∧
    useRefusal calm.ctl ({ calm.ctl.site.work with bands := tset (1#8).toNat ({ low := 2300, high := 2300 }) calm.ctl.site.work.bands }) .band (1#8).toNat = none := by
  simp only [calm_iff, quiet_iff, still_iff, takes_iff]
  decide +kernel

def state39 : State := st (withXp 2 2 closed (withXp 1 1 opened base))
theorem witness_SiteWriteReplacesARecord_site :
    Still state39.ctl ∧
    Takes state39.ctl (own (5#8 :: 255#8 :: 1#8 :: siteRecOctets (.site ({ tables.site with sx := 20, tolerance := 150 })))).src (own (5#8 :: 255#8 :: 1#8 :: siteRecOctets (.site ({ tables.site with sx := 20, tolerance := 150 })))).tag (own (5#8 :: 255#8 :: 1#8 :: siteRecOctets (.site ({ tables.site with sx := 20, tolerance := 150 })))).payload ∧
    state39.ctl.start.phase = .running ∧
    (own (5#8 :: 255#8 :: 1#8 :: siteRecOctets (.site ({ tables.site with sx := 20, tolerance := 150 })))).payload = 5#8 :: 255#8 :: 1#8 :: siteRecOctets (.site ({ tables.site with sx := 20, tolerance := 150 })) ∧
    recordKindOf (5#8).toNat = some .site ∧
    keyValid .site (255#8).toNat = true ∧
    (RecordKind.site = .ratings → (tget (255#8).toNat state39.ctl.site.work.ant).isSome = true) ∧
    1#8 = 1#8 ∧
    parseSiteRec .site (siteRecOctets (.site ({ tables.site with sx := 20, tolerance := 150 }))) = .ok (.site ({ tables.site with sx := 20, tolerance := 150 })) ∧
    firstFailed (recordChecks state39.ctl.site.work (255#8).toNat (.site ({ tables.site with sx := 20, tolerance := 150 }))) = none ∧
    Calm state39.ctl ∧
    firstFailed (consistencyChecks ({ state39.ctl.site.work with site := { tables.site with sx := 20, tolerance := 150 } })) = none ∧
    ({ state39.ctl.site.work with site := { tables.site with sx := 20, tolerance := 150 } }) ≠ state39.ctl.site.work ∧
    useRefusal state39.ctl ({ state39.ctl.site.work with site := { tables.site with sx := 20, tolerance := 150 } }) .site (255#8).toNat = none := by
  simp only [calm_iff, quiet_iff, still_iff, takes_iff]
  decide +kernel

theorem witness_SiteWriteReplacesARecord_auxiliary :
    Still calm.ctl ∧
    Takes calm.ctl (own (6#8 :: 119#8 :: 1#8 :: siteRecOctets (.auxiliary))).src (own (6#8 :: 119#8 :: 1#8 :: siteRecOctets (.auxiliary))).tag (own (6#8 :: 119#8 :: 1#8 :: siteRecOctets (.auxiliary))).payload ∧
    calm.ctl.start.phase = .running ∧
    (own (6#8 :: 119#8 :: 1#8 :: siteRecOctets (.auxiliary))).payload = 6#8 :: 119#8 :: 1#8 :: siteRecOctets (.auxiliary) ∧
    recordKindOf (6#8).toNat = some .auxiliary ∧
    keyValid .auxiliary (119#8).toNat = true ∧
    (RecordKind.auxiliary = .ratings → (tget (119#8).toNat calm.ctl.site.work.ant).isSome = true) ∧
    1#8 = 1#8 ∧
    parseSiteRec .auxiliary (siteRecOctets (.auxiliary)) = .ok (.auxiliary) ∧
    firstFailed (recordChecks calm.ctl.site.work (119#8).toNat (.auxiliary)) = none ∧
    Calm calm.ctl ∧
    firstFailed (consistencyChecks ({ calm.ctl.site.work with aux := nins (119#8).toNat calm.ctl.site.work.aux })) = none ∧
    ({ calm.ctl.site.work with aux := nins (119#8).toNat calm.ctl.site.work.aux }) ≠ calm.ctl.site.work ∧
    useRefusal calm.ctl ({ calm.ctl.site.work with aux := nins (119#8).toNat calm.ctl.site.work.aux }) .auxiliary (119#8).toNat = none := by
  simp only [calm_iff, quiet_iff, still_iff, takes_iff]
  decide +kernel

theorem witness_SiteWriteReplacesARecord_removed_transmitter :
    Still calm.ctl ∧
    Takes calm.ctl (own (1#8 :: 1#8 :: 0#8 :: [])).src (own (1#8 :: 1#8 :: 0#8 :: [])).tag (own (1#8 :: 1#8 :: 0#8 :: [])).payload ∧
    calm.ctl.start.phase = .running ∧
    (own (1#8 :: 1#8 :: 0#8 :: [])).payload = 1#8 :: 1#8 :: 0#8 :: [] ∧
    recordKindOf (1#8).toNat = some .transmitter ∧
    keyValid .transmitter (1#8).toNat = true ∧
    (RecordKind.transmitter = .ratings → (tget (1#8).toNat calm.ctl.site.work.ant).isSome = true) ∧
    Calm calm.ctl ∧
    firstFailed (consistencyChecks ({ calm.ctl.site.work with tx := terase (1#8).toNat calm.ctl.site.work.tx })) = none ∧
    ({ calm.ctl.site.work with tx := terase (1#8).toNat calm.ctl.site.work.tx }) ≠ calm.ctl.site.work ∧
    useRefusal calm.ctl ({ calm.ctl.site.work with tx := terase (1#8).toNat calm.ctl.site.work.tx }) .transmitter (1#8).toNat = none ∧
    (tget (1#8).toNat calm.ctl.site.work.tx).isSome = true := by
  simp only [calm_iff, quiet_iff, still_iff, takes_iff]
  decide +kernel

theorem witness_SiteWriteReplacesARecord_removed_antenna :
    Still calm.ctl ∧
    Takes calm.ctl (own (2#8 :: 1#8 :: 0#8 :: [])).src (own (2#8 :: 1#8 :: 0#8 :: [])).tag (own (2#8 :: 1#8 :: 0#8 :: [])).payload ∧
    calm.ctl.start.phase = .running ∧
    (own (2#8 :: 1#8 :: 0#8 :: [])).payload = 2#8 :: 1#8 :: 0#8 :: [] ∧
    recordKindOf (2#8).toNat = some .antenna ∧
    keyValid .antenna (1#8).toNat = true ∧
    (RecordKind.antenna = .ratings → (tget (1#8).toNat calm.ctl.site.work.ant).isSome = true) ∧
    Calm calm.ctl ∧
    firstFailed (consistencyChecks ({ calm.ctl.site.work with ant := terase (1#8).toNat calm.ctl.site.work.ant, ratings := terase (1#8).toNat calm.ctl.site.work.ratings })) = none ∧
    ({ calm.ctl.site.work with ant := terase (1#8).toNat calm.ctl.site.work.ant, ratings := terase (1#8).toNat calm.ctl.site.work.ratings }) ≠ calm.ctl.site.work ∧
    useRefusal calm.ctl ({ calm.ctl.site.work with ant := terase (1#8).toNat calm.ctl.site.work.ant, ratings := terase (1#8).toNat calm.ctl.site.work.ratings }) .antenna (1#8).toNat = none := by
  simp only [calm_iff, quiet_iff, still_iff, takes_iff]
  decide +kernel

theorem witness_SiteWriteReplacesARecord_removed_band :
    Still calm.ctl ∧
    Takes calm.ctl (own (4#8 :: 5#8 :: 0#8 :: [])).src (own (4#8 :: 5#8 :: 0#8 :: [])).tag (own (4#8 :: 5#8 :: 0#8 :: [])).payload ∧
    calm.ctl.start.phase = .running ∧
    (own (4#8 :: 5#8 :: 0#8 :: [])).payload = 4#8 :: 5#8 :: 0#8 :: [] ∧
    recordKindOf (4#8).toNat = some .band ∧
    keyValid .band (5#8).toNat = true ∧
    (RecordKind.band = .ratings → (tget (5#8).toNat calm.ctl.site.work.ant).isSome = true) ∧
    Calm calm.ctl ∧
    firstFailed (consistencyChecks ({ calm.ctl.site.work with bands := terase (5#8).toNat calm.ctl.site.work.bands })) = none ∧
    ({ calm.ctl.site.work with bands := terase (5#8).toNat calm.ctl.site.work.bands }) ≠ calm.ctl.site.work ∧
    useRefusal calm.ctl ({ calm.ctl.site.work with bands := terase (5#8).toNat calm.ctl.site.work.bands }) .band (5#8).toNat = none := by
  simp only [calm_iff, quiet_iff, still_iff, takes_iff]
  decide +kernel

theorem witness_SiteWriteReplacesARecord_removed_auxiliary :
    Still calm.ctl ∧
    Takes calm.ctl (own (6#8 :: 40#8 :: 0#8 :: [])).src (own (6#8 :: 40#8 :: 0#8 :: [])).tag (own (6#8 :: 40#8 :: 0#8 :: [])).payload ∧
    calm.ctl.start.phase = .running ∧
    (own (6#8 :: 40#8 :: 0#8 :: [])).payload = 6#8 :: 40#8 :: 0#8 :: [] ∧
    recordKindOf (6#8).toNat = some .auxiliary ∧
    keyValid .auxiliary (40#8).toNat = true ∧
    (RecordKind.auxiliary = .ratings → (tget (40#8).toNat calm.ctl.site.work.ant).isSome = true) ∧
    Calm calm.ctl ∧
    firstFailed (consistencyChecks ({ calm.ctl.site.work with aux := ndel (40#8).toNat calm.ctl.site.work.aux })) = none ∧
    ({ calm.ctl.site.work with aux := ndel (40#8).toNat calm.ctl.site.work.aux }) ≠ calm.ctl.site.work ∧
    useRefusal calm.ctl ({ calm.ctl.site.work with aux := ndel (40#8).toNat calm.ctl.site.work.aux }) .auxiliary (40#8).toNat = none := by
  simp only [calm_iff, quiet_iff, still_iff, takes_iff]
  decide +kernel

theorem witness_SiteWriteReplacesARecord_removed_nothing :
    Still calm.ctl ∧
    Takes calm.ctl (own (4#8 :: 4#8 :: 0#8 :: [])).src (own (4#8 :: 4#8 :: 0#8 :: [])).tag (own (4#8 :: 4#8 :: 0#8 :: [])).payload ∧
    calm.ctl.start.phase = .running ∧
    (own (4#8 :: 4#8 :: 0#8 :: [])).payload = 4#8 :: 4#8 :: 0#8 :: [] ∧
    recordKindOf (4#8).toNat = some .band ∧
    keyValid .band (4#8).toNat = true ∧
    (RecordKind.band = .ratings → (tget (4#8).toNat calm.ctl.site.work.ant).isSome = true) ∧
    firstFailed (consistencyChecks ({ calm.ctl.site.work with bands := terase (4#8).toNat calm.ctl.site.work.bands })) = none ∧
    ({ calm.ctl.site.work with bands := terase (4#8).toNat calm.ctl.site.work.bands }) = calm.ctl.site.work := by
  simp only [still_iff, takes_iff]
  decide +kernel

/-- Every crosspoint of row 1 is OPEN, and the movement slots are taken. -/
def ready1 : Ctl := slotsTaken (withXp 1 1 opened base)
/-- Row 1 and column 1 are OPEN, and one movement slot is free. -/
def oneSlot : Ctl :=
  let c := withXp 1 1 opened (withXp 1 2 opened (withXp 2 1 opened base))
  { c with matrix := { c.matrix with slots := [move 1, move 2, move 3] } }
/-- The path of row 1 stands CLOSED, and the movement slots are taken. -/
def standing : Ctl := slotsTaken (withXp 1 1 closed (withPath path1 base))

theorem witness_PathSetSetsAPath_refused_numbers :
    Takes calm.ctl (own [1#8, 41#8]).src (own [1#8, 41#8]).tag (own [1#8, 41#8]).payload ∧
    (own [1#8, 41#8]).payload = [1#8, 41#8] ∧
    Still calm.ctl ∧
    pathSetCheck (1#8).toNat (41#8).toNat calm.ctl = some (.badRecord, [0#8]) := by
  simp only [still_iff, takes_iff]
  decide +kernel

theorem witness_PathSetSetsAPath_refused_absent :
    Takes calm.ctl (own [1#8, 40#8]).src (own [1#8, 40#8]).tag (own [1#8, 40#8]).payload ∧
    (own [1#8, 40#8]).payload = [1#8, 40#8] ∧
    Still calm.ctl ∧
    pathSetCheck (1#8).toNat (40#8).toNat calm.ctl = some (.unknownPlant, []) := by
  simp only [still_iff, takes_iff]
  decide +kernel

def state40 : State := st (withPath { path1 with owner := .idle } base)
theorem witness_PathSetSetsAPath_kept :
    Takes state40.ctl (own [1#8, 1#8]).src (own [1#8, 1#8]).tag (own [1#8, 1#8]).payload ∧
    (own [1#8, 1#8]).payload = [1#8, 1#8] ∧
    pathSetCheck (1#8).toNat (1#8).toNat state40.ctl = none ∧
    Still state40.ctl ∧
    claimPath state40.ctl (1#8).toNat = some { path1 with owner := .idle } ∧
    ({ path1 with owner := .idle } : Path).ant = (1#8).toNat ∧
    ({ path1 with owner := .idle } : Path).state = .proven ∧
    (∀ x ∈ state40.ctl.cu, x.2.busy = true → x.2.phase ≠ .releasing ∧ x.2.phase ≠ .awaitAntenna) := by
  simp only [still_iff, takes_iff]
  decide +kernel

def state41 : State := st ready1
theorem witness_PathSetSetsAPath_new :
    Takes state41.ctl (own [1#8, 1#8]).src (own [1#8, 1#8]).tag (own [1#8, 1#8]).payload ∧
    (own [1#8, 1#8]).payload = [1#8, 1#8] ∧
    pathSetCheck (1#8).toNat (1#8).toNat state41.ctl = none ∧
    Calm state41.ctl ∧
    claimPath state41.ctl (1#8).toNat = none ∧
    txStatic state41.ctl (1#8).toNat = some tx1 ∧
    antStatic state41.ctl (1#8).toNat = some ant1 ∧
    columnClaim state41.ctl (1#8).toNat ant1.column = none ∧
    (xpAt state41.ctl tx1.row ant1.column).state = .opened ∧
    (∀ p ∈ state41.ctl.matrix.paths, p.pid < state41.ctl.matrix.nextPid) ∧
    freeSlotOf state41.ctl.matrix = none := by
  simp only [calm_iff, quiet_iff, still_iff, takes_iff]
  decide +kernel

def state42 : State := st oneSlot
theorem witness_PathSetSetsAPath_granted :
    Takes state42.ctl (own [1#8, 1#8]).src (own [1#8, 1#8]).tag (own [1#8, 1#8]).payload ∧
    (own [1#8, 1#8]).payload = [1#8, 1#8] ∧
    pathSetCheck (1#8).toNat (1#8).toNat state42.ctl = none ∧
    Calm state42.ctl ∧
    claimPath state42.ctl (1#8).toNat = none ∧
    txStatic state42.ctl (1#8).toNat = some tx1 ∧
    antStatic state42.ctl (1#8).toNat = some ant1 ∧
    columnClaim state42.ctl (1#8).toNat ant1.column = none ∧
    (xpAt state42.ctl tx1.row ant1.column).state = .opened ∧
    (∀ p ∈ state42.ctl.matrix.paths, p.pid < state42.ctl.matrix.nextPid) ∧
    freeSlotOf state42.ctl.matrix = some 4 ∧
    (∀ q ∈ rowColOthers state42.ctl.site.work tx1.row ant1.column, (xpAt state42.ctl q.1 q.2).state = .opened) ∧
    rowOff state42.ctl tx1.row = true ∧
    antOfCol state42.ctl.site.work ant1.column = some (1#8).toNat ∧
    lockedOut state42.ctl (1#8).toNat = false ∧
    matrixStation state42.ctl.site.work = some 30 ∧
    stationClass state42.ctl.site.work 30 = some .matrix ∧
    xpBase tx1.row ant1.column ≤ 3839 ∧
    state42.ctl.link.plantQueue.length < 32 := by
  simp only [calm_iff, quiet_iff, still_iff, takes_iff]
  decide +kernel

theorem witness_PathFreeReleasesThePath_refused :
    Takes calm.ctl (own [1#8]).src (own [1#8]).tag (own [1#8]).payload ∧
    (own [1#8]).payload = [1#8] ∧
    Still calm.ctl ∧
    pathFreeCheck (1#8).toNat calm.ctl = some (.noPath, []) := by
  simp only [still_iff, takes_iff]
  decide +kernel

def state43 : State := st standing
theorem witness_PathFreeReleasesThePath_released :
    Takes state43.ctl (own [1#8]).src (own [1#8]).tag (own [1#8]).payload ∧
    (own [1#8]).payload = [1#8] ∧
    Calm state43.ctl ∧
    pathFreeCheck (1#8).toNat state43.ctl = none ∧
    state43.ctl.matrix.paths = [path1] ∧
    path1.tx = (1#8).toNat ∧
    path1.state = .proven ∧
    (xpAt state43.ctl path1.row path1.col).state = .closed ∧
    freeSlotOf state43.ctl.matrix = none := by
  simp only [calm_iff, quiet_iff, still_iff, takes_iff]
  decide +kernel

def state44 : State := st (withXp 2 2 closed base)
theorem witness_StuckCrosspointIsCleared_not_stuck :
    Calm state44.ctl ∧
    Takes state44.ctl (own [2#8, 2#8]).src (own [2#8, 2#8]).tag (own [2#8, 2#8]).payload ∧
    (own [2#8, 2#8]).payload = [2#8, 2#8] ∧
    inGeometry state44.ctl.site.work (2#8).toNat (2#8).toNat = true ∧
    (∀ p ∈ state44.ctl.matrix.paths, p.row ≠ (2#8).toNat ∨ p.col ≠ (2#8).toNat) ∧
    (xpAt state44.ctl (2#8).toNat (2#8).toNat).state ≠ .stuck := by
  simp only [calm_iff, quiet_iff, still_iff, takes_iff]
  decide +kernel

def state45 : State := st (withXp 2 2 { opened with state := .stuck } base)
theorem witness_StuckCrosspointIsCleared_opened :
    Calm state45.ctl ∧
    Takes state45.ctl (own [2#8, 2#8]).src (own [2#8, 2#8]).tag (own [2#8, 2#8]).payload ∧
    (own [2#8, 2#8]).payload = [2#8, 2#8] ∧
    inGeometry state45.ctl.site.work (2#8).toNat (2#8).toNat = true ∧
    (∀ p ∈ state45.ctl.matrix.paths, p.row ≠ (2#8).toNat ∨ p.col ≠ (2#8).toNat) ∧
    (xpAt state45.ctl (2#8).toNat (2#8).toNat).state = .stuck ∧
    (xpAt state45.ctl (2#8).toNat (2#8).toNat).position = .opened := by
  simp only [calm_iff, quiet_iff, still_iff, takes_iff]
  decide +kernel

def state46 : State := st (withXp 2 2 { closed with state := .stuck } base)
theorem witness_StuckCrosspointIsCleared_closed :
    Calm state46.ctl ∧
    Takes state46.ctl (own [2#8, 2#8]).src (own [2#8, 2#8]).tag (own [2#8, 2#8]).payload ∧
    (own [2#8, 2#8]).payload = [2#8, 2#8] ∧
    inGeometry state46.ctl.site.work (2#8).toNat (2#8).toNat = true ∧
    (∀ p ∈ state46.ctl.matrix.paths, p.row ≠ (2#8).toNat ∨ p.col ≠ (2#8).toNat) ∧
    (xpAt state46.ctl (2#8).toNat (2#8).toNat).state = .stuck ∧
    (xpAt state46.ctl (2#8).toNat (2#8).toNat).position = .closed := by
  simp only [calm_iff, quiet_iff, still_iff, takes_iff]
  decide +kernel

def state47 : State := st (withXp 2 2 { closed with state := .stuck, openContact := .made } base)
theorem witness_StuckCrosspointIsCleared_no_position :
    Calm state47.ctl ∧
    Takes state47.ctl (own [2#8, 2#8]).src (own [2#8, 2#8]).tag (own [2#8, 2#8]).payload ∧
    (own [2#8, 2#8]).payload = [2#8, 2#8] ∧
    inGeometry state47.ctl.site.work (2#8).toNat (2#8).toNat = true ∧
    (∀ p ∈ state47.ctl.matrix.paths, p.row ≠ (2#8).toNat ∨ p.col ≠ (2#8).toNat) ∧
    (xpAt state47.ctl (2#8).toNat (2#8).toNat).state = .stuck ∧
    (xpAt state47.ctl (2#8).toNat (2#8).toNat).position ≠ .opened ∧
    (xpAt state47.ctl (2#8).toNat (2#8).toNat).position ≠ .closed := by
  simp only [calm_iff, quiet_iff, still_iff, takes_iff]
  decide +kernel

def state48 : State := st ({ ready1 with store := { ready1.store with op := none }, site := { ready1.site with image2 := some { tables := tables, saveNumber := 65535 } } })
theorem witness_RestartStartsAfresh :
    Still state48.ctl ∧
    Takes state48.ctl (own []).src (own []).tag (own []).payload ∧
    state48.ctl.link.plantQueue = [] ∧
    state48.ctl.link.table = [] ∧
    state48.ctl.gate.held = [] ∧
    state48.ctl.load.close = none ∧
    state48.ctl.store.op = none ∧
    (state48.ctl.panel.raw.push = true → state48.ctl.panel.cond.push = true) := by
  simp only [still_iff, takes_iff]
  decide +kernel

/-! ## The Load Intake -/

theorem witness_LoadOpensABurst_count_0 :
    Still state27.ctl ∧
    Takes state27.ctl (own [1#8, 0#8, 0#8]).src (own [1#8, 0#8, 0#8]).tag (own [1#8, 0#8, 0#8]).payload ∧
    state27.ctl.start.phase = .running ∧
    (own [1#8, 0#8, 0#8]).payload = [1#8, 0#8, 0#8] ∧
    bankOfCode (1#8).toNat = some .a := by
  simp only [still_iff, takes_iff]
  decide +kernel

theorem witness_LoadOpensABurst_count_2048 :
    Still state27.ctl ∧
    Takes state27.ctl (own [1#8, 8#8, 0#8]).src (own [1#8, 8#8, 0#8]).tag (own [1#8, 8#8, 0#8]).payload ∧
    state27.ctl.start.phase = .running ∧
    (own [1#8, 8#8, 0#8]).payload = [1#8, 8#8, 0#8] ∧
    bankOfCode (1#8).toNat = some .a := by
  simp only [still_iff, takes_iff]
  decide +kernel

theorem witness_LoadOpensABurst_count_2049 :
    Still state27.ctl ∧
    Takes state27.ctl (own [1#8, 8#8, 1#8]).src (own [1#8, 8#8, 1#8]).tag (own [1#8, 8#8, 1#8]).payload ∧
    state27.ctl.start.phase = .running ∧
    (own [1#8, 8#8, 1#8]).payload = [1#8, 8#8, 1#8] ∧
    bankOfCode (1#8).toNat = some .a := by
  simp only [still_iff, takes_iff]
  decide +kernel

theorem witness_LoadOpensABurst_bank_0 :
    Still state27.ctl ∧
    Takes state27.ctl (own [0#8, 0#8, 1#8]).src (own [0#8, 0#8, 1#8]).tag (own [0#8, 0#8, 1#8]).payload ∧
    state27.ctl.start.phase = .running ∧
    (own [0#8, 0#8, 1#8]).payload = [0#8, 0#8, 1#8] ∧
    0#8 ≠ 1#8 ∧
    0#8 ≠ 2#8 := by
  simp only [still_iff, takes_iff]
  decide +kernel

theorem witness_LoadOpensABurst_bank_3 :
    Still state27.ctl ∧
    Takes state27.ctl (own [3#8, 0#8, 1#8]).src (own [3#8, 0#8, 1#8]).tag (own [3#8, 0#8, 1#8]).payload ∧
    state27.ctl.start.phase = .running ∧
    (own [3#8, 0#8, 1#8]).payload = [3#8, 0#8, 1#8] ∧
    3#8 ≠ 1#8 ∧
    3#8 ≠ 2#8 := by
  simp only [still_iff, takes_iff]
  decide +kernel

theorem witness_LoadOpensABurst_length :
    Still state27.ctl ∧
    Takes state27.ctl (own [1#8, 0#8]).src (own [1#8, 0#8]).tag (own [1#8, 0#8]).payload ∧
    state27.ctl.start.phase = .running ∧
    (own [1#8, 0#8]).payload.length ≠ 3 := by
  simp only [still_iff, takes_iff]
  decide +kernel

def record22 : List Byte := List.replicate 22 1#8
/-- A burst of station 121 whose slot write is in hand, with `n` records held. -/
def burst (n : Nat) (paused : Bool) : Load :=
  { Load.initial with
    state := .open_, number := 1, opener := { station := 121, tag := 9 }, expected := 2048, received := 9, written := 1,
    paused := paused, told := paused, hand := .queued, buffer := (List.range n).map (fun i => (i + 2, record22)),
    idleFrom := if paused then none else some 3 }
def loading (n : Nat) (paused : Bool) : Ctl := { base with load := burst n paused }

theorem witness_LoadDataIsCountedAndBuffered_no_burst :
    Still calm.ctl ∧
    Takes calm.ctl (own record22).src (own record22).tag (own record22).payload ∧
    calm.ctl.load.state ≠ .open_ := by
  simp only [still_iff, takes_iff]
  decide +kernel

def state49 : State := st ({ loading 1 false with load := { burst 1 false with opener := { station := 122, tag := 9 } } })
theorem witness_LoadDataIsCountedAndBuffered_stranger :
    Still state49.ctl ∧
    Takes state49.ctl (own record22).src (own record22).tag (own record22).payload ∧
    (own record22).src ≠ state49.ctl.load.opener.station := by
  simp only [still_iff, takes_iff]
  decide +kernel

def state50 : State := st (loading 3 false)
theorem witness_LoadDataIsCountedAndBuffered_length_21 :
    Still state50.ctl ∧
    Takes state50.ctl (own (List.replicate 21 1#8)).src (own (List.replicate 21 1#8)).tag (own (List.replicate 21 1#8)).payload ∧
    state50.ctl.load.state = .open_ ∧
    (own (List.replicate 21 1#8)).src = state50.ctl.load.opener.station ∧
    state50.ctl.load.hand = .queued ∧
    (own (List.replicate 21 1#8)).payload.length ≠ 22 := by
  simp only [still_iff, takes_iff]
  decide +kernel

theorem witness_LoadDataIsCountedAndBuffered_length_23 :
    Still state50.ctl ∧
    Takes state50.ctl (own (List.replicate 23 1#8)).src (own (List.replicate 23 1#8)).tag (own (List.replicate 23 1#8)).payload ∧
    state50.ctl.load.state = .open_ ∧
    (own (List.replicate 23 1#8)).src = state50.ctl.load.opener.station ∧
    state50.ctl.load.hand = .queued ∧
    (own (List.replicate 23 1#8)).payload.length ≠ 22 := by
  simp only [still_iff, takes_iff]
  decide +kernel

/-- The count at the end of its range: the next record counts as a free value (log entry 24). -/
def state50full : State := st ({ loading 3 false with load := { (loading 3 false).load with received := 65535 } })
theorem witness_LoadDataIsCountedAndBuffered_past_65535 :
    Still state50full.ctl ∧
    Takes state50full.ctl (own record22).src (own record22).tag (own record22).payload ∧
    state50full.ctl.load.state = .open_ ∧
    (own record22).src = state50full.ctl.load.opener.station ∧
    state50full.ctl.load.hand = .queued ∧
    ¬state50full.ctl.load.received < 65535 ∧
    (own record22).payload.length = 22 ∧
    state50full.ctl.load.buffer.length < 8 ∧
    state50full.ctl.load.paused = false ∧
    state50full.ctl.load.buffer.length < 4 := by
  simp only [still_iff, takes_iff]
  decide +kernel

def state51 : State := st (loading 8 true)
theorem witness_LoadDataIsCountedAndBuffered_overrun :
    Still state51.ctl ∧
    Takes state51.ctl (own record22).src (own record22).tag (own record22).payload ∧
    state51.ctl.load.state = .open_ ∧
    (own record22).src = state51.ctl.load.opener.station ∧
    state51.ctl.load.hand = .queued ∧
    (own record22).payload.length = 22 ∧
    8 ≤ state51.ctl.load.buffer.length := by
  simp only [still_iff, takes_iff]
  decide +kernel

theorem witness_LoadDataIsCountedAndBuffered_third :
    Still state50.ctl ∧
    Takes state50.ctl (own record22).src (own record22).tag (own record22).payload ∧
    state50.ctl.load.state = .open_ ∧
    (own record22).src = state50.ctl.load.opener.station ∧
    state50.ctl.load.hand = .queued ∧
    (own record22).payload.length = 22 ∧
    state50.ctl.load.buffer.length < 8 ∧
    state50.ctl.load.paused = false ∧
    state50.ctl.load.buffer.length < 4 := by
  simp only [still_iff, takes_iff]
  decide +kernel

def state52 : State := st (loading 4 false)
theorem witness_LoadDataIsCountedAndBuffered_fifth :
    Still state52.ctl ∧
    Takes state52.ctl (own record22).src (own record22).tag (own record22).payload ∧
    state52.ctl.load.state = .open_ ∧
    (own record22).src = state52.ctl.load.opener.station ∧
    state52.ctl.load.hand = .queued ∧
    (own record22).payload.length = 22 ∧
    state52.ctl.load.buffer.length < 8 ∧
    state52.ctl.load.paused = false ∧
    4 ≤ state52.ctl.load.buffer.length := by
  simp only [still_iff, takes_iff]
  decide +kernel

def state53 : State := st (loading 7 true)
theorem witness_LoadDataIsCountedAndBuffered_eighth :
    Still state53.ctl ∧
    Takes state53.ctl (own record22).src (own record22).tag (own record22).payload ∧
    state53.ctl.load.state = .open_ ∧
    (own record22).src = state53.ctl.load.opener.station ∧
    state53.ctl.load.hand = .queued ∧
    (own record22).payload.length = 22 ∧
    state53.ctl.load.buffer.length < 8 ∧
    state53.ctl.load.paused = true ∧
    2 ≤ state53.ctl.load.buffer.length := by
  simp only [still_iff, takes_iff]
  decide +kernel

theorem witness_LoadCloseIsTaken_length_3 :
    Still calm.ctl ∧
    Takes calm.ctl (own (List.replicate 3 0#8)).src (own (List.replicate 3 0#8)).tag (own (List.replicate 3 0#8)).payload ∧
    (own (List.replicate 3 0#8)).payload.length ≠ 4 := by
  simp only [still_iff, takes_iff]
  decide +kernel

theorem witness_LoadCloseIsTaken_length_5 :
    Still calm.ctl ∧
    Takes calm.ctl (own (List.replicate 5 0#8)).src (own (List.replicate 5 0#8)).tag (own (List.replicate 5 0#8)).payload ∧
    (own (List.replicate 5 0#8)).payload.length ≠ 4 := by
  simp only [still_iff, takes_iff]
  decide +kernel

theorem witness_LoadCloseIsTaken_no_burst :
    Still calm.ctl ∧
    Takes calm.ctl (own [255#8, 255#8, 18#8, 52#8]).src (own [255#8, 255#8, 18#8, 52#8]).tag (own [255#8, 255#8, 18#8, 52#8]).payload ∧
    (own [255#8, 255#8, 18#8, 52#8]).payload = [255#8, 255#8, 18#8, 52#8] ∧
    calm.ctl.load.state = .none := by
  simp only [still_iff, takes_iff]
  decide +kernel

def state54 : State := st ({ base with load := { burst 1 false with state := .closing } })
theorem witness_LoadCloseIsTaken_closing :
    Still state54.ctl ∧
    Takes state54.ctl (own [255#8, 255#8, 18#8, 52#8]).src (own [255#8, 255#8, 18#8, 52#8]).tag (own [255#8, 255#8, 18#8, 52#8]).payload ∧
    (own [255#8, 255#8, 18#8, 52#8]).payload = [255#8, 255#8, 18#8, 52#8] ∧
    state54.ctl.load.state = .closing := by
  simp only [still_iff, takes_iff]
  decide +kernel

def state55 : State := st ({ base with load := { burst 1 false with opener := { station := 126, tag := 9 } } })
theorem witness_LoadCloseIsTaken_stranger :
    Still state55.ctl ∧
    Takes state55.ctl (own [255#8, 255#8, 18#8, 52#8]).src (own [255#8, 255#8, 18#8, 52#8]).tag (own [255#8, 255#8, 18#8, 52#8]).payload ∧
    (own [255#8, 255#8, 18#8, 52#8]).payload = [255#8, 255#8, 18#8, 52#8] ∧
    state55.ctl.load.state = .open_ ∧
    (own [255#8, 255#8, 18#8, 52#8]).src ≠ state55.ctl.load.opener.station := by
  simp only [still_iff, takes_iff]
  decide +kernel

def state56 : State := st (loading 1 false)
theorem witness_LoadCloseIsTaken_taken :
    Still state56.ctl ∧
    Takes state56.ctl (own [255#8, 255#8, 18#8, 52#8]).src (own [255#8, 255#8, 18#8, 52#8]).tag (own [255#8, 255#8, 18#8, 52#8]).payload ∧
    (own [255#8, 255#8, 18#8, 52#8]).payload = [255#8, 255#8, 18#8, 52#8] ∧
    state56.ctl.load.state = .open_ ∧
    (own [255#8, 255#8, 18#8, 52#8]).src = state56.ctl.load.opener.station ∧
    state56.ctl.load.hand = .queued := by
  simp only [still_iff, takes_iff]
  decide +kernel

theorem witness_LoadBadSubverbIsRefused_0 :
    Still calm.ctl ∧
    Takes calm.ctl (own []).src (own []).tag (own []).payload ∧
    0 ≠ 1 ∧
    0 ≠ 2 ∧
    0 ≠ 3 := by
  simp only [still_iff, takes_iff]
  decide +kernel

theorem witness_LoadBadSubverbIsRefused_4 :
    Still calm.ctl ∧
    Takes calm.ctl (own []).src (own []).tag (own []).payload ∧
    4 ≠ 1 ∧
    4 ≠ 2 ∧
    4 ≠ 3 := by
  simp only [still_iff, takes_iff]
  decide +kernel

theorem witness_LoadBadSubverbIsRefused_255 :
    Still calm.ctl ∧
    Takes calm.ctl (own []).src (own []).tag (own []).payload ∧
    255 ≠ 1 ∧
    255 ≠ 2 ∧
    255 ≠ 3 := by
  simp only [still_iff, takes_iff]
  decide +kernel

theorem witness_LoadBadSubverbIsRefused_elsewhere :
    Still calm.ctl ∧
    parseFrame (frameOctets (frame 119 2 .load)) = some (frame 119 2 .load) ∧
    (frame 119 2 .load).kind = .load ∧
    (frame 119 2 .load).dest ≠ 120 := by
  simp only [still_iff]
  decide +kernel

/-! ## Returning traffic -/

/-- Octets of a transmitter's report: carrier, tune state, frequency, power, trip, local. -/
def txReport (on : Bool) (trip : Bool) : List Byte :=
  [if on then 2#8 else 1#8, 1#8] ++ be2 9900 ++ be2 250 ++ [if trip then 1#8 else 2#8, 2#8]
def txReported (on trip : Bool) : TxReport :=
  { carrierOn := on, tune := .idle, freq := some 9900, power := some 250, trip := trip, localControl := false }

theorem witness_StatusFramesSetTheRecords_on :
    Calm state17.ctl ∧
    stationClass state17.ctl.site.work (back 10 0 (txReport true false)).src = some .transmitter ∧
    txOfStation state17.ctl.site.work (back 10 0 (txReport true false)).src = some 1 ∧
    txStatic state17.ctl 1 = some tx1 ∧
    txDyn state17.ctl 1 = some off1 ∧
    parseTxReport (back 10 0 (txReport true false)).payload = some (txReported true false) ∧
    state17.ctl.link.plantQueue = [] ∧
    (∀ e ∈ state17.ctl.link.table, e.station ≠ tx1.station ∨ e.verb ≠ .carrierOn) ∧
    off1.owner ≠ .operations ∧
    (((txReported true false).carrierOn && !(txReported true false).trip) = true → unsupported state17.ctl 1 = false) := by
  simp only [calm_iff, quiet_iff, still_iff]
  decide +kernel

theorem witness_StatusFramesSetTheRecords_trip :
    Calm state16.ctl ∧
    stationClass state16.ctl.site.work (back 10 0 (txReport true true)).src = some .transmitter ∧
    txOfStation state16.ctl.site.work (back 10 0 (txReport true true)).src = some 1 ∧
    txStatic state16.ctl 1 = some tx1 ∧
    txDyn state16.ctl 1 = some on1 ∧
    parseTxReport (back 10 0 (txReport true true)).payload = some (txReported true true) ∧
    state16.ctl.link.plantQueue = [] ∧
    (∀ e ∈ state16.ctl.link.table, e.station ≠ tx1.station ∨ e.verb ≠ .carrierOn) ∧
    on1.owner ≠ .operations ∧
    (((txReported true true).carrierOn && !(txReported true true).trip) = true → unsupported state16.ctl 1 = false) := by
  simp only [calm_iff, quiet_iff, still_iff]
  decide +kernel

theorem witness_StatusFramesSetTheRecords_off :
    Calm state16.ctl ∧
    stationClass state16.ctl.site.work (back 10 0 (txReport false false)).src = some .transmitter ∧
    txOfStation state16.ctl.site.work (back 10 0 (txReport false false)).src = some 1 ∧
    txStatic state16.ctl 1 = some tx1 ∧
    txDyn state16.ctl 1 = some on1 ∧
    parseTxReport (back 10 0 (txReport false false)).payload = some (txReported false false) ∧
    state16.ctl.link.plantQueue = [] ∧
    (∀ e ∈ state16.ctl.link.table, e.station ≠ tx1.station ∨ e.verb ≠ .carrierOn) ∧
    on1.owner ≠ .operations ∧
    (((txReported false false).carrierOn && !(txReported false false).trip) = true → unsupported state16.ctl 1 = false) := by
  simp only [calm_iff, quiet_iff, still_iff]
  decide +kernel

theorem witness_StatusFramesSetTheRecords_bearing_3599 :
    Calm calm.ctl ∧
    stationClass calm.ctl.site.work (back 20 0 (be2 3599 ++ [255#8, 2#8])).src = some .drive ∧
    antOfDrive calm.ctl.site.work (back 20 0 (be2 3599 ++ [255#8, 2#8])).src = some 1 ∧
    antStatic calm.ctl 1 = some ant1 ∧
    antDyn calm.ctl 1 = some still1 ∧
    parseDriveReport (back 20 0 (be2 3599 ++ [255#8, 2#8])).payload = some ({ bearing := some 3599, steer := none, motion := .moving }) ∧
    columnPaths calm.ctl 1 = [] ∧
    ant1.kind = .rotatable ∧
    still1.job = none := by
  simp only [calm_iff, quiet_iff, still_iff]
  decide +kernel

theorem witness_StatusFramesSetTheRecords_bearing_3600 :
    Calm calm.ctl ∧
    stationClass calm.ctl.site.work (back 20 0 (be2 3600 ++ [255#8, 2#8])).src = some .drive ∧
    antOfDrive calm.ctl.site.work (back 20 0 (be2 3600 ++ [255#8, 2#8])).src = some 1 ∧
    antStatic calm.ctl 1 = some ant1 ∧
    antDyn calm.ctl 1 = some still1 ∧
    parseDriveReport (back 20 0 (be2 3600 ++ [255#8, 2#8])).payload = some ({ bearing := some 3600, steer := none, motion := .moving }) ∧
    columnPaths calm.ctl 1 = [] ∧
    ant1.kind = .rotatable ∧
    still1.job = none := by
  simp only [calm_iff, quiet_iff, still_iff]
  decide +kernel

theorem witness_StatusFramesSetTheRecords_steer :
    Calm calm.ctl ∧
    stationClass calm.ctl.site.work (back 21 0 [255#8, 255#8, 4#8, 1#8]).src = some .drive ∧
    antOfDrive calm.ctl.site.work (back 21 0 [255#8, 255#8, 4#8, 1#8]).src = some 2 ∧
    antStatic calm.ctl 2 = some ant2 ∧
    antDyn calm.ctl 2 = some still2 ∧
    parseDriveReport (back 21 0 [255#8, 255#8, 4#8, 1#8]).payload = some ({ bearing := none, steer := some 4, motion := .still }) ∧
    columnPaths calm.ctl 2 = [] ∧
    ant2.kind = .steerable ∧
    still2.job = none := by
  simp only [calm_iff, quiet_iff, still_iff]
  decide +kernel

theorem witness_StatusFramesSetTheRecords_reached :
    Calm state24.ctl ∧
    stationClass state24.ctl.site.work (back 20 0 (be2 95 ++ [255#8, 1#8])).src = some .drive ∧
    antOfDrive state24.ctl.site.work (back 20 0 (be2 95 ++ [255#8, 1#8])).src = some 1 ∧
    antStatic state24.ctl 1 = some ant1 ∧
    antDyn state24.ctl 1 = some turning1 ∧
    parseDriveReport (back 20 0 (be2 95 ++ [255#8, 1#8])).payload = some ({ bearing := some 95, steer := none, motion := .still }) ∧
    columnPaths state24.ctl 1 = [] ∧
    ant1.kind = .rotatable ∧
    turning1.job = some opsJob1 ∧
    opsJob1.requester = .operations ref1 ∧
    standsAt { turning1 with bearing := (some 95).filter (fun b => decide (b < 3600)), motion := .still } opsJob1.target = true := by
  simp only [calm_iff, quiet_iff, still_iff]
  decide +kernel

theorem witness_StatusFramesSetTheRecords_bit_same :
    Calm state44.ctl ∧
    stationClass state44.ctl.site.work (back 30 0 [1#8, 0#8, 82#8, 1#8]).src = some .matrix ∧
    parseMatrixStatus (back 30 0 [1#8, 0#8, 82#8, 1#8]).payload = some [(82, true)] ∧
    coilBitInGeometry state44.ctl.site.work 82 = true ∧
    state44.ctl.matrix.slots = [] ∧
    state44.ctl.matrix.paths = [] ∧
    state44.ctl.link.reports.length < 32 ∧
    (if 82 % 2 = 0 then { (xpAt state44.ctl (xpRow (82 / 2)) (xpCol (82 / 2))) with closedContact := if true then .made else .notMade } else { (xpAt state44.ctl (xpRow (82 / 2)) (xpCol (82 / 2))) with openContact := if true then .made else .notMade }) = (xpAt state44.ctl (xpRow (82 / 2)) (xpCol (82 / 2))) := by
  simp only [calm_iff, quiet_iff, still_iff]
  decide +kernel

def state57 : State := st (withXp 2 2 { opened with openContact := .notMade } base)
theorem witness_StatusFramesSetTheRecords_bit_settles :
    Calm state57.ctl ∧
    stationClass state57.ctl.site.work (back 30 0 [1#8, 0#8, 83#8, 1#8]).src = some .matrix ∧
    parseMatrixStatus (back 30 0 [1#8, 0#8, 83#8, 1#8]).payload = some [(83, true)] ∧
    coilBitInGeometry state57.ctl.site.work 83 = true ∧
    state57.ctl.matrix.slots = [] ∧
    state57.ctl.matrix.paths = [] ∧
    state57.ctl.link.reports.length < 32 ∧
    (if 83 % 2 = 0 then { (xpAt state57.ctl (xpRow (83 / 2)) (xpCol (83 / 2))) with closedContact := if true then .made else .notMade } else { (xpAt state57.ctl (xpRow (83 / 2)) (xpCol (83 / 2))) with openContact := if true then .made else .notMade }) ≠ (xpAt state57.ctl (xpRow (83 / 2)) (xpCol (83 / 2))) ∧
    (xpAt state57.ctl (xpRow (83 / 2)) (xpCol (83 / 2))).state ≠ .stuck ∧
    (xpAt state57.ctl (xpRow (83 / 2)) (xpCol (83 / 2))).state ≠ .closing ∧
    (xpAt state57.ctl (xpRow (83 / 2)) (xpCol (83 / 2))).state ≠ .opening := by
  simp only [calm_iff, quiet_iff, still_iff]
  decide +kernel

def state58 : State := st (withXp 2 2 opened base)
theorem witness_StatusFramesSetTheRecords_bit_transit :
    Calm state58.ctl ∧
    stationClass state58.ctl.site.work (back 30 0 [1#8, 0#8, 83#8, 0#8]).src = some .matrix ∧
    parseMatrixStatus (back 30 0 [1#8, 0#8, 83#8, 0#8]).payload = some [(83, false)] ∧
    coilBitInGeometry state58.ctl.site.work 83 = true ∧
    state58.ctl.matrix.slots = [] ∧
    state58.ctl.matrix.paths = [] ∧
    state58.ctl.link.reports.length < 32 ∧
    (if 83 % 2 = 0 then { (xpAt state58.ctl (xpRow (83 / 2)) (xpCol (83 / 2))) with closedContact := if false then .made else .notMade } else { (xpAt state58.ctl (xpRow (83 / 2)) (xpCol (83 / 2))) with openContact := if false then .made else .notMade }) ≠ (xpAt state58.ctl (xpRow (83 / 2)) (xpCol (83 / 2))) ∧
    (xpAt state58.ctl (xpRow (83 / 2)) (xpCol (83 / 2))).state ≠ .stuck ∧
    (xpAt state58.ctl (xpRow (83 / 2)) (xpCol (83 / 2))).state ≠ .closing ∧
    (xpAt state58.ctl (xpRow (83 / 2)) (xpCol (83 / 2))).state ≠ .opening := by
  simp only [calm_iff, quiet_iff, still_iff]
  decide +kernel

theorem witness_StatusFramesSetTheRecords_bit_stuck :
    Calm state45.ctl ∧
    stationClass state45.ctl.site.work (back 30 0 [1#8, 0#8, 82#8, 1#8]).src = some .matrix ∧
    parseMatrixStatus (back 30 0 [1#8, 0#8, 82#8, 1#8]).payload = some [(82, true)] ∧
    coilBitInGeometry state45.ctl.site.work 82 = true ∧
    state45.ctl.matrix.slots = [] ∧
    state45.ctl.matrix.paths = [] ∧
    state45.ctl.link.reports.length < 32 ∧
    (if 82 % 2 = 0 then { (xpAt state45.ctl (xpRow (82 / 2)) (xpCol (82 / 2))) with closedContact := if true then .made else .notMade } else { (xpAt state45.ctl (xpRow (82 / 2)) (xpCol (82 / 2))) with openContact := if true then .made else .notMade }) ≠ (xpAt state45.ctl (xpRow (82 / 2)) (xpCol (82 / 2))) ∧
    (xpAt state45.ctl (xpRow (82 / 2)) (xpCol (82 / 2))).state = .stuck := by
  simp only [calm_iff, quiet_iff, still_iff]
  decide +kernel

theorem witness_StatusFramesSetTheRecords_auxiliary :
    Calm calm.ctl ∧
    stationClass calm.ctl.site.work (back 40 0 []).src = some .auxiliary := by
  simp only [calm_iff, quiet_iff, still_iff]
  decide +kernel

def sentOrder (station : Nat) (verb : PlantVerb) : Entry :=
  { tag := 5, station := station, addr := 121, origin := .ops 121 5, verb := verb, cls := .passed, sent := some 6 }

def state59 : State := st (withTable (sentOrder 10 .carrierOff) (withTx on1 base))
theorem witness_TransmitterAnswersSetTheRecord_off :
    (Calm state59.ctl ∧
    stationClass state59.ctl.site.work (back 10 4 [1#8, 0#8]).src = some .transmitter ∧
    antOfDrive state59.ctl.site.work (back 10 4 [1#8, 0#8]).src = none ∧
    txOfStation state59.ctl.site.work (back 10 4 [1#8, 0#8]).src = some 1 ∧
    txStatic state59.ctl 1 = some tx1 ∧
    txDyn state59.ctl 1 = some on1 ∧
    state59.ctl.link.table.find? (fun e => e.tag == (back 10 4 [1#8, 0#8]).tag && e.station == (back 10 4 [1#8, 0#8]).src && e.addr == (back 10 4 [1#8, 0#8]).dest) = some (sentOrder 10 .carrierOff) ∧
    (sentOrder 10 .carrierOff).origin = .ops 121 5 ∧
    state59.ctl.link.plantQueue = [] ∧
    (∀ e ∈ state59.ctl.link.table, e.station ≠ tx1.station ∨ e.verb ≠ .carrierOn) ∧
    (on1 : TxDyn).owner ≠ .operations ∧
    (back 10 4 [1#8, 0#8]).verb = 4 ∧
    (back 10 4 [1#8, 0#8]).payload = 1#8 :: [0#8]) ∧
    (∀ i k, (sentOrder 10 .carrierOff).verb ≠ .latchRead i k) := by
  refine ⟨?_, (by intro i k h; cases h)⟩
  simp only [calm_iff, quiet_iff, still_iff]
  decide +kernel

def state60 : State := st ({ withTable (sentOrder 10 (.power 250)) base with gate := { base.gate with powerSent := [{ station := 10, addr := 121, tag := 5, value := 300 }] } })
theorem witness_TransmitterAnswersSetTheRecord_power :
    (Calm state60.ctl ∧
    stationClass state60.ctl.site.work (back 10 2 [1#8, 0#8]).src = some .transmitter ∧
    antOfDrive state60.ctl.site.work (back 10 2 [1#8, 0#8]).src = none ∧
    txOfStation state60.ctl.site.work (back 10 2 [1#8, 0#8]).src = some 1 ∧
    txStatic state60.ctl 1 = some tx1 ∧
    txDyn state60.ctl 1 = some off1 ∧
    state60.ctl.link.table.find? (fun e => e.tag == (back 10 2 [1#8, 0#8]).tag && e.station == (back 10 2 [1#8, 0#8]).src && e.addr == (back 10 2 [1#8, 0#8]).dest) = some (sentOrder 10 (.power 250)) ∧
    (sentOrder 10 (.power 250)).origin = .ops 121 5 ∧
    state60.ctl.link.plantQueue = [] ∧
    (∀ e ∈ state60.ctl.link.table, e.station ≠ tx1.station ∨ e.verb ≠ .carrierOn) ∧
    (off1 : TxDyn).owner ≠ .operations ∧
    interlockCondition state60.ctl 1 = false ∧
    (back 10 2 [1#8, 0#8]).verb = 2 ∧
    (back 10 2 [1#8, 0#8]).payload = 1#8 :: [0#8] ∧
    (sentOrder 10 (.power 250)).verb = .power 250) ∧
    (∀ i k, (sentOrder 10 (.power 250)).verb ≠ .latchRead i k) := by
  refine ⟨?_, (by intro i k h; cases h)⟩
  simp only [calm_iff, quiet_iff, still_iff]
  decide +kernel

def state61 : State := st (withTable (sentOrder 10 (.tune 9900)) (withTx { off1 with tune := .tuning, tuneRestore := some { value := .idle, addr := 121, tag := 5 } } base))
theorem witness_TransmitterAnswersSetTheRecord_tune_refused :
    (Calm state61.ctl ∧
    stationClass state61.ctl.site.work (back 10 1 [3#8, 0#8]).src = some .transmitter ∧
    antOfDrive state61.ctl.site.work (back 10 1 [3#8, 0#8]).src = none ∧
    txOfStation state61.ctl.site.work (back 10 1 [3#8, 0#8]).src = some 1 ∧
    txStatic state61.ctl 1 = some tx1 ∧
    txDyn state61.ctl 1 = some { off1 with tune := .tuning, tuneRestore := some { value := .idle, addr := 121, tag := 5 } } ∧
    state61.ctl.link.table.find? (fun e => e.tag == (back 10 1 [3#8, 0#8]).tag && e.station == (back 10 1 [3#8, 0#8]).src && e.addr == (back 10 1 [3#8, 0#8]).dest) = some (sentOrder 10 (.tune 9900)) ∧
    (sentOrder 10 (.tune 9900)).origin = .ops 121 5 ∧
    state61.ctl.link.plantQueue = [] ∧
    (∀ e ∈ state61.ctl.link.table, e.station ≠ tx1.station ∨ e.verb ≠ .carrierOn) ∧
    ({ off1 with tune := .tuning, tuneRestore := some { value := .idle, addr := 121, tag := 5 } } : TxDyn).owner ≠ .operations ∧
    interlockCondition state61.ctl 1 = false ∧
    (back 10 1 [3#8, 0#8]).verb = 1 ∧
    (back 10 1 [3#8, 0#8]).payload = 3#8 :: [0#8] ∧
    ({ off1 with tune := .tuning, tuneRestore := some { value := .idle, addr := 121, tag := 5 } } : TxDyn).tuneRestore = some { value := .idle, addr := 121, tag := 5 } ∧
    ({ value := .idle, addr := 121, tag := 5 } : Restore Tune).addr = (back 10 1 [3#8, 0#8]).dest ∧
    ({ value := .idle, addr := 121, tag := 5 } : Restore Tune).tag = (back 10 1 [3#8, 0#8]).tag) ∧
    (∀ i k, (sentOrder 10 (.tune 9900)).verb ≠ .latchRead i k) := by
  refine ⟨?_, (by intro i k h; cases h)⟩
  simp only [calm_iff, quiet_iff, still_iff]
  decide +kernel

def sentJob : Job := { opsJob1 with stage := .sent }
def moving1 : AntDyn := { still1 with job := some sentJob }
def releasing : Movement :=
  { req := { pid := 1, row := 2, col := 2, coil := .openCoil, priority := 1, age := 0 }, stage := .releasingCoil,
    limit := 18000, started := none, before := .closed }
def clearing : Entry :=
  { tag := 5, station := 30, addr := 121, origin := .mi (.clear 4), verb := .latchClear 83, cls := .internal, sent := some 6 }

def state62 : State := st (withTable (sentOrder 20 (.slew 100)) (withAerial moving1 base))
theorem witness_OtherAnswersReachTheirOrigin_drive_done :
    (Calm state62.ctl ∧
    stationClass state62.ctl.site.work (back 20 7 [1#8]).src = some .drive ∧
    (back 20 7 [1#8]).verb ≠ 6 ∧
    state62.ctl.link.table.find? (fun e => e.tag == (back 20 7 [1#8]).tag && e.station == (back 20 7 [1#8]).src && e.addr == (back 20 7 [1#8]).dest) = some (sentOrder 20 (.slew 100)) ∧
    (sentOrder 20 (.slew 100)).origin = .ops 121 5 ∧
    antOfDrive state62.ctl.site.work (back 20 7 [1#8]).src = some 1 ∧
    antDyn state62.ctl 1 = some moving1 ∧
    moving1.job = some sentJob ∧
    sentJob.requester = .operations { station := 121, tag := 5 } ∧
    targetVerb sentJob.target = some (sentOrder 20 (.slew 100)).verb ∧
    sentJob.stage = .sent ∧
    (back 20 7 [1#8]).payload = 1#8 :: []) ∧
    (∀ x ∈ dropFirst (fun y => decide (y = sentOrder 20 (.slew 100))) state62.ctl.link.table, x.station = (sentOrder 20 (.slew 100)).station → x.origin = (sentOrder 20 (.slew 100)).origin → (∀ b, x.verb ≠ .slew b) ∧ ∀ i, x.verb ≠ .steer i) := by
  refine ⟨?_, (by intro x hx; cases (show x ∈ ([] : List Entry) from hx))⟩
  simp only [calm_iff, quiet_iff, still_iff]
  decide +kernel

theorem witness_OtherAnswersReachTheirOrigin_drive_accepted :
    (Calm state62.ctl ∧
    stationClass state62.ctl.site.work (back 20 7 [2#8]).src = some .drive ∧
    (back 20 7 [2#8]).verb ≠ 6 ∧
    state62.ctl.link.table.find? (fun e => e.tag == (back 20 7 [2#8]).tag && e.station == (back 20 7 [2#8]).src && e.addr == (back 20 7 [2#8]).dest) = some (sentOrder 20 (.slew 100)) ∧
    (sentOrder 20 (.slew 100)).origin = .ops 121 5 ∧
    antOfDrive state62.ctl.site.work (back 20 7 [2#8]).src = some 1 ∧
    antDyn state62.ctl 1 = some moving1 ∧
    moving1.job = some sentJob ∧
    sentJob.requester = .operations { station := 121, tag := 5 } ∧
    targetVerb sentJob.target = some (sentOrder 20 (.slew 100)).verb ∧
    sentJob.stage = .sent ∧
    (back 20 7 [2#8]).payload = 2#8 :: []) ∧
    (∀ x ∈ dropFirst (fun y => decide (y = sentOrder 20 (.slew 100))) state62.ctl.link.table, x.station = (sentOrder 20 (.slew 100)).station → x.origin = (sentOrder 20 (.slew 100)).origin → (∀ b, x.verb ≠ .slew b) ∧ ∀ i, x.verb ≠ .steer i) := by
  refine ⟨?_, (by intro x hx; cases (show x ∈ ([] : List Entry) from hx))⟩
  simp only [calm_iff, quiet_iff, still_iff]
  decide +kernel

theorem witness_OtherAnswersReachTheirOrigin_drive_refused :
    (Calm state62.ctl ∧
    stationClass state62.ctl.site.work (back 20 7 [3#8]).src = some .drive ∧
    (back 20 7 [3#8]).verb ≠ 6 ∧
    state62.ctl.link.table.find? (fun e => e.tag == (back 20 7 [3#8]).tag && e.station == (back 20 7 [3#8]).src && e.addr == (back 20 7 [3#8]).dest) = some (sentOrder 20 (.slew 100)) ∧
    (sentOrder 20 (.slew 100)).origin = .ops 121 5 ∧
    antOfDrive state62.ctl.site.work (back 20 7 [3#8]).src = some 1 ∧
    antDyn state62.ctl 1 = some moving1 ∧
    moving1.job = some sentJob ∧
    sentJob.requester = .operations { station := 121, tag := 5 } ∧
    targetVerb sentJob.target = some (sentOrder 20 (.slew 100)).verb ∧
    sentJob.stage = .sent ∧
    (back 20 7 [3#8]).payload = 3#8 :: []) ∧
    (∀ x ∈ dropFirst (fun y => decide (y = sentOrder 20 (.slew 100))) state62.ctl.link.table, x.station = (sentOrder 20 (.slew 100)).station → x.origin = (sentOrder 20 (.slew 100)).origin → (∀ b, x.verb ≠ .slew b) ∧ ∀ i, x.verb ≠ .steer i) := by
  refine ⟨?_, (by intro x hx; cases (show x ∈ ([] : List Entry) from hx))⟩
  simp only [calm_iff, quiet_iff, still_iff]
  decide +kernel

def state63 : State := st ({ withTable clearing (withXp 2 2 { opened with movement := some 4 } base) with matrix := { (withXp 2 2 { opened with movement := some 4 } base).matrix with slots := [(4, releasing)] } })
theorem witness_OtherAnswersReachTheirOrigin_cleared :
    Calm state63.ctl ∧
    stationClass state63.ctl.site.work (back 30 2 [1#8]).src = some .matrix ∧
    state63.ctl.link.table.find? (fun e => e.tag == (back 30 2 [1#8]).tag && e.station == (back 30 2 [1#8]).src && e.addr == (back 30 2 [1#8]).dest) = some clearing ∧
    clearing.origin = .mi (.clear 4) ∧
    clearing.verb = .latchClear (coilBit releasing.req) ∧
    state63.ctl.matrix.slots = [(4, releasing)] ∧
    releasing.stage = .releasingCoil ∧
    (xpAt state63.ctl releasing.req.row releasing.req.col).movement = some 4 ∧
    (back 30 2 [1#8]).payload = 1#8 :: [] := by
  simp only [calm_iff, quiet_iff, still_iff]
  decide +kernel

def state64 : State := st (withTable (sentOrder 40 (.other .order 77 [])) base)
theorem witness_OtherAnswersReachTheirOrigin_auxiliary :
    (Calm state64.ctl ∧
    stationClass state64.ctl.site.work (back 40 77 [3#8, 9#8]).src = some .auxiliary ∧
    (back 40 77 [3#8, 9#8]).payload = 3#8 :: [9#8] ∧
    state64.ctl.link.table.find? (fun e => e.tag == (back 40 77 [3#8, 9#8]).tag && e.station == (back 40 77 [3#8, 9#8]).src && e.addr == (back 40 77 [3#8, 9#8]).dest) = some (sentOrder 40 (.other .order 77 [])) ∧
    (sentOrder 40 (.other .order 77 [])).origin = .ops 121 5) ∧
    (∀ i k, (sentOrder 40 (.other .order 77 [])).verb ≠ .latchRead i k) := by
  refine ⟨?_, (by intro i k h; cases h)⟩
  simp only [calm_iff, quiet_iff, still_iff]
  decide +kernel

theorem witness_OtherAnswersReachTheirOrigin_late_sent_on :
    Calm calm.ctl ∧
    stationClass calm.ctl.site.work (({ back 40 77 [1#8] with tag := 127, dest := 126 } : PlantFrame)).src = some .auxiliary ∧
    (({ back 40 77 [1#8] with tag := 127, dest := 126 } : PlantFrame)).payload = 1#8 :: [] ∧
    calm.ctl.link.table.find? (fun e => e.tag == (({ back 40 77 [1#8] with tag := 127, dest := 126 } : PlantFrame)).tag && e.station == (({ back 40 77 [1#8] with tag := 127, dest := 126 } : PlantFrame)).src && e.addr == (({ back 40 77 [1#8] with tag := 127, dest := 126 } : PlantFrame)).dest) = none ∧
    (({ back 40 77 [1#8] with tag := 127, dest := 126 } : PlantFrame)).tag < 128 ∧
    121 ≤ (({ back 40 77 [1#8] with tag := 127, dest := 126 } : PlantFrame)).dest ∧
    (({ back 40 77 [1#8] with tag := 127, dest := 126 } : PlantFrame)).dest ≤ 126 ∧
    calm.ctl.link.reserved + calm.ctl.link.answers.length < 64 := by
  simp only [calm_iff, quiet_iff, still_iff]
  decide +kernel

theorem witness_OtherAnswersReachTheirOrigin_late_dropped_tag :
    Calm calm.ctl ∧
    stationClass calm.ctl.site.work (({ back 40 77 [1#8] with tag := 128 } : PlantFrame)).src = some .auxiliary ∧
    (({ back 40 77 [1#8] with tag := 128 } : PlantFrame)).payload = 1#8 :: [] ∧
    calm.ctl.link.table.find? (fun e => e.tag == (({ back 40 77 [1#8] with tag := 128 } : PlantFrame)).tag && e.station == (({ back 40 77 [1#8] with tag := 128 } : PlantFrame)).src && e.addr == (({ back 40 77 [1#8] with tag := 128 } : PlantFrame)).dest) = none ∧
    128 ≤ (({ back 40 77 [1#8] with tag := 128 } : PlantFrame)).tag := by
  simp only [calm_iff, quiet_iff, still_iff]
  decide +kernel

theorem witness_OtherAnswersReachTheirOrigin_late_dropped_low :
    Calm calm.ctl ∧
    stationClass calm.ctl.site.work (({ back 40 77 [1#8] with dest := 120 } : PlantFrame)).src = some .auxiliary ∧
    (({ back 40 77 [1#8] with dest := 120 } : PlantFrame)).payload = 1#8 :: [] ∧
    calm.ctl.link.table.find? (fun e => e.tag == (({ back 40 77 [1#8] with dest := 120 } : PlantFrame)).tag && e.station == (({ back 40 77 [1#8] with dest := 120 } : PlantFrame)).src && e.addr == (({ back 40 77 [1#8] with dest := 120 } : PlantFrame)).dest) = none ∧
    (({ back 40 77 [1#8] with dest := 120 } : PlantFrame)).dest < 121 := by
  simp only [calm_iff, quiet_iff, still_iff]
  decide +kernel

theorem witness_OtherAnswersReachTheirOrigin_late_dropped_high :
    Calm calm.ctl ∧
    stationClass calm.ctl.site.work (({ back 40 77 [1#8] with dest := 127 } : PlantFrame)).src = some .auxiliary ∧
    (({ back 40 77 [1#8] with dest := 127 } : PlantFrame)).payload = 1#8 :: [] ∧
    calm.ctl.link.table.find? (fun e => e.tag == (({ back 40 77 [1#8] with dest := 127 } : PlantFrame)).tag && e.station == (({ back 40 77 [1#8] with dest := 127 } : PlantFrame)).src && e.addr == (({ back 40 77 [1#8] with dest := 127 } : PlantFrame)).dest) = none ∧
    126 < (({ back 40 77 [1#8] with dest := 127 } : PlantFrame)).dest := by
  simp only [calm_iff, quiet_iff, still_iff]
  decide +kernel

def proving : Path := { path1 with state := .setting, stage := some .closed, proof := .inProgress (some 5), reference := some ref1 }
def reading : Entry :=
  { tag := 5, station := 30, addr := 121, origin := .mi (.proof 1), verb := .latchRead 0 2, cls := .internal, sent := some 6 }
/-- Crosspoint (1, 1) is CLOSED, and the others of its row and column are OPEN. -/
def atProof : Ctl := withTable reading (withXp 1 1 closed (withXp 1 2 opened (withXp 2 1 opened (withPath proving base))))

/-- Context 16 in PROVING, the READ of its path outstanding. -/
def proving16 : Path := { proving with owner := .ctx 16, reference := none }
def ctx16 : Ctx :=
  { busy := true, isEnd := false, occ := { bank := .a, id := 3, day := 1 }, startTime := 86520, endTime := 90120, tx := 1,
    priority := 6, tFreq := 15160, tAnt := 1, tPos := .bearing 1500, tPower := 250, tFeed := 1, phase := .proving,
    deadline := some 15000, retune := Sub.idle, path := Sub.idle, position := Sub.idle, prior := none, begin_ := 86500,
    rf := 86520, actual := none, outcome := .none, reason := none, cause := 0, tuned := true, raised := false,
    preempting := none }
def atProof16 : Ctl := { withTx { off1 with owner := .ctx 16 } (withPath proving16 atProof) with cu := [(16, ctx16)] }

def state65 : State := st atProof
theorem witness_AProofMakesThePathProven :
    Quiet state65.ctl ∧
    stationClass state65.ctl.site.work (back 30 3 [1#8, 0#8, 0#8, 0#8, 2#8, 128#8]).src = some .matrix ∧
    state65.ctl.matrix.paths = [proving] ∧
    state65.ctl.link.table.find? (fun e => e.tag == (back 30 3 [1#8, 0#8, 0#8, 0#8, 2#8, 128#8]).tag && e.station == (back 30 3 [1#8, 0#8, 0#8, 0#8, 2#8, 128#8]).src && e.addr == (back 30 3 [1#8, 0#8, 0#8, 0#8, 2#8, 128#8]).dest) = some reading ∧
    reading.origin = .mi (.proof proving.pid) ∧
    reading.verb = .latchRead (xpBase proving.row proving.col) 2 ∧
    proving.proof = .inProgress (some reading.tag) ∧
    proving.state ≠ .proven ∧
    (back 30 3 [1#8, 0#8, 0#8, 0#8, 2#8, 128#8]).payload = [1#8, 0#8, 0#8, 0#8, 2#8, 128#8] ∧
    rd2 0#8 0#8 = xpBase proving.row proving.col ∧
    octetBit [128#8] 0 = true ∧
    octetBit [128#8] 1 = false ∧
    (xpAt state65.ctl proving.row proving.col).closedContact = .made ∧
    (xpAt state65.ctl proving.row proving.col).openContact = .notMade ∧
    (∀ q ∈ rowColOthers state65.ctl.site.work proving.row proving.col, (xpAt state65.ctl q.1 q.2).state ≠ .stuck ∧ (xpAt state65.ctl q.1 q.2).position = .opened) ∧
    lockedOut state65.ctl proving.ant = false ∧
    antMotion state65.ctl proving.ant = .still ∧
    positionKnown state65.ctl proving.ant = true ∧
    state65.ctl.link.plantQueue = [] ∧
    state65.ctl.link.reports.length < 32 ∧
    proving.owner = .operations ∧
    (∀ c ∈ state65.ctl.cu, c.2.busy = false) := by
  simp only [quiet_iff, still_iff]
  decide +kernel

def state66 : State := st atProof16
theorem witness_AProofMakesThePathProven_context :
    Quiet state66.ctl ∧
    stationClass state66.ctl.site.work (back 30 3 [1#8, 0#8, 0#8, 0#8, 2#8, 128#8]).src = some .matrix ∧
    state66.ctl.matrix.paths = [proving16] ∧
    state66.ctl.link.table.find? (fun e => e.tag == (back 30 3 [1#8, 0#8, 0#8, 0#8, 2#8, 128#8]).tag && e.station == (back 30 3 [1#8, 0#8, 0#8, 0#8, 2#8, 128#8]).src && e.addr == (back 30 3 [1#8, 0#8, 0#8, 0#8, 2#8, 128#8]).dest) = some reading ∧
    reading.origin = .mi (.proof proving16.pid) ∧
    reading.verb = .latchRead (xpBase proving16.row proving16.col) 2 ∧
    proving16.proof = .inProgress (some reading.tag) ∧
    proving16.state ≠ .proven ∧
    (back 30 3 [1#8, 0#8, 0#8, 0#8, 2#8, 128#8]).payload = [1#8, 0#8, 0#8, 0#8, 2#8, 128#8] ∧
    rd2 0#8 0#8 = xpBase proving16.row proving16.col ∧
    octetBit [128#8] 0 = true ∧
    octetBit [128#8] 1 = false ∧
    (xpAt state66.ctl proving16.row proving16.col).closedContact = .made ∧
    (xpAt state66.ctl proving16.row proving16.col).openContact = .notMade ∧
    (∀ q ∈ rowColOthers state66.ctl.site.work proving16.row proving16.col, (xpAt state66.ctl q.1 q.2).state ≠ .stuck ∧ (xpAt state66.ctl q.1 q.2).position = .opened) ∧
    lockedOut state66.ctl proving16.ant = false ∧
    antMotion state66.ctl proving16.ant = .still ∧
    positionKnown state66.ctl proving16.ant = true ∧
    state66.ctl.link.plantQueue = [] ∧
    state66.ctl.link.reports.length < 32 ∧
    proving16.owner = .ctx 16 ∧
    state66.ctl.cu = [(16, ctx16)] ∧
    ctx16.busy = true ∧
    ctx16.isEnd = false ∧
    ctx16.phase = .proving ∧
    ctx16.tx = proving16.tx ∧
    1 ≤ ctx16.tFeed ∧
    ctx16.tFeed ≤ 32 ∧
    txStatic state66.ctl ctx16.tx = some tx1 ∧
    txDyn state66.ctl ctx16.tx = some { off1 with owner := .ctx 16 } ∧
    ({ off1 with owner := .ctx 16 } : TxDyn).owner = .ctx 16 ∧
    localFlag state66.ctl ctx16.tx { off1 with owner := .ctx 16 } = false ∧
    stationClass state66.ctl.site.work tx1.station = some .transmitter ∧
    txOfStation state66.ctl.site.work tx1.station = some ctx16.tx := by
  simp only [quiet_iff, still_iff]
  decide +kernel

def state67 : State := st (portFree base)
theorem witness_PlantTransmitterFinishes_idle :
    Still state67.ctl ∧
    state67.ctl.link.plantTx = none := by
  simp only [still_iff]
  decide +kernel

def state68 : State := st (withTable { sentOrder 10 .query with sent := none } base)
theorem witness_PlantTransmitterFinishes_last :
    Still state68.ctl ∧
    state68.ctl.link.plantTx = some query1 ∧
    state68.ctl.link.plantQueue = [] := by
  simp only [still_iff]
  decide +kernel

def waiting (tag : Nat) (verb : PlantVerb) (cls : Cls) : Queued :=
  { tag := tag, frame := { dest := 40, verb := verb, cls := cls, origin := .ops 122 tag } }
/-- The rank of a class at the plant port. -/
def rankOf : Cls → Nat
  | .urgent => 2
  | .internal => 1
  | .passed => 0
/-- A plant queue, with `m` entries taken by INTERNAL frames and `n` by URGENT ones, one of them still being sent. -/
def entries (m n : Nat) : List Entry :=
  { sentOrder 40 .query with cls := .internal, sent := none } ::
    (List.replicate m { sentOrder 40 .query with cls := .internal } ++ List.replicate n { sentOrder 40 .query with cls := .urgent })
def queued (l : List Queued) (t : List Entry) : Ctl := { base with link := { base.link with plantQueue := l, table := t } }

def state69 : State := st (queued [waiting 1 (.query) .internal, waiting 2 (.query) .passed, waiting 3 (.carrierOff) .urgent, waiting 4 (.carrierOff) .urgent, waiting 5 (.query) .internal] (entries 7 1))
theorem witness_PlantTransmitterFinishes_urgent :
    Still state69.ctl ∧
    state69.ctl.link.plantTx = some query1 ∧
    state69.ctl.link.plantQueue = [waiting 1 (.query) .internal, waiting 2 (.query) .passed] ++ (waiting 3 (.carrierOff) .urgent) :: [waiting 4 (.carrierOff) .urgent, waiting 5 (.query) .internal] ∧
    (∀ y ∈ ([waiting 1 (.query) .internal, waiting 2 (.query) .passed] : List Queued), rankOf y.frame.cls < rankOf (waiting 3 (.carrierOff) .urgent).frame.cls) ∧
    (∀ y ∈ ([waiting 4 (.carrierOff) .urgent, waiting 5 (.query) .internal] : List Queued), rankOf y.frame.cls ≤ rankOf (waiting 3 (.carrierOff) .urgent).frame.cls) ∧
    ((mapFirst (fun e => e.sent.isNone) (fun e => { e with sent := some state69.ctl.clock }) state69.ctl.link.table).length < 10 ∧ ((waiting 3 (.carrierOff) .urgent).frame.cls = .urgent ∨ ((mapFirst (fun e => e.sent.isNone) (fun e => { e with sent := some state69.ctl.clock }) state69.ctl.link.table).filter (fun e => decide (e.cls ≠ .urgent))).length < 8)) ∧
    state69.ctl.link.urgentWaiters = [] ∧
    state69.ctl.link.internalWaiters = [] ∧
    (waiting 3 (.carrierOff) .urgent).frame.verb = .carrierOff := by
  simp only [still_iff]
  decide +kernel

def state70 : State := st (queued [waiting 1 (.query) .passed, waiting 2 (.carrierOn) .internal, waiting 3 (.query) .internal, waiting 4 (.feed 1) .passed] (entries 6 2))
theorem witness_PlantTransmitterFinishes_internal :
    Still state70.ctl ∧
    state70.ctl.link.plantTx = some query1 ∧
    state70.ctl.link.plantQueue = [waiting 1 (.query) .passed] ++ (waiting 2 (.carrierOn) .internal) :: [waiting 3 (.query) .internal, waiting 4 (.feed 1) .passed] ∧
    (∀ y ∈ ([waiting 1 (.query) .passed] : List Queued), rankOf y.frame.cls < rankOf (waiting 2 (.carrierOn) .internal).frame.cls) ∧
    (∀ y ∈ ([waiting 3 (.query) .internal, waiting 4 (.feed 1) .passed] : List Queued), rankOf y.frame.cls ≤ rankOf (waiting 2 (.carrierOn) .internal).frame.cls) ∧
    ((mapFirst (fun e => e.sent.isNone) (fun e => { e with sent := some state70.ctl.clock }) state70.ctl.link.table).length < 10 ∧ ((waiting 2 (.carrierOn) .internal).frame.cls = .urgent ∨ ((mapFirst (fun e => e.sent.isNone) (fun e => { e with sent := some state70.ctl.clock }) state70.ctl.link.table).filter (fun e => decide (e.cls ≠ .urgent))).length < 8)) ∧
    state70.ctl.link.urgentWaiters = [] ∧
    state70.ctl.link.internalWaiters = [] ∧
    (waiting 2 (.carrierOn) .internal).frame.verb = .carrierOn := by
  simp only [still_iff]
  decide +kernel

def state71 : State := st (queued [waiting 1 (.power 999) .passed, waiting 2 (.query) .passed] (entries 0 0))
theorem witness_PlantTransmitterFinishes_power :
    Still state71.ctl ∧
    state71.ctl.link.plantTx = some query1 ∧
    state71.ctl.link.plantQueue = [] ++ (waiting 1 (.power 999) .passed) :: [waiting 2 (.query) .passed] ∧
    (∀ y ∈ ([] : List Queued), rankOf y.frame.cls < rankOf (waiting 1 (.power 999) .passed).frame.cls) ∧
    (∀ y ∈ ([waiting 2 (.query) .passed] : List Queued), rankOf y.frame.cls ≤ rankOf (waiting 1 (.power 999) .passed).frame.cls) ∧
    ((mapFirst (fun e => e.sent.isNone) (fun e => { e with sent := some state71.ctl.clock }) state71.ctl.link.table).length < 10 ∧ ((waiting 1 (.power 999) .passed).frame.cls = .urgent ∨ ((mapFirst (fun e => e.sent.isNone) (fun e => { e with sent := some state71.ctl.clock }) state71.ctl.link.table).filter (fun e => decide (e.cls ≠ .urgent))).length < 8)) ∧
    state71.ctl.link.urgentWaiters = [] ∧
    state71.ctl.link.internalWaiters = [] ∧
    (waiting 1 (.power 999) .passed).frame.verb = .power 999 := by
  simp only [still_iff]
  decide +kernel

def state72 : State := st (queued [({ tag := 200, frame := { dest := 30, verb := .latchSet 82, cls := .internal, origin := .mi (.set 4) } } : Queued)] (entries 0 0))
theorem witness_PlantTransmitterFinishes_set :
    Still state72.ctl ∧
    state72.ctl.link.plantTx = some query1 ∧
    state72.ctl.link.plantQueue = [] ++ (({ tag := 200, frame := { dest := 30, verb := .latchSet 82, cls := .internal, origin := .mi (.set 4) } } : Queued)) :: [] ∧
    (∀ y ∈ ([] : List Queued), rankOf y.frame.cls < rankOf (({ tag := 200, frame := { dest := 30, verb := .latchSet 82, cls := .internal, origin := .mi (.set 4) } } : Queued)).frame.cls) ∧
    (∀ y ∈ ([] : List Queued), rankOf y.frame.cls ≤ rankOf (({ tag := 200, frame := { dest := 30, verb := .latchSet 82, cls := .internal, origin := .mi (.set 4) } } : Queued)).frame.cls) ∧
    ((mapFirst (fun e => e.sent.isNone) (fun e => { e with sent := some state72.ctl.clock }) state72.ctl.link.table).length < 10 ∧ ((({ tag := 200, frame := { dest := 30, verb := .latchSet 82, cls := .internal, origin := .mi (.set 4) } } : Queued)).frame.cls = .urgent ∨ ((mapFirst (fun e => e.sent.isNone) (fun e => { e with sent := some state72.ctl.clock }) state72.ctl.link.table).filter (fun e => decide (e.cls ≠ .urgent))).length < 8)) ∧
    state72.ctl.link.urgentWaiters = [] ∧
    state72.ctl.link.internalWaiters = [] ∧
    ({ tag := 200, frame := { dest := 30, verb := .latchSet 82, cls := .internal, origin := .mi (.set 4) } } : Queued).frame.verb = .latchSet 82 ∧
    ({ tag := 200, frame := { dest := 30, verb := .latchSet 82, cls := .internal, origin := .mi (.set 4) } } : Queued).frame.origin = .mi (.set 4) := by
  simp only [still_iff]
  decide +kernel

def state73 : State := st (queued [waiting 1 (.query) .internal] (entries 7 0))
theorem witness_PlantTransmitterFinishes_others_full :
    Still state73.ctl ∧
    state73.ctl.link.plantTx = some query1 ∧
    state73.ctl.link.plantQueue = [] ++ (waiting 1 (.query) .internal) :: [] ∧
    (∀ y ∈ ([] : List Queued), rankOf y.frame.cls < rankOf (waiting 1 (.query) .internal).frame.cls) ∧
    (∀ y ∈ ([] : List Queued), rankOf y.frame.cls ≤ rankOf (waiting 1 (.query) .internal).frame.cls) ∧
    ¬ ((mapFirst (fun e => e.sent.isNone) (fun e => { e with sent := some state73.ctl.clock }) state73.ctl.link.table).length < 10 ∧ ((waiting 1 (.query) .internal).frame.cls = .urgent ∨ ((mapFirst (fun e => e.sent.isNone) (fun e => { e with sent := some state73.ctl.clock }) state73.ctl.link.table).filter (fun e => decide (e.cls ≠ .urgent))).length < 8)) := by
  simp only [still_iff]
  decide +kernel

def state74 : State := st (queued [waiting 1 (.query) .urgent] (entries 7 2))
theorem witness_PlantTransmitterFinishes_full :
    Still state74.ctl ∧
    state74.ctl.link.plantTx = some query1 ∧
    state74.ctl.link.plantQueue = [] ++ (waiting 1 (.query) .urgent) :: [] ∧
    (∀ y ∈ ([] : List Queued), rankOf y.frame.cls < rankOf (waiting 1 (.query) .urgent).frame.cls) ∧
    (∀ y ∈ ([] : List Queued), rankOf y.frame.cls ≤ rankOf (waiting 1 (.query) .urgent).frame.cls) ∧
    ¬ ((mapFirst (fun e => e.sent.isNone) (fun e => { e with sent := some state74.ctl.clock }) state74.ctl.link.table).length < 10 ∧ ((waiting 1 (.query) .urgent).frame.cls = .urgent ∨ ((mapFirst (fun e => e.sent.isNone) (fun e => { e with sent := some state74.ctl.clock }) state74.ctl.link.table).filter (fun e => decide (e.cls ≠ .urgent))).length < 8)) := by
  simp only [still_iff]
  decide +kernel

theorem witness_WaitsRunOut_no_answer_timer :
    Still calm.ctl ∧
    (∀ e ∈ calm.ctl.link.table, e.sent = none) := by
  simp only [still_iff]
  decide +kernel

def state75 : State := st (withTable (sentOrder 40 .query) base)
theorem witness_WaitsRunOut_answer :
    (Still state75.ctl ∧
    state75.ctl.link.table.find? (fun e => e.sent.isSome) = some (sentOrder 40 .query) ∧
    (sentOrder 40 .query).sent = some 6 ∧
    (sentOrder 40 .query).origin = .ops 121 5 ∧
    state75.ctl.link.plantTx.isSome = true ∧
    state75.ctl.link.reports.length < 32 ∧
    txOfStation state75.ctl.site.work (sentOrder 40 .query).station = none) ∧
    (∀ b, (sentOrder 40 .query).verb ≠ .slew b) ∧
    (∀ i, (sentOrder 40 .query).verb ≠ .steer i) := by
  refine ⟨?_, (by intro b h; cases h), (by intro i h; cases h)⟩
  simp only [still_iff]
  decide +kernel

def state76 : State := st ({ withTable (sentOrder 40 .query) base with link := { (withTable (sentOrder 40 .query) base).link with silent := [40] } })
theorem witness_WaitsRunOut_answer_silent :
    (Still state76.ctl ∧
    state76.ctl.link.table.find? (fun e => e.sent.isSome) = some (sentOrder 40 .query) ∧
    (sentOrder 40 .query).sent = some 6 ∧
    (sentOrder 40 .query).origin = .ops 121 5 ∧
    state76.ctl.link.plantTx.isSome = true ∧
    state76.ctl.link.reports.length < 32 ∧
    txOfStation state76.ctl.site.work (sentOrder 40 .query).station = none) ∧
    (∀ b, (sentOrder 40 .query).verb ≠ .slew b) ∧
    (∀ i, (sentOrder 40 .query).verb ≠ .steer i) := by
  refine ⟨?_, (by intro b h; cases h), (by intro i h; cases h)⟩
  simp only [still_iff]
  decide +kernel

def state77 : State := st (withTable (sentOrder 40 (.other .order 9 [])) base)
theorem witness_WaitsRunOut_answer_auxiliary :
    (Still state77.ctl ∧
    state77.ctl.link.table.find? (fun e => e.sent.isSome) = some (sentOrder 40 (.other .order 9 [])) ∧
    (sentOrder 40 (.other .order 9 [])).sent = some 6 ∧
    (sentOrder 40 (.other .order 9 [])).origin = .ops 121 5 ∧
    state77.ctl.link.plantTx.isSome = true ∧
    state77.ctl.link.reports.length < 32 ∧
    txOfStation state77.ctl.site.work (sentOrder 40 (.other .order 9 [])).station = none) ∧
    (∀ b, (sentOrder 40 (.other .order 9 [])).verb ≠ .slew b) ∧
    (∀ i, (sentOrder 40 (.other .order 9 [])).verb ≠ .steer i) := by
  refine ⟨?_, (by intro b h; cases h), (by intro i h; cases h)⟩
  simp only [still_iff]
  decide +kernel

def state78 : State := st (withTable (sentOrder 20 .stop) base)
theorem witness_WaitsRunOut_answer_stop :
    (Still state78.ctl ∧
    state78.ctl.link.table.find? (fun e => e.sent.isSome) = some (sentOrder 20 .stop) ∧
    (sentOrder 20 .stop).sent = some 6 ∧
    (sentOrder 20 .stop).origin = .ops 121 5 ∧
    state78.ctl.link.plantTx.isSome = true ∧
    state78.ctl.link.reports.length < 32 ∧
    txOfStation state78.ctl.site.work (sentOrder 20 .stop).station = none) ∧
    (∀ b, (sentOrder 20 .stop).verb ≠ .slew b) ∧
    (∀ i, (sentOrder 20 .stop).verb ≠ .steer i) := by
  refine ⟨?_, (by intro b h; cases h), (by intro i h; cases h)⟩
  simp only [still_iff]
  decide +kernel

def state79 : State := st (withTable (sentOrder 20 (.slew 100)) (withAerial still1 base))
theorem witness_WaitsRunOut_answer_slew :
    Still state79.ctl ∧
    state79.ctl.link.table.find? (fun e => e.sent.isSome) = some (sentOrder 20 (.slew 100)) ∧
    (sentOrder 20 (.slew 100)).sent = some 6 ∧
    (sentOrder 20 (.slew 100)).origin = .ops 121 5 ∧
    state79.ctl.link.plantTx.isSome = true ∧
    state79.ctl.link.reports.length < 32 ∧
    txOfStation state79.ctl.site.work (sentOrder 20 (.slew 100)).station = none ∧
    antOfDrive state79.ctl.site.work (sentOrder 20 (.slew 100)).station = some 1 ∧
    antDyn state79.ctl 1 = some still1 ∧
    still1.job = none := by
  simp only [still_iff]
  decide +kernel

theorem witness_WaitsRunOut_answer_slew_job :
    (Still state62.ctl ∧
    state62.ctl.link.table.find? (fun e => e.sent.isSome) = some (sentOrder 20 (.slew 100)) ∧
    (sentOrder 20 (.slew 100)).sent = some 6 ∧
    (sentOrder 20 (.slew 100)).origin = .ops 121 5 ∧
    state62.ctl.link.plantTx.isSome = true ∧
    state62.ctl.link.reports.length < 32 ∧
    txOfStation state62.ctl.site.work (sentOrder 20 (.slew 100)).station = none ∧
    antOfDrive state62.ctl.site.work (sentOrder 20 (.slew 100)).station = some 1 ∧
    antDyn state62.ctl 1 = some moving1 ∧
    moving1.job = some sentJob ∧
    sentJob.requester = .operations { station := 121, tag := 5 } ∧
    sentJob.stage = .sent ∧
    targetVerb sentJob.target = some (sentOrder 20 (.slew 100)).verb) ∧
    (∀ z ∈ dropFirst (fun z => decide (z = sentOrder 20 (.slew 100))) state62.ctl.link.table, z.station = (sentOrder 20 (.slew 100)).station → z.origin = (sentOrder 20 (.slew 100)).origin → (∀ b, z.verb ≠ .slew b) ∧ ∀ i, z.verb ≠ .steer i) := by
  refine ⟨?_, (by intro x hx; cases (show x ∈ ([] : List Entry) from hx))⟩
  simp only [still_iff]
  decide +kernel

def state80 : State := st (withTable (sentOrder 10 (.power 250)) (withTx on1 (withPath path1 base)))
theorem witness_WaitsRunOut_answer_power :
    Still state80.ctl ∧
    state80.ctl.link.table.find? (fun e => e.sent.isSome) = some (sentOrder 10 (.power 250)) ∧
    (sentOrder 10 (.power 250)).sent = some 6 ∧
    (sentOrder 10 (.power 250)).origin = .ops 121 5 ∧
    state80.ctl.link.plantTx.isSome = true ∧
    state80.ctl.link.reports.length < 32 ∧
    Calm state80.ctl ∧
    txOfStation state80.ctl.site.work (sentOrder 10 (.power 250)).station = some 1 ∧
    txStatic state80.ctl 1 = some tx1 ∧
    txDyn state80.ctl 1 = some on1 ∧
    (on1 : TxDyn).owner ≠ .operations ∧
    state80.ctl.link.plantQueue = [] ∧
    interlockCondition state80.ctl 1 = false ∧
    (sentOrder 10 (.power 250)).verb = .power 250 := by
  simp only [calm_iff, quiet_iff, still_iff]
  decide +kernel

def state81 : State := st (withTable (sentOrder 10 (.tune 9900)) (withTx { off1 with tune := .tuning } base))
theorem witness_WaitsRunOut_answer_tune :
    Still state81.ctl ∧
    state81.ctl.link.table.find? (fun e => e.sent.isSome) = some (sentOrder 10 (.tune 9900)) ∧
    (sentOrder 10 (.tune 9900)).sent = some 6 ∧
    (sentOrder 10 (.tune 9900)).origin = .ops 121 5 ∧
    state81.ctl.link.plantTx.isSome = true ∧
    state81.ctl.link.reports.length < 32 ∧
    Calm state81.ctl ∧
    txOfStation state81.ctl.site.work (sentOrder 10 (.tune 9900)).station = some 1 ∧
    txStatic state81.ctl 1 = some tx1 ∧
    txDyn state81.ctl 1 = some { off1 with tune := .tuning } ∧
    ({ off1 with tune := .tuning } : TxDyn).owner ≠ .operations ∧
    state81.ctl.link.plantQueue = [] ∧
    interlockCondition state81.ctl 1 = false ∧
    (sentOrder 10 (.tune 9900)).verb = .tune 9900 := by
  simp only [calm_iff, quiet_iff, still_iff]
  decide +kernel

def state82 : State := st (withTable (sentOrder 10 .carrierOff) (withTx on1 (withPath path1 base)))
theorem witness_WaitsRunOut_answer_off :
    Still state82.ctl ∧
    state82.ctl.link.table.find? (fun e => e.sent.isSome) = some (sentOrder 10 .carrierOff) ∧
    (sentOrder 10 .carrierOff).sent = some 6 ∧
    (sentOrder 10 .carrierOff).origin = .ops 121 5 ∧
    state82.ctl.link.plantTx.isSome = true ∧
    state82.ctl.link.reports.length < 32 ∧
    Calm state82.ctl ∧
    txOfStation state82.ctl.site.work (sentOrder 10 .carrierOff).station = some 1 ∧
    txStatic state82.ctl 1 = some tx1 ∧
    txDyn state82.ctl 1 = some on1 ∧
    (on1 : TxDyn).owner ≠ .operations ∧
    state82.ctl.link.plantQueue = [] ∧
    interlockCondition state82.ctl 1 = false ∧
    (sentOrder 10 .carrierOff).verb = .carrierOff := by
  simp only [calm_iff, quiet_iff, still_iff]
  decide +kernel

def state83 : State := st (withTable (sentOrder 10 .carrierOn) (withTx { off1 with outstanding := true } (withPath path1 base)))
theorem witness_WaitsRunOut_answer_on :
    Still state83.ctl ∧
    state83.ctl.link.table.find? (fun e => e.sent.isSome) = some (sentOrder 10 .carrierOn) ∧
    (sentOrder 10 .carrierOn).sent = some 6 ∧
    (sentOrder 10 .carrierOn).origin = .ops 121 5 ∧
    state83.ctl.link.plantTx.isSome = true ∧
    state83.ctl.link.reports.length < 32 ∧
    Calm state83.ctl ∧
    txOfStation state83.ctl.site.work (sentOrder 10 .carrierOn).station = some 1 ∧
    txStatic state83.ctl 1 = some tx1 ∧
    txDyn state83.ctl 1 = some { off1 with outstanding := true } ∧
    ({ off1 with outstanding := true } : TxDyn).owner ≠ .operations ∧
    state83.ctl.link.plantQueue = [] ∧
    unsupported state83.ctl 1 = false ∧
    (sentOrder 10 .carrierOn).verb = .carrierOn ∧
    (∀ y ∈ dropFirst (fun y => decide (y = sentOrder 10 .carrierOn)) state83.ctl.link.table, y.station ≠ (sentOrder 10 .carrierOn).station ∨ y.verb ≠ .carrierOn) := by
  simp only [calm_iff, quiet_iff, still_iff]
  decide +kernel

theorem witness_WaitsRunOut_no_hold :
    Still calm.ctl ∧
    calm.ctl.gate.held = [] := by
  simp only [still_iff]
  decide +kernel

def state84 : State := st ({ base with gate := { base.gate with held := [{ frame := gateFrame (plantTo 10 []) .carrierOn, waits := .path, since := 4 }] } })
theorem witness_WaitsRunOut_hold_path :
    Still state84.ctl ∧
    state84.ctl.gate.held = { frame := gateFrame (plantTo 10 []) .carrierOn, waits := .path, since := 4 } :: [] ∧
    ({ frame := gateFrame (plantTo 10 []) .carrierOn, waits := .path, since := 4 } : Held).frame.origin = .ops 126 127 := by
  simp only [still_iff]
  decide +kernel

def state85 : State := st ({ base with gate := { base.gate with held := [{ frame := gateFrame (plantTo 10 []) .carrierOn, waits := .power, since := 4 }] } })
theorem witness_WaitsRunOut_hold_power :
    Still state85.ctl ∧
    state85.ctl.gate.held = { frame := gateFrame (plantTo 10 []) .carrierOn, waits := .power, since := 4 } :: [] ∧
    ({ frame := gateFrame (plantTo 10 []) .carrierOn, waits := .power, since := 4 } : Held).frame.origin = .ops 126 127 := by
  simp only [still_iff]
  decide +kernel

theorem witness_WaitsRunOut_no_burst :
    Still calm.ctl ∧
    calm.ctl.load.idleFrom = none := by
  simp only [still_iff]
  decide +kernel

theorem witness_WaitsRunOut_burst :
    Still state50.ctl ∧
    state50.ctl.load.idleFrom = some 3 ∧
    state50.ctl.load.state ≠ .none ∧
    state50.ctl.load.commit = .none ∧
    state50.ctl.load.close = none ∧
    state50.ctl.store.op.isSome = true ∧
    state50.ctl.store.eraseJob = none ∧
    state50.ctl.link.reports.length < 32 := by
  simp only [still_iff]
  decide +kernel

def state86 : State := st ({ loading 3 false with load := { burst 3 false with firstError := some { reason := .overrun, ordinal := 4, check := 0 } } })
theorem witness_WaitsRunOut_burst_error :
    Still state86.ctl ∧
    state86.ctl.load.idleFrom = some 3 ∧
    state86.ctl.load.state ≠ .none ∧
    state86.ctl.load.commit = .none ∧
    state86.ctl.load.close = none ∧
    state86.ctl.store.op.isSome = true ∧
    state86.ctl.store.eraseJob = none ∧
    state86.ctl.link.reports.length < 32 := by
  simp only [still_iff]
  decide +kernel

/-! ## Timers of movements and paths -/

/-- The path whose movement slot 4 drives, and that movement. -/
def driven (state : PathState) (stage : Option PathStage) : Path :=
  { path1 with row := 2, col := 2, tx := 2, ant := 2, state := state, stage := stage, granted := true, reference := some ref1 }
def drive (coil : Coil) (before : XpState) : Movement :=
  { req := { pid := 1, row := 2, col := 2, coil := coil, priority := 8, age := 0 }, stage := .driving, limit := 18000,
    started := some 4, before := before }
def driving (p : Path) (v : Movement) (x : Xp) : Ctl :=
  let c := withXp 2 2 x (withPath p base)
  { c with matrix := { c.matrix with slots := [(4, v)], paths := [{ path1 with pid := 7 }, p] } }

def state87 : State := st (driving (driven .setting (some .moving)) (drive .closeCoil .opened) { opened with state := .closing, openContact := .notMade, movement := some 4 })
theorem witness_MovementsAndPathsRunOut_limit_closing :
    Calm state87.ctl ∧
    tget 4 state87.ctl.matrix.slots = some (drive .closeCoil .opened) ∧
    (drive .closeCoil .opened).stage = .driving ∧
    (drive .closeCoil .opened).started = some 4 ∧
    matrixStation state87.ctl.site.work = some 30 ∧
    stationClass state87.ctl.site.work 30 = some .matrix ∧
    coilBit (drive .closeCoil .opened).req ≤ 3839 ∧
    state87.ctl.link.plantQueue.length < 32 ∧
    state87.ctl.link.reports.length < 31 ∧
    pathOf state87.ctl (drive .closeCoil .opened).req.pid = some (driven .setting (some .moving)) ∧
    (driven .setting (some .moving)).row = (drive .closeCoil .opened).req.row ∧
    (driven .setting (some .moving)).col = (drive .closeCoil .opened).req.col ∧
    (drive .closeCoil .opened).limit = 3 * 6 * 1000 ∧
    (drive .closeCoil .opened).req.coil = .closeCoil ∧
    (driven .setting (some .moving)).state = .setting ∧
    (driven .setting (some .moving)).stage = some .moving ∧
    (driven .setting (some .moving)).granted = true ∧
    (driven .setting (some .moving)).owner = .operations ∧
    (∀ q ∈ state87.ctl.matrix.paths, q.pid ≠ (driven .setting (some .moving)).pid → q.row ≠ (driven .setting (some .moving)).row ∨ q.col ≠ (driven .setting (some .moving)).col) := by
  simp only [calm_iff, quiet_iff, still_iff]
  decide +kernel

def state88 : State := st (driving (driven .releasing none) (drive .openCoil .closed) { closed with state := .opening, movement := some 4 })
theorem witness_MovementsAndPathsRunOut_limit_opening :
    Calm state88.ctl ∧
    tget 4 state88.ctl.matrix.slots = some (drive .openCoil .closed) ∧
    (drive .openCoil .closed).stage = .driving ∧
    (drive .openCoil .closed).started = some 4 ∧
    matrixStation state88.ctl.site.work = some 30 ∧
    stationClass state88.ctl.site.work 30 = some .matrix ∧
    coilBit (drive .openCoil .closed).req ≤ 3839 ∧
    state88.ctl.link.plantQueue.length < 32 ∧
    state88.ctl.link.reports.length < 31 ∧
    pathOf state88.ctl (drive .openCoil .closed).req.pid = some (driven .releasing none) ∧
    (driven .releasing none).row = (drive .openCoil .closed).req.row ∧
    (driven .releasing none).col = (drive .openCoil .closed).req.col ∧
    (drive .openCoil .closed).limit = 3 * 6 * 1000 ∧
    (drive .openCoil .closed).req.coil = .openCoil ∧
    (driven .releasing none).state = .releasing ∧
    (∀ q ∈ state88.ctl.matrix.paths, q.pid ≠ (driven .releasing none).pid → q.row ≠ (driven .releasing none).row ∨ q.col ≠ (driven .releasing none).col) := by
  simp only [calm_iff, quiet_iff, still_iff]
  decide +kernel

def state89 : State := st (withPath { path1 with state := .setting, stage := some .settling, owner := .idle } base)
theorem witness_MovementsAndPathsRunOut_settle_idle :
    Calm state89.ctl ∧
    claimPath state89.ctl 1 = some { path1 with state := .setting, stage := some .settling, owner := .idle } ∧
    ({ path1 with state := .setting, stage := some .settling, owner := .idle } : Path).state = .setting ∧
    ({ path1 with state := .setting, stage := some .settling, owner := .idle } : Path).stage = some .settling ∧
    ({ path1 with state := .setting, stage := some .settling, owner := .idle } : Path).owner = .idle ∧
    ({ path1 with state := .setting, stage := some .settling, owner := .idle } : Path).reference = none := by
  simp only [calm_iff, quiet_iff, still_iff]
  decide +kernel

def state90 : State := st (withXp 1 1 closed (withPath { path1 with state := .setting, stage := some .settling } base))
theorem witness_MovementsAndPathsRunOut_settle_operations :
    Calm state90.ctl ∧
    claimPath state90.ctl 1 = some { path1 with state := .setting, stage := some .settling } ∧
    ({ path1 with state := .setting, stage := some .settling } : Path).state = .setting ∧
    ({ path1 with state := .setting, stage := some .settling } : Path).stage = some .settling ∧
    ({ path1 with state := .setting, stage := some .settling } : Path).owner = .operations ∧
    (xpAt state90.ctl ({ path1 with state := .setting, stage := some .settling } : Path).row ({ path1 with state := .setting, stage := some .settling } : Path).col).state = .closed ∧
    matrixStation state90.ctl.site.work = some 30 ∧
    stationClass state90.ctl.site.work 30 = some .matrix ∧
    xpBase ({ path1 with state := .setting, stage := some .settling } : Path).row ({ path1 with state := .setting, stage := some .settling } : Path).col ≤ 3839 ∧
    state90.ctl.link.plantQueue.length < 32 := by
  simp only [calm_iff, quiet_iff, still_iff]
  decide +kernel

def state91 : State := st (withXp 1 1 closed (withPath { path1 with state := .setting, stage := some .settling, owner := .idle, reference := some ref1 } base))
theorem witness_MovementsAndPathsRunOut_settle_set_by_path_set :
    Calm state91.ctl ∧
    claimPath state91.ctl 1 = some { path1 with state := .setting, stage := some .settling, owner := .idle, reference := some ref1 } ∧
    ({ path1 with state := .setting, stage := some .settling, owner := .idle, reference := some ref1 } : Path).state = .setting ∧
    ({ path1 with state := .setting, stage := some .settling, owner := .idle, reference := some ref1 } : Path).stage = some .settling ∧
    ({ path1 with state := .setting, stage := some .settling, owner := .idle, reference := some ref1 } : Path).owner = .idle ∧
    ({ path1 with state := .setting, stage := some .settling, owner := .idle, reference := some ref1 } : Path).reference.isSome = true ∧
    (xpAt state91.ctl ({ path1 with state := .setting, stage := some .settling, owner := .idle, reference := some ref1 } : Path).row ({ path1 with state := .setting, stage := some .settling, owner := .idle, reference := some ref1 } : Path).col).state = .closed ∧
    matrixStation state91.ctl.site.work = some 30 ∧
    stationClass state91.ctl.site.work 30 = some .matrix ∧
    xpBase ({ path1 with state := .setting, stage := some .settling, owner := .idle, reference := some ref1 } : Path).row ({ path1 with state := .setting, stage := some .settling, owner := .idle, reference := some ref1 } : Path).col ≤ 3839 ∧
    state91.ctl.link.plantQueue.length < 32 := by
  simp only [calm_iff, quiet_iff, still_iff]
  decide +kernel

/-- A close request of a path, and the queue of movements with the slots all taken or not. -/
def close (pid age : Nat) : MoveReq := { pid := pid, row := 1, col := 1, coil := .closeCoil, priority := 8, age := age }
def moves (queue waiting : List MoveReq) (c : Ctl) : Ctl := { c with matrix := { c.matrix with queue := queue, waiting := waiting } }

def state92 : State := st (moves ([close 1 0]) ([]) (withXp 1 2 { opened with state := .stuck } (withXp 1 1 opened (withPath { path1 with state := .setting, stage := some .waiting, reference := some ref1 } base))))
theorem witness_MovementsAndPathsRunOut_limit_stuck :
    Calm { state92.ctl with matrix := { state92.ctl.matrix with queue := [], waiting := [] } } ∧
    claimPath state92.ctl 1 = some { path1 with state := .setting, stage := some .waiting, reference := some ref1 } ∧
    ({ path1 with state := .setting, stage := some .waiting, reference := some ref1 } : Path).state = .setting ∧
    ({ path1 with state := .setting, stage := some .waiting, reference := some ref1 } : Path).stage = some .waiting ∧
    ({ path1 with state := .setting, stage := some .waiting, reference := some ref1 } : Path).owner = .operations ∧
    ({ path1 with state := .setting, stage := some .waiting, reference := some ref1 } : Path).granted = false ∧
    (xpAt state92.ctl ({ path1 with state := .setting, stage := some .waiting, reference := some ref1 } : Path).row ({ path1 with state := .setting, stage := some .waiting, reference := some ref1 } : Path).col).state = .opened ∧
    txLive state92.ctl ({ path1 with state := .setting, stage := some .waiting, reference := some ref1 } : Path).tx = false ∧
    state92.ctl.link.reports.length < 32 ∧
    state92.ctl.matrix.waiting = [] ∧
    state92.ctl.matrix.queue.filter (fun r => decide (r.pid ≠ ({ path1 with state := .setting, stage := some .waiting, reference := some ref1 } : Path).pid)) = [] := by
  simp only [calm_iff, quiet_iff, still_iff]
  decide +kernel

def state93 : State := st (moves ([]) ([]) (withXp 1 1 opened (withPath { path1 with state := .setting, stage := some .waiting, reference := some ref1 } base)))
theorem witness_MovementsAndPathsRunOut_limit_plain :
    Calm { state93.ctl with matrix := { state93.ctl.matrix with queue := [], waiting := [] } } ∧
    claimPath state93.ctl 1 = some { path1 with state := .setting, stage := some .waiting, reference := some ref1 } ∧
    ({ path1 with state := .setting, stage := some .waiting, reference := some ref1 } : Path).state = .setting ∧
    ({ path1 with state := .setting, stage := some .waiting, reference := some ref1 } : Path).stage = some .waiting ∧
    ({ path1 with state := .setting, stage := some .waiting, reference := some ref1 } : Path).owner = .operations ∧
    ({ path1 with state := .setting, stage := some .waiting, reference := some ref1 } : Path).granted = false ∧
    (xpAt state93.ctl ({ path1 with state := .setting, stage := some .waiting, reference := some ref1 } : Path).row ({ path1 with state := .setting, stage := some .waiting, reference := some ref1 } : Path).col).state = .opened ∧
    txLive state93.ctl ({ path1 with state := .setting, stage := some .waiting, reference := some ref1 } : Path).tx = false ∧
    state93.ctl.link.reports.length < 32 ∧
    state93.ctl.matrix.waiting = [] ∧
    state93.ctl.matrix.queue.filter (fun r => decide (r.pid ≠ ({ path1 with state := .setting, stage := some .waiting, reference := some ref1 } : Path).pid)) = [] := by
  simp only [calm_iff, quiet_iff, still_iff]
  decide +kernel

def state94 : State := st (moves ([close 7 0, close 1 1, close 8 2]) ([]) (slotsTaken (withXp 1 1 opened (withPath { path1 with state := .setting, stage := some .waiting, reference := some ref1 } base))))
theorem witness_MovementsAndPathsRunOut_limit_queued :
    Calm { state94.ctl with matrix := { state94.ctl.matrix with queue := [], waiting := [] } } ∧
    claimPath state94.ctl 1 = some { path1 with state := .setting, stage := some .waiting, reference := some ref1 } ∧
    ({ path1 with state := .setting, stage := some .waiting, reference := some ref1 } : Path).state = .setting ∧
    ({ path1 with state := .setting, stage := some .waiting, reference := some ref1 } : Path).stage = some .waiting ∧
    ({ path1 with state := .setting, stage := some .waiting, reference := some ref1 } : Path).owner = .operations ∧
    ({ path1 with state := .setting, stage := some .waiting, reference := some ref1 } : Path).granted = false ∧
    (xpAt state94.ctl ({ path1 with state := .setting, stage := some .waiting, reference := some ref1 } : Path).row ({ path1 with state := .setting, stage := some .waiting, reference := some ref1 } : Path).col).state = .opened ∧
    txLive state94.ctl ({ path1 with state := .setting, stage := some .waiting, reference := some ref1 } : Path).tx = false ∧
    state94.ctl.link.reports.length < 32 ∧
    (∀ k ∈ [1, 2, 3, 4], (tget k state94.ctl.matrix.slots).isSome = true) ∧
    state94.ctl.matrix.waiting = [] := by
  simp only [calm_iff, quiet_iff, still_iff]
  decide +kernel

def state95 : State := st (moves (List.replicate 32 (close 7 0)) ([close 1 0]) (slotsTaken (withXp 1 1 opened (withPath { path1 with state := .setting, stage := some .waiting, reference := some ref1 } base))))
theorem witness_MovementsAndPathsRunOut_limit_waiting :
    Calm { state95.ctl with matrix := { state95.ctl.matrix with queue := [], waiting := [] } } ∧
    claimPath state95.ctl 1 = some { path1 with state := .setting, stage := some .waiting, reference := some ref1 } ∧
    ({ path1 with state := .setting, stage := some .waiting, reference := some ref1 } : Path).state = .setting ∧
    ({ path1 with state := .setting, stage := some .waiting, reference := some ref1 } : Path).stage = some .waiting ∧
    ({ path1 with state := .setting, stage := some .waiting, reference := some ref1 } : Path).owner = .operations ∧
    ({ path1 with state := .setting, stage := some .waiting, reference := some ref1 } : Path).granted = false ∧
    (xpAt state95.ctl ({ path1 with state := .setting, stage := some .waiting, reference := some ref1 } : Path).row ({ path1 with state := .setting, stage := some .waiting, reference := some ref1 } : Path).col).state = .opened ∧
    txLive state95.ctl ({ path1 with state := .setting, stage := some .waiting, reference := some ref1 } : Path).tx = false ∧
    state95.ctl.link.reports.length < 32 ∧
    (∀ k ∈ [1, 2, 3, 4], (tget k state95.ctl.matrix.slots).isSome = true) ∧
    32 ≤ state95.ctl.matrix.queue.length ∧
    (∀ r ∈ state95.ctl.matrix.queue, r.pid ≠ ({ path1 with state := .setting, stage := some .waiting, reference := some ref1 } : Path).pid) := by
  simp only [calm_iff, quiet_iff, still_iff]
  decide +kernel

/-! ## The panel -/

def run1 : Running := { occ := { bank := .a, id := 3, day := 1 }, start := 86520, endTime := 90120, priority := 6 }
/-- An input that alone has changed is alone settling. -/
theorem edge_sound (i : PanelInput) (level : Bool) (c : Ctl) : PanelSound (withEdge i level c).panel := by
  refine ⟨by simp [withEdge], fun j => ?_⟩
  by_cases h : j = i
  · subst h
    cases level <;> simp [withEdge, Laws.get_set]
  · simp [withEdge, Laws.get_set, h]

theorem witness_PanelInputsAreConditioned_edge_same :
    Still calm.ctl ∧
    calm.ctl.panel.raw.get .maintenance = false := by
  simp only [still_iff]
  decide +kernel

theorem witness_PanelInputsAreConditioned_edge_absent :
    Still calm.ctl ∧
    inputExists (.localKey 25) = false := by
  simp only [still_iff]
  decide +kernel

theorem witness_PanelInputsAreConditioned_edge_first :
    Still calm.ctl ∧
    calm.ctl.panel.raw.get (.lockout 40) ≠ true ∧
    inputExists (.lockout 40) = true := by
  simp only [still_iff]
  decide +kernel

def state96 : State := st (withEdge .push true base)
theorem witness_PanelInputsAreConditioned_edge_back :
    Still state96.ctl ∧
    state96.ctl.panel.raw.get (.push) ≠ false ∧
    inputExists (.push) = true := by
  simp only [still_iff]
  decide +kernel

def state97 : State := st (withEdge (.localKey 1) true (base))
theorem witness_PanelInputsAreConditioned_local_1 :
    (Calm state97.ctl ∧
    ((.localKey 1), 7) ∈ state97.ctl.panel.edges ∧
    (PanelInput.localKey 1) = .localKey 1 ∧
    (∀ q ∈ state97.ctl.link.plantQueue, q.frame.verb ≠ .carrierOn)) ∧
    (PanelSound state97.ctl.panel) := by
  refine ⟨?_, edge_sound (.localKey 1) true (base)⟩
  simp only [calm_iff, quiet_iff, still_iff]
  decide +kernel

def state98 : State := st (withEdge (.localKey 24) true (base))
theorem witness_PanelInputsAreConditioned_local_24 :
    (Calm state98.ctl ∧
    ((.localKey 24), 7) ∈ state98.ctl.panel.edges ∧
    (PanelInput.localKey 24) = .localKey 24 ∧
    (∀ q ∈ state98.ctl.link.plantQueue, q.frame.verb ≠ .carrierOn)) ∧
    (PanelSound state98.ctl.panel) := by
  refine ⟨?_, edge_sound (.localKey 24) true (base)⟩
  simp only [calm_iff, quiet_iff, still_iff]
  decide +kernel

def state99 : State := st (withEdge (.lockout 1) true (base))
theorem witness_PanelInputsAreConditioned_lockout_free :
    (Calm state99.ctl ∧
    ((.lockout 1), 7) ∈ state99.ctl.panel.edges ∧
    PanelInput.lockout 1 = .lockout 1 ∧
    state99.ctl.panel.raw.get (.lockout 1) = true ∧
    columnPaths state99.ctl 1 = []) ∧
    (PanelSound state99.ctl.panel) := by
  refine ⟨?_, edge_sound (.lockout 1) true (base)⟩
  simp only [calm_iff, quiet_iff, still_iff]
  decide +kernel

def state100 : State := st (withEdge (.lockout 1) true (withPath path1 base))
theorem witness_PanelInputsAreConditioned_lockout_proven :
    (Calm state100.ctl ∧
    ((.lockout 1), 7) ∈ state100.ctl.panel.edges ∧
    PanelInput.lockout 1 = .lockout 1 ∧
    state100.ctl.panel.raw.get (.lockout 1) = true ∧
    state100.ctl.matrix.paths = [path1] ∧
    path1.ant = 1 ∧
    path1.state = .proven ∧
    txLive state100.ctl path1.tx = false ∧
    path1.owner = .operations) ∧
    (PanelSound state100.ctl.panel) := by
  refine ⟨?_, edge_sound (.lockout 1) true (withPath path1 base)⟩
  simp only [calm_iff, quiet_iff, still_iff]
  decide +kernel

def state101 : State := st (withEdge (.lockout 1) true (withPath (path1) (withTx (on1) base)))
theorem witness_PanelInputsAreConditioned_lockout_live_plain :
    (Calm state101.ctl ∧
    ((.lockout 1), 7) ∈ state101.ctl.panel.edges ∧
    PanelInput.lockout 1 = .lockout 1 ∧
    state101.ctl.panel.raw.get (.lockout 1) = true ∧
    state101.ctl.matrix.paths = [path1] ∧
    (path1 : Path).ant = 1 ∧
    (path1 : Path).state = .proven ∧
    txStatic state101.ctl (path1 : Path).tx = some tx1 ∧
    txDyn state101.ctl (path1 : Path).tx = some (on1) ∧
    (on1 : TxDyn).live = true ∧
    (on1 : TxDyn).interlockSent = false ∧
    stationClass state101.ctl.site.work tx1.station = some .transmitter ∧
    txOfStation state101.ctl.site.work tx1.station = some (path1 : Path).tx ∧
    (∀ q ∈ state101.ctl.link.plantQueue, q.frame.verb ≠ .carrierOn) ∧
    state101.ctl.link.plantQueue.length < 32 ∧
    state101.ctl.link.reports.length < 32) ∧
    (PanelSound state101.ctl.panel) := by
  refine ⟨?_, edge_sound (.lockout 1) true (withPath (path1) (withTx (on1) base))⟩
  simp only [calm_iff, quiet_iff, still_iff]
  decide +kernel

def state102 : State := st (withEdge (.lockout 1) true (withPath ({ path1 with owner := .idle }) (withTx ({ on1 with running := some run1 }) base)))
theorem witness_PanelInputsAreConditioned_lockout_live_running :
    (Calm state102.ctl ∧
    ((.lockout 1), 7) ∈ state102.ctl.panel.edges ∧
    PanelInput.lockout 1 = .lockout 1 ∧
    state102.ctl.panel.raw.get (.lockout 1) = true ∧
    state102.ctl.matrix.paths = [{ path1 with owner := .idle }] ∧
    ({ path1 with owner := .idle } : Path).ant = 1 ∧
    ({ path1 with owner := .idle } : Path).state = .proven ∧
    txStatic state102.ctl ({ path1 with owner := .idle } : Path).tx = some tx1 ∧
    txDyn state102.ctl ({ path1 with owner := .idle } : Path).tx = some ({ on1 with running := some run1 }) ∧
    ({ on1 with running := some run1 } : TxDyn).live = true ∧
    ({ on1 with running := some run1 } : TxDyn).interlockSent = false ∧
    stationClass state102.ctl.site.work tx1.station = some .transmitter ∧
    txOfStation state102.ctl.site.work tx1.station = some ({ path1 with owner := .idle } : Path).tx ∧
    (∀ q ∈ state102.ctl.link.plantQueue, q.frame.verb ≠ .carrierOn) ∧
    state102.ctl.link.plantQueue.length < 32 ∧
    state102.ctl.link.reports.length < 32) ∧
    (PanelSound state102.ctl.panel) := by
  refine ⟨?_, edge_sound (.lockout 1) true (withPath ({ path1 with owner := .idle }) (withTx ({ on1 with running := some run1 }) base))⟩
  simp only [calm_iff, quiet_iff, still_iff]
  decide +kernel

def state103 : State := st (withEdge (.lockout 40) false (base))
theorem witness_PanelInputsAreConditioned_lockout_off :
    (Calm state103.ctl ∧
    ((.lockout 40), 7) ∈ state103.ctl.panel.edges ∧
    PanelInput.lockout 40 = .lockout 40 ∧
    state103.ctl.panel.raw.get (.lockout 40) = false) ∧
    (PanelSound state103.ctl.panel) := by
  refine ⟨?_, edge_sound (.lockout 40) false (base)⟩
  simp only [calm_iff, quiet_iff, still_iff]
  decide +kernel

def state104 : State := st (withEdge (.maintenance) true (base))
theorem witness_PanelInputsAreConditioned_maintenance :
    (Calm state104.ctl ∧
    ((.maintenance), 7) ∈ state104.ctl.panel.edges) ∧
    (PanelSound state104.ctl.panel) := by
  refine ⟨?_, edge_sound (.maintenance) true (base)⟩
  simp only [calm_iff, quiet_iff, still_iff]
  decide +kernel

def state105 : State := st (withEdge (.push) true (base))
theorem witness_PanelInputsAreConditioned_push :
    (Calm state105.ctl ∧
    ((.push), 7) ∈ state105.ctl.panel.edges ∧
    state105.ctl.panel.raw.get (.push) = true ∧
    state105.ctl.link.reports.length < 32) ∧
    (PanelSound state105.ctl.panel) ∧
    (∀ n d, txDyn state105.ctl n = some d → d.live = false ∧ d.running = none) := by
  refine ⟨?_, edge_sound (.push) true (base), tget_all (t := [(1, off1)]) (p := fun (d : TxDyn) => d.live = false ∧ d.running = none) (by decide +kernel)⟩
  simp only [calm_iff, quiet_iff, still_iff]
  decide +kernel

def state106 : State := st (withEdge .push true { base with hall := { inForce := true, sources := [.station 121] } })
theorem witness_PanelInputsAreConditioned_push_again :
    (Still state106.ctl ∧
    (.push, 7) ∈ state106.ctl.panel.edges ∧
    state106.ctl.panel.raw.push = true ∧
    state106.ctl.hall.inForce = true) ∧
    (PanelSound state106.ctl.panel) := by
  refine ⟨?_, edge_sound .push true { base with hall := { inForce := true, sources := [.station 121] } }⟩
  simp only [still_iff]
  decide +kernel

def state107 : State := st (withEdge .push false { base with hall := { inForce := true, sources := [.station 121] } })
theorem witness_PanelInputsAreConditioned_push_off :
    (Still state107.ctl ∧
    (.push, 7) ∈ state107.ctl.panel.edges ∧
    state107.ctl.panel.raw.push = false) ∧
    (PanelSound state107.ctl.panel) := by
  refine ⟨?_, edge_sound .push false { base with hall := { inForce := true, sources := [.station 121] } }⟩
  simp only [still_iff]
  decide +kernel

/-! ## The store engine -/

def engineAt (o : EngineOp) (c : Ctl) : Ctl := { withOp o c with store := { (withOp o c).store with opStart := 1000 } }
def fresh : EntryRec := entry 8 1 9410 2 none 60 60 5

def state108 : State := st ({ base with store := { base.store with window := some 5, queue := [.erase .a [3] [ref1] true] } })
theorem witness_StoreOperationsEnd_window :
    Still state108.ctl ∧
    state108.ctl.store.window = some 5 ∧
    state108.ctl.store.op.isSome = true ∧
    state108.ctl.store.queue = [.erase .a [3] [ref1] true] := by
  simp only [still_iff]
  decide +kernel

def state109 : State := st (engineAt (.slotWrite .a 1 fresh 0 (some ref1)) (withBankA (bankOf .filling [entry 7 1 9410 2 none 60 60 5]) base))
theorem witness_StoreOperationsEnd_write_in_use :
    Still state109.ctl ∧
    EngineIdle state109.ctl.store ∧
    state109.ctl.link.reports.length < 32 ∧
    state109.ctl.store.op = some (.slotWrite .a 1 fresh 0 (some ref1)) ∧
    (bankRec state109.ctl .a).header.state ≠ .active := by
  simp only [still_iff, idle_iff]
  decide +kernel

def state110 : State := st (engineAt (.slotWrite .a 128 fresh 0 (some ref1)) (withBankA (bankOf .filling [entry 7 1 9410 2 none 60 60 5]) base))
theorem witness_StoreOperationsEnd_write_erased :
    Still state110.ctl ∧
    EngineIdle state110.ctl.store ∧
    state110.ctl.link.reports.length < 32 ∧
    state110.ctl.store.op = some (.slotWrite .a 128 fresh 0 (some ref1)) ∧
    (bankRec state110.ctl .a).header.state ≠ .active := by
  simp only [still_iff, idle_iff]
  decide +kernel

def state111 : State := st ({ engineAt (.slotWrite .a 1 fresh 1 none) base with load := burst 1 false })
theorem witness_StoreOperationsEnd_burst :
    Still state111.ctl ∧
    EngineIdle state111.ctl.store ∧
    state111.ctl.link.reports.length < 32 ∧
    state111.ctl.store.op = some (.slotWrite .a 1 fresh 1 none) ∧
    state111.ctl.load.state = .open_ ∧
    state111.ctl.load.bank = .a ∧
    state111.ctl.load.number = 1 ∧
    state111.ctl.load.hand = .queued ∧
    state111.ctl.load.buffer = [(2, record22)] ∧
    state111.ctl.load.paused = false := by
  simp only [still_iff, idle_iff]
  decide +kernel

def state112 : State := st (engineAt (.void .a 0 7 ref1) (withBankA (bankOf .filling [entry 7 1 9410 2 none 60 60 5]) base))
theorem witness_StoreOperationsEnd_void :
    Still state112.ctl ∧
    EngineIdle state112.ctl.store ∧
    state112.ctl.link.reports.length < 32 ∧
    state112.ctl.store.op = some (.void .a 0 7 ref1) ∧
    (bankRec state112.ctl .a).header.state ≠ .active ∧
    tget 0 (bankRec state112.ctl .a).slots = some (slot (entry 7 1 9410 2 none 60 60 5)) := by
  simp only [still_iff, idle_iff]
  decide +kernel

def state113 : State := st (engineAt (.header .b (.create 9 100) (some ref1)) base)
theorem witness_StoreOperationsEnd_create :
    Still state113.ctl ∧
    EngineIdle state113.ctl.store ∧
    state113.ctl.link.reports.length < 32 ∧
    state113.ctl.store.op = some (.header .b (.create 9 100) (some ref1)) := by
  simp only [still_iff, idle_iff]
  decide +kernel

def state114 : State := st (engineAt (.header .a .seal (some ref1)) (withBankA (bankOf .filling []) base))
theorem witness_StoreOperationsEnd_seal :
    Still state114.ctl ∧
    EngineIdle state114.ctl.store ∧
    state114.ctl.link.reports.length < 32 ∧
    state114.ctl.store.op = some (.header .a .seal (some ref1)) ∧
    state114.ctl.plan.time = none := by
  simp only [still_iff, idle_iff]
  decide +kernel

def state115 : State := st (engineAt (.siteSave false tables 65535 ref1) base)
theorem witness_StoreOperationsEnd_save_false :
    Still state115.ctl ∧
    EngineIdle state115.ctl.store ∧
    state115.ctl.link.reports.length < 32 ∧
    state115.ctl.store.op = some (.siteSave false tables 65535 ref1) := by
  simp only [still_iff, idle_iff]
  decide +kernel

def state116 : State := st (engineAt (.siteSave true tables 65535 ref1) base)
theorem witness_StoreOperationsEnd_save_true :
    Still state116.ctl ∧
    EngineIdle state116.ctl.store ∧
    state116.ctl.link.reports.length < 32 ∧
    state116.ctl.store.op = some (.siteSave true tables 65535 ref1) := by
  simp only [still_iff, idle_iff]
  decide +kernel

def state117 : State := st ({ engineAt (.erasePage .a 1) (withBankA (bankOf .filling [entry 7 1 9410 2 none 60 60 5]) base) with store := { (engineAt (.erasePage .a 1) (withBankA (bankOf .filling [entry 7 1 9410 2 none 60 60 5]) base)).store with eraseJob := some { bank := .a, isClear := false, pages := [1], done := 0, refs := [ref1], serve := 0 } } })
theorem witness_StoreOperationsEnd_erase :
    Still state117.ctl ∧
    state117.ctl.store.op = some (.erasePage .a 1) ∧
    state117.ctl.store.eraseJob = some { bank := .a, isClear := false, pages := [1], done := 0, refs := [ref1], serve := 0 } ∧
    ({ bank := .a, isClear := false, pages := [1], done := 0, refs := [ref1], serve := 0 } : EraseJob).bank = .a ∧
    ({ bank := .a, isClear := false, pages := [1], done := 0, refs := [ref1], serve := 0 } : EraseJob).isClear = false ∧
    ({ bank := .a, isClear := false, pages := [1], done := 0, refs := [ref1], serve := 0 } : EraseJob).pages = [1] ∧
    ({ bank := .a, isClear := false, pages := [1], done := 0, refs := [ref1], serve := 0 } : EraseJob).refs = [ref1] ∧
    state117.ctl.store.queue = [] ∧
    state117.ctl.store.activation = [] ∧
    state117.ctl.link.reports.length < 32 := by
  simp only [still_iff]
  decide +kernel

def state118 : State := st (engineAt (.slotWrite .a 2047 fresh 0 (some ref1)) base)
theorem witness_StoreLimitsExpire_write :
    Still state118.ctl ∧
    EngineIdle state118.ctl.store ∧
    state118.ctl.link.reports.length < 32 ∧
    state118.ctl.store.op = some (.slotWrite .a 2047 fresh 0 (some ref1)) := by
  simp only [still_iff, idle_iff]
  decide +kernel

theorem witness_StoreLimitsExpire_header :
    Still state114.ctl ∧
    EngineIdle state114.ctl.store ∧
    state114.ctl.link.reports.length < 32 ∧
    state114.ctl.store.op = some (.header .a .seal (some ref1)) := by
  simp only [still_iff, idle_iff]
  decide +kernel

def state119 : State := st (engineAt (.siteSave true tables 2 ref1) base)
theorem witness_StoreLimitsExpire_save :
    Still state119.ctl ∧
    EngineIdle state119.ctl.store ∧
    state119.ctl.link.reports.length < 32 ∧
    state119.ctl.store.op = some (.siteSave true tables 2 ref1) := by
  simp only [still_iff, idle_iff]
  decide +kernel

/-! ## Positions and lead times -/

/-- A steerable array on 350.0 degrees with five offsets. -/
def fan : AntStatic := { ant2 with boresight := some 3500, offsets := some [-300, -150, 0, 150, 300] }
def tolerant : Tables := { tables with site := { tables.site with tolerance := 75 } }
/-- R95 by hand: 357.5 degrees lies 75 from the zero offset and from the next, and the lower index is taken; 27.6 degrees lies
76 from the nearest. -/
theorem test_steer_mapping :
    mapBearing tolerant fan (some 3575) = some (.index 3) ∧ mapBearing tolerant fan (some 275) = some (.index 5) ∧
    mapBearing tolerant fan (some 276) = none ∧ mapBearing tolerant fan none = some (.index 3) := by decide

theorem witness_SteerIndexIsTheNearest_tie :
    fan.kind = .steerable ∧
    fan.boresight = some 3500 ∧
    fan.offsets = some [-300, -150, 0, 150, 300] ∧
    3500 < 3600 ∧
    (∀ o ∈ [-300, -150, 0, 150, (300 : Int)], -600 ≤ o ∧ o ≤ 600) ∧
    [-300, -150, 0, 150, (300 : Int)].Pairwise (· < ·) ∧
    3575 < 3600 ∧
    [-300, -150, 0, 150, (300 : Int)][2]? = some 0 := by
  decide +kernel

theorem witness_SteerIndexIsTheNearest_far :
    fan.kind = .steerable ∧
    fan.boresight = some 3500 ∧
    fan.offsets = some [-300, -150, 0, 150, 300] ∧
    3500 < 3600 ∧
    (∀ o ∈ [-300, -150, 0, 150, (300 : Int)], -600 ≤ o ∧ o ≤ 600) ∧
    [-300, -150, 0, 150, (300 : Int)].Pairwise (· < ·) ∧
    276 < 3600 := by
  decide +kernel

theorem witness_SteerIndexIsTheNearest_absent :
    fan.kind = .steerable ∧
    fan.boresight = some 3500 ∧
    fan.offsets = some [-300, -150, 0, 150, 300] ∧
    3500 < 3600 ∧
    (∀ o ∈ [-300, -150, 0, 150, (300 : Int)], -600 ≤ o ∧ o ≤ 600) ∧
    [-300, -150, 0, 150, (300 : Int)].Pairwise (· < ·) ∧
    [-300, -150, 0, 150, (300 : Int)][2]? = some 0 := by
  decide +kernel

/-- Section 6.5, case 1, with its two predecessors. -/
def case1 : Ctl :=
  let c := withBankA (bankOf .active [entry 1 1 9410 2 (some 900) 778 60 5, entry 2 3 15160 1 (some 2700) 750 60 5]) base
  { c with plan := { c.plan with events := [planned 1 1 0, planned 2 3 0] } }
def coming : EntryRec := entry 3 1 15160 1 (some 1500) 840 60 6
def ahead (l : List EntryRec) (n : Nat) : Candidate :=
  let e := l.getD n coming
  { tx := e.tx, id := e.id, priority := e.priority, start := occStart e 1, finish := occEnd e 1, freq := e.freq,
    ant := e.ant, bearing := e.bearing }
/-- A standing path to the other antenna, and no predecessor. -/
def otherPath : Ctl := withPath { path1 with ant := 2, col := 2 } base

theorem witness_LeadFiguresFollowTheRules_position_turn :
    ant1.kind = .rotatable ∧
    ant1.stopBearing = some 1800 ∧
    ant1.margin = some 50 ∧
    ant1.slewRate = some 15 ∧
    ant1.settle = some 8 ∧
    1 ≤ 15 ∧
    1800 < 3600 ∧
    1500 < 3600 ∧
    2700 < 3600 ∧
    Target.bearing 2700 = .bearing 2700 := by
  decide +kernel

theorem witness_LeadFiguresFollowTheRules_position_stop :
    ant1.kind = .rotatable ∧
    ant1.stopBearing = some 1800 ∧
    ant1.margin = some 50 ∧
    ant1.slewRate = some 15 ∧
    ant1.settle = some 8 ∧
    1 ≤ 15 ∧
    1800 < 3600 ∧
    1799 < 3600 ∧
    1800 < 3600 ∧
    Target.bearing 1800 = .bearing 1800 := by
  decide +kernel

theorem witness_LeadFiguresFollowTheRules_position_unknown :
    ant1.kind = .rotatable ∧
    ant1.stopBearing = some 1800 ∧
    ant1.margin = some 50 ∧
    ant1.slewRate = some 15 ∧
    ant1.settle = some 8 ∧
    1 ≤ 15 ∧
    1800 < 3600 ∧
    1500 < 3600 ∧
    Target.none = .none := by
  decide +kernel

theorem witness_LeadFiguresFollowTheRules_position_steerable :
    ant2.kind = .steerable ∧
    ant2.phasing = some 5 := by
  decide +kernel

theorem witness_LeadFiguresFollowTheRules_position_fixed :
    (({ ant2 with kind := .fixed } : AntStatic)).kind = .fixed := by
  decide +kernel

theorem witness_LeadFiguresFollowTheRules_sum_predecessors :
    (match txPredecessor (candidates case1) coming.tx (86400 + 14 * 3600) with
    | some p => some 9410 = some p.freq ∧ some 2 = some p.ant ∧ (true = true ↔ p.ant ≠ coming.ant)
    | none => some 9410 = ((txDyn case1 coming.tx).bind (fun d => if d.tune = .idle then d.freq else none)) ∧
        some 2 = (claimPath case1 coming.tx).map (fun p => p.ant) ∧ (true = true ↔ ∃ p ∈ case1.matrix.paths, p.tx = coming.tx ∧ p.ant ≠ coming.ant)) ∧
    (match antPredecessor (candidates case1) coming.ant (86400 + 14 * 3600) with
    | some p => Target.bearing 2700 = (mapBearing case1.site.work ant1 p.bearing).getD .none ∧ (true = true ↔ p.tx ≠ coming.tx)
    | none => Target.bearing 2700 = expectedPosition case1 coming.ant ∧ (true = true ↔ ∃ p ∈ case1.matrix.paths, p.ant = coming.ant ∧ p.tx ≠ coming.tx)) := ⟨(by
    rw [show txPredecessor (candidates case1) coming.tx (86400 + 14 * 3600) = some (ahead [entry 1 1 9410 2 (some 900) 778 60 5] 0) by decide +kernel]
    decide +kernel), (by
    rw [show antPredecessor (candidates case1) coming.ant (86400 + 14 * 3600) = some (ahead [entry 2 3 15160 1 (some 2700) 750 60 5] 0) by decide +kernel]
    decide +kernel)⟩

theorem witness_LeadFiguresFollowTheRules_sum_records :
    (match txPredecessor (candidates otherPath) coming.tx (86400 + 14 * 3600) with
    | some p => some 9410 = some p.freq ∧ some 2 = some p.ant ∧ (true = true ↔ p.ant ≠ coming.ant)
    | none => some 9410 = ((txDyn otherPath coming.tx).bind (fun d => if d.tune = .idle then d.freq else none)) ∧
        some 2 = (claimPath otherPath coming.tx).map (fun p => p.ant) ∧ (true = true ↔ ∃ p ∈ otherPath.matrix.paths, p.tx = coming.tx ∧ p.ant ≠ coming.ant)) ∧
    (match antPredecessor (candidates otherPath) coming.ant (86400 + 14 * 3600) with
    | some p => Target.bearing 2700 = (mapBearing otherPath.site.work ant1 p.bearing).getD .none ∧ (false = true ↔ p.tx ≠ coming.tx)
    | none => Target.bearing 2700 = expectedPosition otherPath coming.ant ∧ (false = true ↔ ∃ p ∈ otherPath.matrix.paths, p.ant = coming.ant ∧ p.tx ≠ coming.tx)) := ⟨(by
    rw [show txPredecessor (candidates otherPath) coming.tx (86400 + 14 * 3600) = none by decide +kernel]
    decide +kernel), (by
    rw [show antPredecessor (candidates otherPath) coming.ant (86400 + 14 * 3600) = none by decide +kernel]
    decide +kernel)⟩

theorem witness_LeadFiguresFollowTheRules :
    1 ≤ tx1.tm ∧
    1 ≤ tx1.tu := by
  decide +kernel

/-! ## Site time and the plan -/

theorem witness_SiteTimePasses_invalid :
    Still calm.ctl ∧
    calm.ctl.plan.time = none := by
  simp only [still_iff]
  decide +kernel

def state120 : State := st (withTime (65536 * 86400 - 2) base)
theorem witness_SiteTimePasses_second :
    Still state120.ctl ∧
    state120.ctl.plan.time = some (65536 * 86400 - 2) ∧
    65536 * 86400 - 2 < 65536 * 86400 - 1 := by
  simp only [still_iff]
  decide +kernel

def state121 : State := st (withTime (65536 * 86400 - 1) base)
theorem witness_SiteTimePasses_last :
    Still state121.ctl ∧
    state121.ctl.plan.time = some (65536 * 86400 - 1) ∧
    65536 * 86400 - 1 ≤ 65536 * 86400 - 1 := by
  simp only [still_iff]
  decide +kernel

def state122 : State := st (withPhase .adopt (withTime 60 base))
theorem witness_SiteTimePasses_refill_start_up :
    Still state122.ctl ∧
    state122.ctl.start.phase ≠ .running := by
  simp only [still_iff]
  decide +kernel

def state123 : State := st (withTime 61 base)
theorem witness_SiteTimePasses_refill_between :
    Still state123.ctl ∧
    state123.ctl.plan.time = some 61 ∧
    61 % 60 ≠ 0 := by
  simp only [still_iff]
  decide +kernel

/-- Day 1, 00:00:00: bank A is ACTIVE with entries 3 (00:02 to 01:02) and 4 (00:30 to 00:40), and the scan mark stands before
them. -/
def entry3 : EntryRec := entry 3 1 15160 1 (some 1500) 2 60 6
def entry4 : EntryRec := entry 4 1 9410 2 none 30 10 7
def minute (l : List EntryRec) (v : List Event) : Ctl :=
  let c := planOf v (withBankA (bankOf .active l) (withTime 86400 base))
  { c with plan := { c.plan with scan := { time := 86400, resume := none, left := [] } } }
/-- The START and the END of an entry on day 1. -/
def startOf (e : EntryRec) : Consider := (bothEvents .a e 1).headD { key := { time := 0, priority := 0, id := 0, day := 0, isStart := true }, occ := { bank := .a, id := 0, day := 0 }, tx := 0, start := 0, finish := 0, entry := none }
def endOf (e : EntryRec) : Consider := ((bothEvents .a e 1).drop 1).headD (startOf e)
/-- Entry 5 starts on day 0 and ends at 00:20 of day 1. -/
def entry5 : EntryRec := entry 5 1 9410 2 none 1430 30 5
def ending5 : Consider :=
  ((bothEvents .a entry5 0).drop 1).headD (startOf entry5)
/-- Entry 6 starts at 00:30 and ends long after the horizon. -/
def entryLong : EntryRec := entry 6 1 15160 1 (some 1500) 30 600 7
def waitingStart (tx : Nat) : Event := { planned 9 tx 87600 with begin_ := 87600 }
/-- 256 events of transmitter 2, none of them due. -/
def fullPlan : List Event :=
  (List.range 256).map (fun i => { planned (100 + i) 2 90000 with occ := { bank := .a, id := 100 + i, day := 0 } })

def state124 : State := st (minute [entry3, entry4] [])
theorem witness_SiteTimePasses_considered :
    Still state124.ctl ∧
    state124.ctl.start.phase = .running ∧
    state124.ctl.plan.time = some 86400 ∧
    (∀ p ∈ state124.ctl.gate.tx, p.2.running = none) ∧
    activeBank state124.ctl = some .a ∧
    90000 < 65536 * 86400 ∧
    86400 < 65536 * 86400 ∧
    (∀ e ∈ scheduleEntries (bankRec state124.ctl .a), e.start < 1440 ∧ e.duration ≤ 1440) := by
  simp only [still_iff]
  decide +kernel

def state125 : State := st (withTime 120 base)
theorem witness_SiteTimePasses_refill_no_season :
    Still state125.ctl ∧
    state125.ctl.start.phase = .running ∧
    state125.ctl.plan.time = some 120 ∧
    120 % 60 = 0 ∧
    (∀ v ∈ state125.ctl.plan.events, 120 < v.begin_) ∧
    activeBank state125.ctl = none ∧
    (∀ p ∈ state125.ctl.gate.tx, p.2.running = none) := by
  simp only [still_iff]
  decide +kernel

def state126 : State := st (minute [entry 4 1 9410 2 none 120 10 7] [waitingStart 1])
theorem witness_SiteTimePasses_refill_nothing :
    Still state126.ctl ∧
    state126.ctl.start.phase = .running ∧
    state126.ctl.plan.time = some 86400 ∧
    86400 % 60 = 0 ∧
    (∀ v ∈ state126.ctl.plan.events, 86400 < v.begin_) ∧
    scanRange state126.ctl (min (86400 + 3600) (65536 * 86400 - 1)) = [] := by
  simp only [still_iff]
  decide +kernel

def state127 : State := st (minute [entryLong] [])
theorem witness_SiteTimePasses_refill_start :
    Still state127.ctl ∧
    state127.ctl.start.phase = .running ∧
    state127.ctl.plan.time = some 86400 ∧
    86400 % 60 = 0 ∧
    (∀ v ∈ state127.ctl.plan.events, 86400 < v.begin_) ∧
    scanRange state127.ctl (min (86400 + 3600) (65536 * 86400 - 1)) = [startOf entryLong] ∧
    (startOf entryLong).key.isStart = true ∧
    (startOf entryLong).entry = some entryLong ∧
    86400 < (startOf entryLong).key.time ∧
    86400 < (startOf entryLong).finish ∧
    state127.ctl.plan.events = [] ∧
    state127.ctl.plan.log = [] ∧
    state127.ctl.plan.high = none ∧
    siteTests state127.ctl.site.work entryLong = none ∧
    txStatic state127.ctl entryLong.tx = some tx1 ∧
    antStatic state127.ctl entryLong.ant = some ant1 ∧
    mapBearing state127.ctl.site.work ant1 entryLong.bearing = some (.bearing 1500) ∧
    state127.ctl.link.reports.length < 31 ∧
    86400 < (figuresOf state127.ctl tx1 ant1 entryLong (.bearing 1500) (startOf entryLong).key.time 86400).begin_ := by
  simp only [still_iff]
  decide +kernel

def state128 : State := st ({ minute [entryLong] [] with plan := { (minute [entryLong] []).plan with holdLevel := 8 } })
theorem witness_SiteTimePasses_refill_start_masked :
    Still state128.ctl ∧
    state128.ctl.start.phase = .running ∧
    state128.ctl.plan.time = some 86400 ∧
    86400 % 60 = 0 ∧
    (∀ v ∈ state128.ctl.plan.events, 86400 < v.begin_) ∧
    scanRange state128.ctl (min (86400 + 3600) (65536 * 86400 - 1)) = [startOf entryLong] ∧
    (startOf entryLong).key.isStart = true ∧
    (startOf entryLong).entry = some entryLong ∧
    86400 < (startOf entryLong).key.time ∧
    86400 < (startOf entryLong).finish ∧
    state128.ctl.plan.events = [] ∧
    state128.ctl.plan.log = [] ∧
    state128.ctl.plan.high = none ∧
    siteTests state128.ctl.site.work entryLong = none ∧
    txStatic state128.ctl entryLong.tx = some tx1 ∧
    antStatic state128.ctl entryLong.ant = some ant1 ∧
    mapBearing state128.ctl.site.work ant1 entryLong.bearing = some (.bearing 1500) ∧
    state128.ctl.link.reports.length < 31 ∧
    86400 < (figuresOf state128.ctl tx1 ant1 entryLong (.bearing 1500) (startOf entryLong).key.time 86400).begin_ := by
  simp only [still_iff]
  decide +kernel

def state129 : State := st (minute [entry5] [])
theorem witness_SiteTimePasses_refill_end :
    Still state129.ctl ∧
    state129.ctl.start.phase = .running ∧
    state129.ctl.plan.time = some 86400 ∧
    86400 % 60 = 0 ∧
    (∀ v ∈ state129.ctl.plan.events, 86400 < v.begin_) ∧
    scanRange state129.ctl (min (86400 + 3600) (65536 * 86400 - 1)) = ending5 :: [] ∧
    (ending5).key.isStart = false ∧
    86400 < (ending5).finish ∧
    (∀ v ∈ state129.ctl.plan.events, v.kind = .finish → v.occ ≠ (ending5).occ) ∧
    state129.ctl.plan.events = [] := by
  simp only [still_iff]
  decide +kernel

def state130 : State := st (minute [entry5] [waitingStart 1])
theorem witness_SiteTimePasses_refill_absorbed :
    Still state130.ctl ∧
    state130.ctl.start.phase = .running ∧
    state130.ctl.plan.time = some 86400 ∧
    86400 % 60 = 0 ∧
    (∀ v ∈ state130.ctl.plan.events, 86400 < v.begin_) ∧
    scanRange state130.ctl (min (86400 + 3600) (65536 * 86400 - 1)) = ending5 :: [] ∧
    (ending5).key.isStart = false ∧
    86400 < (ending5).finish ∧
    (∀ v ∈ state130.ctl.plan.events, v.kind = .finish → v.occ ≠ (ending5).occ) ∧
    state130.ctl.plan.events = [waitingStart 1] ∧
    (waitingStart 1).kind = .start ∧
    (waitingStart 1).tx = ending5.tx ∧
    (waitingStart 1).begin_ = ending5.finish ∧
    (waitingStart 1).masked = false ∧
    (waitingStart 1).absorbed = none ∧
    (waitingStart 1).occ ≠ ending5.occ := by
  simp only [still_iff]
  decide +kernel

def state131 : State := st (minute [entry5] [{ waitingStart 1 with absorbed := some { occ := ending5.occ, priority := 6, start := 0, finish := 1 } }])
theorem witness_SiteTimePasses_refill_absorbed_before :
    Still state131.ctl ∧
    state131.ctl.start.phase = .running ∧
    state131.ctl.plan.time = some 86400 ∧
    86400 % 60 = 0 ∧
    (∀ v ∈ state131.ctl.plan.events, 86400 < v.begin_) ∧
    scanRange state131.ctl (min (86400 + 3600) (65536 * 86400 - 1)) = ending5 :: [] ∧
    (ending5).key.isStart = false ∧
    86400 < (ending5).finish ∧
    (∀ v ∈ state131.ctl.plan.events, v.kind = .finish → v.occ ≠ (ending5).occ) ∧
    state131.ctl.plan.events = [{ waitingStart 1 with absorbed := some { occ := ending5.occ, priority := 6, start := 0, finish := 1 } }] ∧
    ({ waitingStart 1 with absorbed := some { occ := ending5.occ, priority := 6, start := 0, finish := 1 } } : Event).kind = .start ∧
    ({ waitingStart 1 with absorbed := some { occ := ending5.occ, priority := 6, start := 0, finish := 1 } } : Event).tx = ending5.tx ∧
    ({ waitingStart 1 with absorbed := some { occ := ending5.occ, priority := 6, start := 0, finish := 1 } } : Event).absorbed = some { occ := ending5.occ, priority := 6, start := 0, finish := 1 } ∧
    ({ occ := ending5.occ, priority := 6, start := 0, finish := 1 } : Absorbed).occ = ending5.occ := by
  simp only [still_iff]
  decide +kernel

def state132 : State := st (minute [entry5] fullPlan)
theorem witness_SiteTimePasses_refill_full :
    Still state132.ctl ∧
    state132.ctl.start.phase = .running ∧
    state132.ctl.plan.time = some 86400 ∧
    86400 % 60 = 0 ∧
    (∀ v ∈ state132.ctl.plan.events, 86400 < v.begin_) ∧
    scanRange state132.ctl (min (86400 + 3600) (65536 * 86400 - 1)) = ending5 :: [] ∧
    (ending5).key.isStart = false ∧
    86400 < (ending5).finish ∧
    (∀ v ∈ state132.ctl.plan.events, v.kind = .finish → v.occ ≠ (ending5).occ) ∧
    256 ≤ state132.ctl.plan.events.length ∧
    (∀ v ∈ state132.ctl.plan.events, v.tx ≠ ending5.tx) ∧
    activeBank state132.ctl = some .a ∧
    state132.ctl.link.reports.length < 32 := by
  simp only [still_iff]
  decide +kernel

def state133 : State := st ({ minute [entry5] fullPlan with plan := { (minute [entry5] fullPlan).plan with fullLatch := true } })
theorem witness_SiteTimePasses_refill_full_again :
    Still state133.ctl ∧
    state133.ctl.start.phase = .running ∧
    state133.ctl.plan.time = some 86400 ∧
    86400 % 60 = 0 ∧
    (∀ v ∈ state133.ctl.plan.events, 86400 < v.begin_) ∧
    scanRange state133.ctl (min (86400 + 3600) (65536 * 86400 - 1)) = ending5 :: [] ∧
    (ending5).key.isStart = false ∧
    86400 < (ending5).finish ∧
    (∀ v ∈ state133.ctl.plan.events, v.kind = .finish → v.occ ≠ (ending5).occ) ∧
    256 ≤ state133.ctl.plan.events.length ∧
    (∀ v ∈ state133.ctl.plan.events, v.tx ≠ ending5.tx) ∧
    activeBank state133.ctl = some .a ∧
    state133.ctl.link.reports.length < 32 := by
  simp only [still_iff]
  decide +kernel

/-- The END of entry 1's occurrence, left over by a full plan at 86300, and one of entry 5 that an append left over. -/
def leftEnd : Consider := endToConsider { bank := .a, id := 1, day := 0 } 1 6 80000 86000 86300
def leaving (x : Consider) (c : Ctl) : Ctl := { c with plan := { c.plan with scan := { c.plan.scan with left := [x] } } }
def underStop (c : Ctl) : Ctl := { c with hall := { inForce := true, sources := [.push] } }

def state134 : State := st (leaving leftEnd (underStop (minute [] [])))
theorem witness_SiteTimePasses_left_now :
    Still state134.ctl ∧
    state134.ctl.start.phase = .running ∧
    state134.ctl.plan.time = some 86400 ∧
    86400 % 60 = 0 ∧
    (∀ v ∈ state134.ctl.plan.events, 86400 < v.begin_) ∧
    state134.ctl.plan.scan.left = [leftEnd] ∧
    (leftEnd).key.isStart = false ∧
    (leftEnd).entry = none ∧
    state134.ctl.plan.events = [] ∧
    scanRange state134.ctl (min (86400 + 3600) (65536 * 86400 - 1)) = [] ∧
    state134.ctl.hall.inForce = true := by
  simp only [still_iff]
  decide +kernel

def state135 : State := st (leaving ending5 { minute [entry5] [] with plan := { (minute [entry5] []).plan with scan := { time := 90000, resume := none, left := [] } } })
theorem witness_SiteTimePasses_left_later :
    Still state135.ctl ∧
    state135.ctl.start.phase = .running ∧
    state135.ctl.plan.time = some 86400 ∧
    86400 % 60 = 0 ∧
    (∀ v ∈ state135.ctl.plan.events, 86400 < v.begin_) ∧
    state135.ctl.plan.scan.left = [ending5] ∧
    (ending5).key.isStart = false ∧
    (ending5).entry = some entry5 ∧
    activeBank state135.ctl = some (ending5).occ.bank ∧
    entry5 ∈ scheduleEntries (bankRec state135.ctl (ending5).occ.bank) ∧
    state135.ctl.plan.events = [] ∧
    scanRange state135.ctl (min (86400 + 3600) (65536 * 86400 - 1)) = [] ∧
    86400 < (ending5).key.time := by
  simp only [still_iff]
  decide +kernel

def state136 : State := st (leaving leftEnd (minute [] fullPlan))
theorem witness_SiteTimePasses_left_full :
    Still state136.ctl ∧
    state136.ctl.start.phase = .running ∧
    state136.ctl.plan.time = some 86400 ∧
    86400 % 60 = 0 ∧
    (∀ v ∈ state136.ctl.plan.events, 86400 < v.begin_) ∧
    state136.ctl.plan.scan.left = [leftEnd] ∧
    (leftEnd).key.isStart = false ∧
    (leftEnd).entry = none ∧
    256 ≤ state136.ctl.plan.events.length ∧
    (∀ v ∈ state136.ctl.plan.events, v.tx ≠ (leftEnd).tx) ∧
    (∀ v ∈ state136.ctl.plan.events, v.kind = .finish → v.occ ≠ (leftEnd).occ) ∧
    activeBank state136.ctl = some .a ∧
    state136.ctl.link.reports.length < 32 := by
  simp only [still_iff]
  decide +kernel

/-- R160: an END that a masked START gives back to a full plan stands before the scan mark (log entry 28). -/
theorem test_end_left_over : (insertEndNow { bank := .a, id := 1, day := 0 } 1 6 80000 86000 (minute [] fullPlan)).plan.scan.left
    = [endToConsider { bank := .a, id := 1, day := 0 } 1 6 80000 86000 86400] := by decide +kernel
/-- R158: a START between the rebuild at which the plan was full and the next minute is inserted LATE, though H has passed its
start. -/
theorem test_start_after_stopped_catch_up :
    ((refill 86580 { withTime 86580 (minute [entry3] []) with
        plan := { (minute [entry3] []).plan with time := some 86580, high := some 86560 } }).plan.events.map
      (fun v => (v.occ.id, v.begin_, v.late))) = [(3, 86580, true), (3, 90120, false)] := by decide +kernel

def state137 : State := st (withTime 900 (withEvent (planned 1 1 900) base))
theorem witness_SiteTimePasses_ended :
    Still state137.ctl ∧
    state137.ctl.start.phase = .running ∧
    state137.ctl.plan.time = some 900 ∧
    state137.ctl.plan.events = [planned 1 1 900] ∧
    (planned 1 1 900 : Event).kind = .start ∧
    (planned 1 1 900 : Event).occEnd ≤ 900 ∧
    (planned 1 1 900 : Event).absorbed = none ∧
    state137.ctl.plan.log = [] ∧
    state137.ctl.link.reports.length < 32 := by
  simp only [still_iff]
  decide +kernel

def state138 : State := st (withTime 900 (withEvent ({ planned 1 1 900 with masked := true }) base))
theorem witness_SiteTimePasses_masked :
    Still state138.ctl ∧
    state138.ctl.start.phase = .running ∧
    state138.ctl.plan.time = some 900 ∧
    state138.ctl.plan.events = [{ planned 1 1 900 with masked := true }] ∧
    ({ planned 1 1 900 with masked := true } : Event).kind = .start ∧
    ({ planned 1 1 900 with masked := true } : Event).occEnd ≤ 900 ∧
    ({ planned 1 1 900 with masked := true } : Event).absorbed = none ∧
    state138.ctl.plan.log = [] ∧
    state138.ctl.link.reports.length < 32 := by
  simp only [still_iff]
  decide +kernel

def state139 : State := st ({ withTime 900 base with plan := { (withTime 900 base).plan with log := [{ occ := { bank := .a, id := 1, day := 0 }, start := 400, occEnd := 900, returned := false }] } })
theorem witness_SiteTimePasses_record :
    Still state139.ctl ∧
    state139.ctl.start.phase = .running ∧
    state139.ctl.plan.time = some 900 ∧
    state139.ctl.plan.events = [] ∧
    state139.ctl.plan.log = [{ occ := { bank := .a, id := 1, day := 0 }, start := 400, occEnd := 900, returned := false }] ∧
    ({ occ := { bank := .a, id := 1, day := 0 }, start := 400, occEnd := 900, returned := false } : LogRec).returned = false ∧
    ({ occ := { bank := .a, id := 1, day := 0 }, start := 400, occEnd := 900, returned := false } : LogRec).occEnd ≤ 900 := by
  simp only [still_iff]
  decide +kernel

/-- A START of entry 3 of bank A, due at its begin 86500 for an occurrence from 86520 to 90120 of day 1. -/
def dueStart : Event :=
  { kind := .start, occ := { bank := .a, id := 3, day := 1 }, tx := 1, priority := 6, time := 86520, occStart := 86520, occEnd := 90120,
    lead := 20, begin_ := 86500, rf := 86520, leadClamped := false, late := false, masked := false, wait := none,
    absorbed := none, returnEnd := none }
def due (v : Event) (log : List LogRec) : Ctl :=
  let c := withTime 86510 (withEvent v (withBankA (bankOf .active [entry3]) (withTx on1 base)))
  { c with plan := { c.plan with log := log } }

def state140 : State := st (due (dueStart) [])
theorem witness_ADueStartIsTaken_due :
    (Calm { state140.ctl with plan := { state140.ctl.plan with events := [] } } ∧
    state140.ctl.plan.time = some 86510 ∧
    state140.ctl.plan.events = [dueStart] ∧
    (dueStart : Event).masked = false ∧
    (dueStart : Event).begin_ ≤ 86510 ∧
    txStatic state140.ctl (dueStart : Event).tx = some tx1 ∧
    txDyn state140.ctl (dueStart : Event).tx = some (on1) ∧
    stationClass state140.ctl.site.work tx1.station = some .transmitter ∧
    txOfStation state140.ctl.site.work tx1.station = some (dueStart : Event).tx ∧
    state140.ctl.link.plantQueue.length < 32 ∧
    (dueStart : Event).kind = .start ∧
    (dueStart : Event).begin_ < (dueStart : Event).time ∧
    startTarget state140.ctl (dueStart) = some (entry3, .bearing 1500) ∧
    state140.ctl.plan.high = none ∧
    (on1 : TxDyn).owner = .none ∧
    on1.live = true ∧
    state140.ctl.matrix.paths = [] ∧
    (dueStart : Event).wait = none ∧
    state140.ctl.plan.log = []) ∧
    (∀ r, (on1 : TxDyn).running = some r → r.endTime ≤ 86510 ∨
      ∃ a, (dueStart : Event).absorbed = some a ∧ a.occ = r.occ) := by
  refine ⟨?_, (by intro r h; cases h)⟩
  simp only [calm_iff, quiet_iff, still_iff]
  decide +kernel

/-- The START has absorbed the END of another occurrence of its transmitter, which was voided while no context was free and
whose own end lies ahead (R159, R166). -/
def occ4 : Occ := { bank := .a, id := 4, day := 1 }
def absorbing : Event :=
  { dueStart with absorbed := some { occ := occ4, priority := 9, start := 86400, finish := 90000 } }
def runs4 : TxDyn := { on1 with running := some { occ := occ4, start := 86400, endTime := 90000, priority := 9 } }
def state140absorbed : State := st (withTx runs4 (due absorbing []))
theorem witness_ADueStartIsTaken_absorbed :
    (Calm { state140absorbed.ctl with plan := { state140absorbed.ctl.plan with events := [] } } ∧
    state140absorbed.ctl.plan.time = some 86510 ∧
    state140absorbed.ctl.plan.events = [absorbing] ∧
    absorbing.masked = false ∧
    absorbing.begin_ ≤ 86510 ∧
    txStatic state140absorbed.ctl absorbing.tx = some tx1 ∧
    txDyn state140absorbed.ctl absorbing.tx = some runs4 ∧
    stationClass state140absorbed.ctl.site.work tx1.station = some .transmitter ∧
    txOfStation state140absorbed.ctl.site.work tx1.station = some absorbing.tx ∧
    state140absorbed.ctl.link.plantQueue.length < 32 ∧
    absorbing.kind = .start ∧
    absorbing.begin_ < absorbing.time ∧
    startTarget state140absorbed.ctl absorbing = some (entry3, .bearing 1500) ∧
    state140absorbed.ctl.plan.high = none ∧
    runs4.owner = .none ∧
    runs4.live = true ∧
    state140absorbed.ctl.matrix.paths = [] ∧
    absorbing.wait = none ∧
    state140absorbed.ctl.plan.log = []) ∧
    (∀ r, runs4.running = some r → r.endTime ≤ 86510 ∨ ∃ a, absorbing.absorbed = some a ∧ a.occ = r.occ) := by
  refine ⟨?_, (by intro r h; cases h; exact .inr ⟨_, rfl, rfl⟩)⟩
  simp only [calm_iff, quiet_iff, still_iff]
  decide +kernel

/-- What a transmitter's owner and running occurrence, the first context's phase and the reports are after a command. -/
def claimed (i : Instr) (s : State) : Option (TxOwner × Option Nat) × Option CtxPhase × List ReportKind :=
  match exec i s with
  | .next t => ((txDyn t.ctl 1).map (fun d => (d.owner, d.running.map (fun r => r.occ.id))), (busyCtx t.ctl 1).map (·.phase),
      t.ctl.link.reports.map (·.kind))
  | _ => (none, none, [])

/-- R159, R171: the occurrence whose END the START absorbed neither stops its claim, though its end lies ahead and its priority
is higher, nor is it preempted: the START mutes it. -/
theorem test_an_absorbed_occurrence_does_not_stop_the_claim :
    claimed .eventDue state140absorbed = (some (.ctx 1, some 4), some .muting, []) := by decide +kernel

/-- R171: nor does an occurrence whose END is still waiting for a context, where one not over returns the START. -/
theorem test_an_end_waiting_for_a_context_does_not_stop_the_claim :
    let waiting : Event := { dueStart with
      kind := .finish, occ := occ4, priority := 9, time := 86505, occStart := 86400, occEnd := 90000, lead := 0,
      begin_ := 86505, rf := 86505, wait := some .context }
    let c := withTx runs4 (due dueStart [])
    claimed .eventDue (st { c with plan := { c.plan with events := [dueStart, waiting] } }) =
      (some (.ctx 1, some 4), some .muting, []) ∧
    claimed .eventDue (st (withTx runs4 (due dueStart []))) = (some (.none, some 4), none, []) := by decide +kernel

def state141 : State := st (due ({ dueStart with wait := some .transmitter, returnEnd := some 86510 }) [{ occ := { bank := .a, id := 3, day := 1 }, start := 86520, occEnd := 90120, returned := true }])
theorem witness_ADueStartIsTaken_return_end :
    (Calm { state141.ctl with plan := { state141.ctl.plan with events := [] } } ∧
    state141.ctl.plan.time = some 86510 ∧
    state141.ctl.plan.events = [{ dueStart with wait := some .transmitter, returnEnd := some 86510 }] ∧
    ({ dueStart with wait := some .transmitter, returnEnd := some 86510 } : Event).masked = false ∧
    ({ dueStart with wait := some .transmitter, returnEnd := some 86510 } : Event).begin_ ≤ 86510 ∧
    txStatic state141.ctl ({ dueStart with wait := some .transmitter, returnEnd := some 86510 } : Event).tx = some tx1 ∧
    txDyn state141.ctl ({ dueStart with wait := some .transmitter, returnEnd := some 86510 } : Event).tx = some (on1) ∧
    stationClass state141.ctl.site.work tx1.station = some .transmitter ∧
    txOfStation state141.ctl.site.work tx1.station = some ({ dueStart with wait := some .transmitter, returnEnd := some 86510 } : Event).tx ∧
    state141.ctl.link.plantQueue.length < 32 ∧
    ({ dueStart with wait := some .transmitter, returnEnd := some 86510 } : Event).kind = .start ∧
    ({ dueStart with wait := some .transmitter, returnEnd := some 86510 } : Event).begin_ < ({ dueStart with wait := some .transmitter, returnEnd := some 86510 } : Event).time ∧
    startTarget state141.ctl ({ dueStart with wait := some .transmitter, returnEnd := some 86510 }) = some (entry3, .bearing 1500) ∧
    state141.ctl.plan.high = none ∧
    (on1 : TxDyn).owner = .none ∧
    on1.live = true ∧
    state141.ctl.matrix.paths = [] ∧
    ({ dueStart with wait := some .transmitter, returnEnd := some 86510 } : Event).wait = some .transmitter ∧
    ({ dueStart with wait := some .transmitter, returnEnd := some 86510 } : Event).returnEnd = some 86510 ∧
    86510 ≤ 86510 ∧
    state141.ctl.plan.log = [{ occ := { bank := .a, id := 3, day := 1 }, start := 86520, occEnd := 90120, returned := true }]) ∧
    (∀ r, (on1 : TxDyn).running = some r → r.endTime ≤ 86510 ∨
      ∃ a, ({ dueStart with wait := some .transmitter, returnEnd := some 86510 } : Event).absorbed = some a ∧ a.occ = r.occ) := by
  refine ⟨?_, (by intro r h; cases h)⟩
  simp only [calm_iff, quiet_iff, still_iff]
  decide +kernel

/-- Transmitter 1, off and tuned to entry 3, on a PROVEN standing path to its antenna, which stands at its target. -/
def tuned1 : TxDyn := { off1 with freq := some entry3.freq }
def ready (v : Event) : Ctl :=
  { withPath { path1 with owner := .idle } (withXp 1 1 closed (withTx tuned1 (due v []))) with
    aerial := [(1, { still1 with bearing := some 1500 }), (2, still2)] }
def runs1 : TxDyn := { on1 with running := some run1, owner := .operations }
def dueEnd : Event :=
  { dueStart with kind := .finish, time := 90120, lead := 0, begin_ := 90120, rf := 90120 }
def ending (d : TxDyn) : Ctl :=
  let c := withTime 90120 (withTx d (withPath path1 (due dueEnd [])))
  { c with plan := { c.plan with high := some 86500 } }

def state142 : State := st (ready (dueStart))
theorem witness_ADueStartIsTaken_in_place :
    Calm { state142.ctl with plan := { state142.ctl.plan with events := [] } } ∧
    state142.ctl.plan.time = some 86510 ∧
    state142.ctl.plan.events = [dueStart] ∧
    (dueStart : Event).masked = false ∧
    (dueStart : Event).begin_ ≤ 86510 ∧
    txStatic state142.ctl (dueStart : Event).tx = some tx1 ∧
    txDyn state142.ctl (dueStart : Event).tx = some (tuned1) ∧
    stationClass state142.ctl.site.work tx1.station = some .transmitter ∧
    txOfStation state142.ctl.site.work tx1.station = some (dueStart : Event).tx ∧
    state142.ctl.link.plantQueue.length < 32 ∧
    (dueStart : Event).kind = .start ∧
    (dueStart : Event).begin_ < (dueStart : Event).time ∧
    startTarget state142.ctl (dueStart) = some (entry3, .bearing 1500) ∧
    state142.ctl.plan.high = none ∧
    (tuned1 : TxDyn).owner = .none ∧
    (tuned1 : TxDyn).running = none ∧
    tuned1.live = false ∧
    state142.ctl.matrix.paths = [{ path1 with owner := .idle }] ∧
    ({ path1 with owner := .idle } : Path).tx = dueStart.tx ∧
    ({ path1 with owner := .idle } : Path).ant = entry3.ant ∧
    ({ path1 with owner := .idle } : Path).state = .proven ∧
    ({ path1 with owner := .idle } : Path).reference = none ∧
    (xpAt state142.ctl ({ path1 with owner := .idle } : Path).row ({ path1 with owner := .idle } : Path).col).state = .closed ∧
    retuneStage state142.ctl.site.work tx1 (ratableFreq tuned1) entry3.freq = 0 ∧
    positionNeeded state142.ctl entry3.ant (.bearing 1500) = false ∧
    localFlag state142.ctl dueStart.tx tuned1 = false ∧
    1 ≤ entry3.feed ∧
    entry3.feed ≤ 32 ∧
    dueStart.wait = none ∧
    state142.ctl.plan.log = [] := by
  simp only [calm_iff, quiet_iff, still_iff]
  decide +kernel

def state143 : State := st (ending (runs1))
theorem witness_ADueStartIsTaken_end_of_running :
    Calm { state143.ctl with plan := { state143.ctl.plan with events := [] } } ∧
    state143.ctl.plan.time = some 90120 ∧
    state143.ctl.plan.events = [dueEnd] ∧
    (dueEnd : Event).masked = false ∧
    (dueEnd : Event).begin_ ≤ 90120 ∧
    txStatic state143.ctl (dueEnd : Event).tx = some tx1 ∧
    txDyn state143.ctl (dueEnd : Event).tx = some (runs1) ∧
    stationClass state143.ctl.site.work tx1.station = some .transmitter ∧
    txOfStation state143.ctl.site.work tx1.station = some (dueEnd : Event).tx ∧
    state143.ctl.link.plantQueue.length < 32 ∧
    dueEnd.kind = .finish ∧
    dueEnd.wait = none ∧
    (runs1 : TxDyn).running = some run1 ∧
    run1.occ = dueEnd.occ ∧
    ownedByCtx (runs1) = false ∧
    (runs1 : TxDyn).live = true ∧
    state143.ctl.plan.log = [] := by
  simp only [calm_iff, quiet_iff, still_iff]
  decide +kernel

def state144 : State := st (ending ({ on1 with running := some { run1 with occ := { bank := .a, id := 4, day := 1 } } }))
theorem witness_ADueStartIsTaken_end_of_another :
    (Calm { state144.ctl with plan := { state144.ctl.plan with events := [] } } ∧
    state144.ctl.plan.time = some 90120 ∧
    state144.ctl.plan.events = [dueEnd] ∧
    (dueEnd : Event).masked = false ∧
    (dueEnd : Event).begin_ ≤ 90120 ∧
    txStatic state144.ctl (dueEnd : Event).tx = some tx1 ∧
    txDyn state144.ctl (dueEnd : Event).tx = some ({ on1 with running := some { run1 with occ := { bank := .a, id := 4, day := 1 } } }) ∧
    stationClass state144.ctl.site.work tx1.station = some .transmitter ∧
    txOfStation state144.ctl.site.work tx1.station = some (dueEnd : Event).tx ∧
    state144.ctl.link.plantQueue.length < 32 ∧
    dueEnd.kind = .finish ∧
    dueEnd.wait = none) ∧
    (∀ r, ({ on1 with running := some { run1 with occ := { bank := .a, id := 4, day := 1 } } } : TxDyn).running = some r → r.occ ≠ dueEnd.occ) := by
  refine ⟨?_, (by intro r h; cases h; decide)⟩
  simp only [calm_iff, quiet_iff, still_iff]
  decide +kernel

def occLog (bk : Bank) (id : Nat) : LogRec :=
  { occ := { bank := bk, id := id, day := 0 }, start := 400, occEnd := 900, returned := false }

def state145 : State := st ({ withTime 500 base with plan := { (withTime 500 base).plan with watch := some 500, log := [occLog .b 1, occLog .a 2, occLog .b 3] }, store := { base.store with bankA := bankOf .standby [], bankB := BankRec.blank } })
theorem witness_ASeasonIsActivated_a :
    (Calm state145.ctl ∧
    state145.ctl.plan.time = some 500 ∧
    state145.ctl.plan.watch = some 500 ∧
    500 ≤ 500 ∧
    (bankRec state145.ctl .a).header.state = .standby ∧
    (bankRec state145.ctl (otherBank .a)).header.state ≠ .standby ∧
    validRecords (bankRec state145.ctl .a) = [] ∧
    state145.ctl.link.reports.length < 32) ∧
    (∀ n d, txDyn state145.ctl n = some d → d.running = none) ∧
    (∀ n d, (n, d) ∈ state145.ctl.gate.tx → d.running = none) := by
  refine ⟨?_, tget_all (t := [(1, off1)]) (p := fun (d : TxDyn) => d.running = none) (by decide +kernel), (by intro n d h; cases h with | head => rfl | tail _ h => cases h)⟩
  simp only [calm_iff, quiet_iff, still_iff]
  decide +kernel

def state146 : State := st ({ withTime 500 base with plan := { (withTime 500 base).plan with watch := some 500, log := [occLog .a 1, occLog .b 2, occLog .a 3] }, store := { base.store with bankB := bankOf .standby [], bankA := bankOf .active [entry3] } })
theorem witness_ASeasonIsActivated_b :
    (Calm state146.ctl ∧
    state146.ctl.plan.time = some 500 ∧
    state146.ctl.plan.watch = some 500 ∧
    500 ≤ 500 ∧
    (bankRec state146.ctl .b).header.state = .standby ∧
    (bankRec state146.ctl (otherBank .b)).header.state ≠ .standby ∧
    validRecords (bankRec state146.ctl .b) = [] ∧
    state146.ctl.link.reports.length < 32) ∧
    (∀ n d, txDyn state146.ctl n = some d → d.running = none) ∧
    (∀ n d, (n, d) ∈ state146.ctl.gate.tx → d.running = none) := by
  refine ⟨?_, tget_all (t := [(1, off1)]) (p := fun (d : TxDyn) => d.running = none) (by decide +kernel), (by intro n d h; cases h with | head => rfl | tail _ h => cases h)⟩
  simp only [calm_iff, quiet_iff, still_iff]
  decide +kernel

def state147 : State := st ({ withTime 500 base with plan := { (withTime 500 base).plan with watch := some 500, log := [occLog .b 1, occLog .a 2, occLog .b 3] }, store := { base.store with bankA := bankOf .standby [], bankB := bankOf .active [entry3] } })
theorem witness_ASeasonIsActivated_a_over_active :
    (Calm state147.ctl ∧
    state147.ctl.plan.time = some 500 ∧
    state147.ctl.plan.watch = some 500 ∧
    500 ≤ 500 ∧
    (bankRec state147.ctl .a).header.state = .standby ∧
    (bankRec state147.ctl (otherBank .a)).header.state ≠ .standby ∧
    validRecords (bankRec state147.ctl .a) = [] ∧
    state147.ctl.link.reports.length < 32) ∧
    (∀ n d, txDyn state147.ctl n = some d → d.running = none) ∧
    (∀ n d, (n, d) ∈ state147.ctl.gate.tx → d.running = none) := by
  refine ⟨?_, tget_all (t := [(1, off1)]) (p := fun (d : TxDyn) => d.running = none) (by decide +kernel), (by intro n d h; cases h with | head => rfl | tail _ h => cases h)⟩
  simp only [calm_iff, quiet_iff, still_iff]
  decide +kernel

/-! ## The Changeover Unit -/

def ctxIn (phase : CtxPhase) : Ctx :=
  { busy := true, isEnd := false, occ := { bank := .a, id := 3, day := 1 }, startTime := 86520, endTime := 90120, tx := 1,
    priority := 6, tFreq := 15160, tAnt := 1, tPos := .bearing 1500, tPower := 250, tFeed := 1, phase := phase,
    deadline := some 15000, retune := { status := .running, deadline := some 190000 }, path := Sub.idle,
    position := Sub.idle, prior := none, begin_ := 86500, rf := 86520, actual := none, outcome := .none, reason := none,
    cause := 0, tuned := true, raised := false, preempting := none }
def owned1 : TxDyn := { off1 with owner := .ctx 16 }
def working (phase : CtxPhase) : Ctl := { withTime 90120 (withTx owned1 base) with cu := [(16, ctxIn phase)] }

def subAt (status : SubStatus) : Sub := { status := status, deadline := some 190000 }
def setting (retune path position : SubStatus) : Ctx :=
  { ctxIn .setting with retune := subAt retune, path := subAt path, position := subAt position }
def ctxJob : Job := newJob (.ctx 16 { occ := (ctxIn .setting).occ, isEnd := false }) (.bearing 1500)
def ownPath (state : PathState) : Path := { path1 with state := state, owner := .ctx 16 }
/-- Context 16 at work on transmitter 1 with a path of its own, its antenna turning for it. -/
def inHand16 (x : Ctx) (d : TxDyn) (p : Path) : Ctl :=
  { withTime 90120 (withTx d (withPath p (withXp 1 1 opened base))) with
    cu := [(16, x)], aerial := [(1, { still1 with job := some ctxJob }), (2, still2)] }

def state148 : State := st ({ inHand16 (ctxIn .muting) ({ owned1 with carrier := .on }) (ownPath .proven) with link := { base.link with plantQueue := [{ tag := 140, frame := { dest := 10, verb := .carrierOff, cls := .internal, origin := .ctx 16 { occ := (ctxIn .muting).occ, isEnd := false } } }], lastTag := 141 } })
theorem witness_ContextsRunOut_muting :
    Quiet { state148.ctl with matrix := { state148.ctl.matrix with queue := [] } } ∧
    state148.ctl.cu = [(16, (ctxIn .muting))] ∧
    ((ctxIn .muting)).busy = true ∧
    ((ctxIn .muting)).isEnd = false ∧
    txStatic state148.ctl ((ctxIn .muting)).tx = some tx1 ∧
    txDyn state148.ctl ((ctxIn .muting)).tx = some { owned1 with carrier := .on } ∧
    ({ owned1 with carrier := .on } : TxDyn).owner = .ctx 16 ∧
    ({ owned1 with carrier := .on } : TxDyn).running = none ∧
    stationClass state148.ctl.site.work tx1.station = some .transmitter ∧
    txOfStation state148.ctl.site.work tx1.station = some ((ctxIn .muting)).tx ∧
    state148.ctl.link.plantQueue.length < 32 ∧
    state148.ctl.link.reports.length < 32 ∧
    state148.ctl.matrix.paths = [ownPath .proven] ∧
    (ownPath .proven : Path).owner = .ctx 16 ∧
    (ownPath .proven : Path).tx = ((ctxIn .muting)).tx ∧
    ((ownPath .proven : Path).state = .setting → ({ owned1 with carrier := .on } : TxDyn).live = false) ∧
    ((∀ k ∈ [1, 2, 3, 4], (tget k state148.ctl.matrix.slots).isSome = true) ∨ ∀ r ∈ state148.ctl.matrix.queue, (ownPath .proven : Path).state = .setting ∧ (ownPath .proven : Path).proof = .none ∧ r.pid = (ownPath .proven : Path).pid) ∧
    (ctxIn .muting).deadline = some 15000 ∧
    (ctxIn .muting).phase = .muting := by
  simp only [quiet_iff, still_iff]
  decide +kernel

def state149 : State := st ({ inHand16 (ctxIn .muting) ({ owned1 with carrier := .on }) (ownPath .proven) with link := { base.link with plantQueue := [{ tag := 141, frame := { dest := 10, verb := .carrierOff, cls := .urgent, origin := .hallStop } }], lastTag := 141 } })
theorem witness_ContextsRunOut_muting_spared :
    Quiet { state149.ctl with matrix := { state149.ctl.matrix with queue := [] } } ∧
    state149.ctl.cu = [(16, (ctxIn .muting))] ∧
    ((ctxIn .muting)).busy = true ∧
    ((ctxIn .muting)).isEnd = false ∧
    txStatic state149.ctl ((ctxIn .muting)).tx = some tx1 ∧
    txDyn state149.ctl ((ctxIn .muting)).tx = some { owned1 with carrier := .on } ∧
    ({ owned1 with carrier := .on } : TxDyn).owner = .ctx 16 ∧
    ({ owned1 with carrier := .on } : TxDyn).running = none ∧
    stationClass state149.ctl.site.work tx1.station = some .transmitter ∧
    txOfStation state149.ctl.site.work tx1.station = some ((ctxIn .muting)).tx ∧
    state149.ctl.link.plantQueue.length < 32 ∧
    state149.ctl.link.reports.length < 32 ∧
    state149.ctl.matrix.paths = [ownPath .proven] ∧
    (ownPath .proven : Path).owner = .ctx 16 ∧
    (ownPath .proven : Path).tx = ((ctxIn .muting)).tx ∧
    ((ownPath .proven : Path).state = .setting → ({ owned1 with carrier := .on } : TxDyn).live = false) ∧
    ((∀ k ∈ [1, 2, 3, 4], (tget k state149.ctl.matrix.slots).isSome = true) ∨ ∀ r ∈ state149.ctl.matrix.queue, (ownPath .proven : Path).state = .setting ∧ (ownPath .proven : Path).proof = .none ∧ r.pid = (ownPath .proven : Path).pid) ∧
    (ctxIn .muting).deadline = some 15000 ∧
    (ctxIn .muting).phase = .muting := by
  simp only [quiet_iff, still_iff]
  decide +kernel

def state150 : State := st (inHand16 (ctxIn .releasing) (owned1) ({ ownPath .releasing with row := 2, col := 2, ant := 2 }))
theorem witness_ContextsRunOut_releasing :
    Quiet { state150.ctl with matrix := { state150.ctl.matrix with queue := [] } } ∧
    state150.ctl.cu = [(16, (ctxIn .releasing))] ∧
    ((ctxIn .releasing)).busy = true ∧
    ((ctxIn .releasing)).isEnd = false ∧
    txStatic state150.ctl ((ctxIn .releasing)).tx = some tx1 ∧
    txDyn state150.ctl ((ctxIn .releasing)).tx = some owned1 ∧
    (owned1 : TxDyn).owner = .ctx 16 ∧
    (owned1 : TxDyn).running = none ∧
    stationClass state150.ctl.site.work tx1.station = some .transmitter ∧
    txOfStation state150.ctl.site.work tx1.station = some ((ctxIn .releasing)).tx ∧
    state150.ctl.link.plantQueue.length < 32 ∧
    state150.ctl.link.reports.length < 32 ∧
    state150.ctl.matrix.paths = [{ ownPath .releasing with row := 2, col := 2, ant := 2 }] ∧
    ({ ownPath .releasing with row := 2, col := 2, ant := 2 } : Path).owner = .ctx 16 ∧
    ({ ownPath .releasing with row := 2, col := 2, ant := 2 } : Path).tx = ((ctxIn .releasing)).tx ∧
    (({ ownPath .releasing with row := 2, col := 2, ant := 2 } : Path).state = .setting → (owned1 : TxDyn).live = false) ∧
    ((∀ k ∈ [1, 2, 3, 4], (tget k state150.ctl.matrix.slots).isSome = true) ∨ ∀ r ∈ state150.ctl.matrix.queue, ({ ownPath .releasing with row := 2, col := 2, ant := 2 } : Path).state = .setting ∧ ({ ownPath .releasing with row := 2, col := 2, ant := 2 } : Path).proof = .none ∧ r.pid = ({ ownPath .releasing with row := 2, col := 2, ant := 2 } : Path).pid) ∧
    (ctxIn .releasing).deadline = some 15000 ∧
    (ctxIn .releasing).phase = .releasing := by
  simp only [quiet_iff, still_iff]
  decide +kernel

def state151 : State := st (inHand16 (ctxIn .proving) (owned1) ({ ownPath .setting with stage := some .closed, proof := .inProgress (some 5), granted := true }))
theorem witness_ContextsRunOut_proving :
    Quiet { state151.ctl with matrix := { state151.ctl.matrix with queue := [] } } ∧
    state151.ctl.cu = [(16, (ctxIn .proving))] ∧
    ((ctxIn .proving)).busy = true ∧
    ((ctxIn .proving)).isEnd = false ∧
    txStatic state151.ctl ((ctxIn .proving)).tx = some tx1 ∧
    txDyn state151.ctl ((ctxIn .proving)).tx = some owned1 ∧
    (owned1 : TxDyn).owner = .ctx 16 ∧
    (owned1 : TxDyn).running = none ∧
    stationClass state151.ctl.site.work tx1.station = some .transmitter ∧
    txOfStation state151.ctl.site.work tx1.station = some ((ctxIn .proving)).tx ∧
    state151.ctl.link.plantQueue.length < 32 ∧
    state151.ctl.link.reports.length < 32 ∧
    state151.ctl.matrix.paths = [{ ownPath .setting with stage := some .closed, proof := .inProgress (some 5), granted := true }] ∧
    ({ ownPath .setting with stage := some .closed, proof := .inProgress (some 5), granted := true } : Path).owner = .ctx 16 ∧
    ({ ownPath .setting with stage := some .closed, proof := .inProgress (some 5), granted := true } : Path).tx = ((ctxIn .proving)).tx ∧
    (({ ownPath .setting with stage := some .closed, proof := .inProgress (some 5), granted := true } : Path).state = .setting → (owned1 : TxDyn).live = false) ∧
    ((∀ k ∈ [1, 2, 3, 4], (tget k state151.ctl.matrix.slots).isSome = true) ∨ ∀ r ∈ state151.ctl.matrix.queue, ({ ownPath .setting with stage := some .closed, proof := .inProgress (some 5), granted := true } : Path).state = .setting ∧ ({ ownPath .setting with stage := some .closed, proof := .inProgress (some 5), granted := true } : Path).proof = .none ∧ r.pid = ({ ownPath .setting with stage := some .closed, proof := .inProgress (some 5), granted := true } : Path).pid) ∧
    (ctxIn .proving).deadline = some 15000 ∧
    (ctxIn .proving).phase = .proving := by
  simp only [quiet_iff, still_iff]
  decide +kernel

def state152 : State := st (inHand16 (ctxIn .proving) (owned1) ({ ownPath .unproven with proof := .inProgress (some 5) }))
theorem witness_ContextsRunOut_proving_again :
    Quiet { state152.ctl with matrix := { state152.ctl.matrix with queue := [] } } ∧
    state152.ctl.cu = [(16, (ctxIn .proving))] ∧
    ((ctxIn .proving)).busy = true ∧
    ((ctxIn .proving)).isEnd = false ∧
    txStatic state152.ctl ((ctxIn .proving)).tx = some tx1 ∧
    txDyn state152.ctl ((ctxIn .proving)).tx = some owned1 ∧
    (owned1 : TxDyn).owner = .ctx 16 ∧
    (owned1 : TxDyn).running = none ∧
    stationClass state152.ctl.site.work tx1.station = some .transmitter ∧
    txOfStation state152.ctl.site.work tx1.station = some ((ctxIn .proving)).tx ∧
    state152.ctl.link.plantQueue.length < 32 ∧
    state152.ctl.link.reports.length < 32 ∧
    state152.ctl.matrix.paths = [{ ownPath .unproven with proof := .inProgress (some 5) }] ∧
    ({ ownPath .unproven with proof := .inProgress (some 5) } : Path).owner = .ctx 16 ∧
    ({ ownPath .unproven with proof := .inProgress (some 5) } : Path).tx = ((ctxIn .proving)).tx ∧
    (({ ownPath .unproven with proof := .inProgress (some 5) } : Path).state = .setting → (owned1 : TxDyn).live = false) ∧
    ((∀ k ∈ [1, 2, 3, 4], (tget k state152.ctl.matrix.slots).isSome = true) ∨ ∀ r ∈ state152.ctl.matrix.queue, ({ ownPath .unproven with proof := .inProgress (some 5) } : Path).state = .setting ∧ ({ ownPath .unproven with proof := .inProgress (some 5) } : Path).proof = .none ∧ r.pid = ({ ownPath .unproven with proof := .inProgress (some 5) } : Path).pid) ∧
    (ctxIn .proving).deadline = some 15000 ∧
    (ctxIn .proving).phase = .proving := by
  simp only [quiet_iff, still_iff]
  decide +kernel

def state153 : State := st (inHand16 (ctxIn .raising) ({ owned1 with carrier := .on }) (ownPath .proven))
theorem witness_ContextsRunOut_raising :
    Quiet { state153.ctl with matrix := { state153.ctl.matrix with queue := [] } } ∧
    state153.ctl.cu = [(16, (ctxIn .raising))] ∧
    ((ctxIn .raising)).busy = true ∧
    ((ctxIn .raising)).isEnd = false ∧
    txStatic state153.ctl ((ctxIn .raising)).tx = some tx1 ∧
    txDyn state153.ctl ((ctxIn .raising)).tx = some { owned1 with carrier := .on } ∧
    ({ owned1 with carrier := .on } : TxDyn).owner = .ctx 16 ∧
    ({ owned1 with carrier := .on } : TxDyn).running = none ∧
    stationClass state153.ctl.site.work tx1.station = some .transmitter ∧
    txOfStation state153.ctl.site.work tx1.station = some ((ctxIn .raising)).tx ∧
    state153.ctl.link.plantQueue.length < 32 ∧
    state153.ctl.link.reports.length < 32 ∧
    state153.ctl.matrix.paths = [ownPath .proven] ∧
    (ownPath .proven : Path).owner = .ctx 16 ∧
    (ownPath .proven : Path).tx = ((ctxIn .raising)).tx ∧
    ((ownPath .proven : Path).state = .setting → ({ owned1 with carrier := .on } : TxDyn).live = false) ∧
    ((∀ k ∈ [1, 2, 3, 4], (tget k state153.ctl.matrix.slots).isSome = true) ∨ ∀ r ∈ state153.ctl.matrix.queue, (ownPath .proven : Path).state = .setting ∧ (ownPath .proven : Path).proof = .none ∧ r.pid = (ownPath .proven : Path).pid) ∧
    (ctxIn .raising).deadline = some 15000 ∧
    (ctxIn .raising).phase = .raising := by
  simp only [quiet_iff, still_iff]
  decide +kernel

def state154 : State := st (inHand16 (setting .running .running .done) owned1 ({ ownPath .setting with stage := some .moving, granted := true }))
theorem witness_ContextsRunOut_sub_retune :
    Quiet { state154.ctl with matrix := { state154.ctl.matrix with queue := [] } } ∧
    state154.ctl.cu = [(16, (setting .running .running .done))] ∧
    ((setting .running .running .done)).busy = true ∧
    ((setting .running .running .done)).isEnd = false ∧
    txStatic state154.ctl ((setting .running .running .done)).tx = some tx1 ∧
    txDyn state154.ctl ((setting .running .running .done)).tx = some owned1 ∧
    (owned1 : TxDyn).owner = .ctx 16 ∧
    (owned1 : TxDyn).running = none ∧
    stationClass state154.ctl.site.work tx1.station = some .transmitter ∧
    txOfStation state154.ctl.site.work tx1.station = some ((setting .running .running .done)).tx ∧
    state154.ctl.link.plantQueue.length < 32 ∧
    state154.ctl.link.reports.length < 32 ∧
    state154.ctl.matrix.paths = [{ ownPath .setting with stage := some .moving, granted := true }] ∧
    ({ ownPath .setting with stage := some .moving, granted := true } : Path).owner = .ctx 16 ∧
    ({ ownPath .setting with stage := some .moving, granted := true } : Path).tx = ((setting .running .running .done)).tx ∧
    (({ ownPath .setting with stage := some .moving, granted := true } : Path).state = .setting → (owned1 : TxDyn).live = false) ∧
    ((∀ k ∈ [1, 2, 3, 4], (tget k state154.ctl.matrix.slots).isSome = true) ∨ ∀ r ∈ state154.ctl.matrix.queue, ({ ownPath .setting with stage := some .moving, granted := true } : Path).state = .setting ∧ ({ ownPath .setting with stage := some .moving, granted := true } : Path).proof = .none ∧ r.pid = ({ ownPath .setting with stage := some .moving, granted := true } : Path).pid) ∧
    (setting .running .running .done).phase = .setting ∧
    (setting .running .running .done).retune.deadline = some 190000 ∧
    (setting .running .running .done).retune.status = .running := by
  simp only [quiet_iff, still_iff]
  decide +kernel

def state155 : State := st (inHand16 (setting .done .pending .done) owned1 ({ ownPath .setting with stage := some .waiting }))
theorem witness_ContextsRunOut_sub_path :
    Quiet { state155.ctl with matrix := { state155.ctl.matrix with queue := [] } } ∧
    state155.ctl.cu = [(16, (setting .done .pending .done))] ∧
    ((setting .done .pending .done)).busy = true ∧
    ((setting .done .pending .done)).isEnd = false ∧
    txStatic state155.ctl ((setting .done .pending .done)).tx = some tx1 ∧
    txDyn state155.ctl ((setting .done .pending .done)).tx = some owned1 ∧
    (owned1 : TxDyn).owner = .ctx 16 ∧
    (owned1 : TxDyn).running = none ∧
    stationClass state155.ctl.site.work tx1.station = some .transmitter ∧
    txOfStation state155.ctl.site.work tx1.station = some ((setting .done .pending .done)).tx ∧
    state155.ctl.link.plantQueue.length < 32 ∧
    state155.ctl.link.reports.length < 32 ∧
    state155.ctl.matrix.paths = [{ ownPath .setting with stage := some .waiting }] ∧
    ({ ownPath .setting with stage := some .waiting } : Path).owner = .ctx 16 ∧
    ({ ownPath .setting with stage := some .waiting } : Path).tx = ((setting .done .pending .done)).tx ∧
    (({ ownPath .setting with stage := some .waiting } : Path).state = .setting → (owned1 : TxDyn).live = false) ∧
    ((∀ k ∈ [1, 2, 3, 4], (tget k state155.ctl.matrix.slots).isSome = true) ∨ ∀ r ∈ state155.ctl.matrix.queue, ({ ownPath .setting with stage := some .waiting } : Path).state = .setting ∧ ({ ownPath .setting with stage := some .waiting } : Path).proof = .none ∧ r.pid = ({ ownPath .setting with stage := some .waiting } : Path).pid) ∧
    (setting .done .pending .done).phase = .setting ∧
    (setting .done .pending .done).path.deadline = some 190000 ∧
    (setting .done .pending .done).path.status = .pending := by
  simp only [quiet_iff, still_iff]
  decide +kernel

def state156 : State := st (moves [close 1 4] [] (inHand16 (setting .done .pending .done) owned1 ({ ownPath .setting with stage := some .waiting })))
theorem witness_ContextsRunOut_sub_path_queued :
    Quiet { state156.ctl with matrix := { state156.ctl.matrix with queue := [] } } ∧
    state156.ctl.cu = [(16, (setting .done .pending .done))] ∧
    ((setting .done .pending .done)).busy = true ∧
    ((setting .done .pending .done)).isEnd = false ∧
    txStatic state156.ctl ((setting .done .pending .done)).tx = some tx1 ∧
    txDyn state156.ctl ((setting .done .pending .done)).tx = some owned1 ∧
    (owned1 : TxDyn).owner = .ctx 16 ∧
    (owned1 : TxDyn).running = none ∧
    stationClass state156.ctl.site.work tx1.station = some .transmitter ∧
    txOfStation state156.ctl.site.work tx1.station = some ((setting .done .pending .done)).tx ∧
    state156.ctl.link.plantQueue.length < 32 ∧
    state156.ctl.link.reports.length < 32 ∧
    state156.ctl.matrix.paths = [{ ownPath .setting with stage := some .waiting }] ∧
    ({ ownPath .setting with stage := some .waiting } : Path).owner = .ctx 16 ∧
    ({ ownPath .setting with stage := some .waiting } : Path).tx = ((setting .done .pending .done)).tx ∧
    (({ ownPath .setting with stage := some .waiting } : Path).state = .setting → (owned1 : TxDyn).live = false) ∧
    ((∀ k ∈ [1, 2, 3, 4], (tget k state156.ctl.matrix.slots).isSome = true) ∨ ∀ r ∈ state156.ctl.matrix.queue, ({ ownPath .setting with stage := some .waiting } : Path).state = .setting ∧ ({ ownPath .setting with stage := some .waiting } : Path).proof = .none ∧ r.pid = ({ ownPath .setting with stage := some .waiting } : Path).pid) ∧
    (setting .done .pending .done).phase = .setting ∧
    (setting .done .pending .done).path.deadline = some 190000 ∧
    (setting .done .pending .done).path.status = .pending := by
  simp only [quiet_iff, still_iff]
  decide +kernel

def state157 : State := st (moves [close 9 3, close 1 4] [] (slotsTaken (inHand16 (setting .done .pending .done) owned1 ({ ownPath .setting with stage := some .waiting }))))
theorem witness_ContextsRunOut_sub_path_full :
    Quiet { state157.ctl with matrix := { state157.ctl.matrix with queue := [] } } ∧
    state157.ctl.cu = [(16, (setting .done .pending .done))] ∧
    ((setting .done .pending .done)).busy = true ∧
    ((setting .done .pending .done)).isEnd = false ∧
    txStatic state157.ctl ((setting .done .pending .done)).tx = some tx1 ∧
    txDyn state157.ctl ((setting .done .pending .done)).tx = some owned1 ∧
    (owned1 : TxDyn).owner = .ctx 16 ∧
    (owned1 : TxDyn).running = none ∧
    stationClass state157.ctl.site.work tx1.station = some .transmitter ∧
    txOfStation state157.ctl.site.work tx1.station = some ((setting .done .pending .done)).tx ∧
    state157.ctl.link.plantQueue.length < 32 ∧
    state157.ctl.link.reports.length < 32 ∧
    state157.ctl.matrix.paths = [{ ownPath .setting with stage := some .waiting }] ∧
    ({ ownPath .setting with stage := some .waiting } : Path).owner = .ctx 16 ∧
    ({ ownPath .setting with stage := some .waiting } : Path).tx = ((setting .done .pending .done)).tx ∧
    (({ ownPath .setting with stage := some .waiting } : Path).state = .setting → (owned1 : TxDyn).live = false) ∧
    ((∀ k ∈ [1, 2, 3, 4], (tget k state157.ctl.matrix.slots).isSome = true) ∨ ∀ r ∈ state157.ctl.matrix.queue, ({ ownPath .setting with stage := some .waiting } : Path).state = .setting ∧ ({ ownPath .setting with stage := some .waiting } : Path).proof = .none ∧ r.pid = ({ ownPath .setting with stage := some .waiting } : Path).pid) ∧
    (setting .done .pending .done).phase = .setting ∧
    (setting .done .pending .done).path.deadline = some 190000 ∧
    (setting .done .pending .done).path.status = .pending := by
  simp only [quiet_iff, still_iff]
  decide +kernel

def state158 : State := st (inHand16 (setting .done .done .running) owned1 (ownPath .unproven))
theorem witness_ContextsRunOut_sub_position :
    Quiet { state158.ctl with matrix := { state158.ctl.matrix with queue := [] } } ∧
    state158.ctl.cu = [(16, (setting .done .done .running))] ∧
    ((setting .done .done .running)).busy = true ∧
    ((setting .done .done .running)).isEnd = false ∧
    txStatic state158.ctl ((setting .done .done .running)).tx = some tx1 ∧
    txDyn state158.ctl ((setting .done .done .running)).tx = some owned1 ∧
    (owned1 : TxDyn).owner = .ctx 16 ∧
    (owned1 : TxDyn).running = none ∧
    stationClass state158.ctl.site.work tx1.station = some .transmitter ∧
    txOfStation state158.ctl.site.work tx1.station = some ((setting .done .done .running)).tx ∧
    state158.ctl.link.plantQueue.length < 32 ∧
    state158.ctl.link.reports.length < 32 ∧
    state158.ctl.matrix.paths = [ownPath .unproven] ∧
    (ownPath .unproven : Path).owner = .ctx 16 ∧
    (ownPath .unproven : Path).tx = ((setting .done .done .running)).tx ∧
    ((ownPath .unproven : Path).state = .setting → (owned1 : TxDyn).live = false) ∧
    ((∀ k ∈ [1, 2, 3, 4], (tget k state158.ctl.matrix.slots).isSome = true) ∨ ∀ r ∈ state158.ctl.matrix.queue, (ownPath .unproven : Path).state = .setting ∧ (ownPath .unproven : Path).proof = .none ∧ r.pid = (ownPath .unproven : Path).pid) ∧
    (setting .done .done .running).phase = .setting ∧
    (setting .done .done .running).position.deadline = some 190000 ∧
    (setting .done .done .running).position.status = .running := by
  simp only [quiet_iff, still_iff]
  decide +kernel

def state159 : State := st (inHand16 (ctxIn .setting) owned1 ({ ownPath .setting with stage := some .settling, granted := true }))
theorem witness_ContextsRunOut_missed_setting :
    Quiet { state159.ctl with matrix := { state159.ctl.matrix with queue := [] } } ∧
    state159.ctl.cu = [(16, (ctxIn .setting))] ∧
    ((ctxIn .setting)).busy = true ∧
    ((ctxIn .setting)).isEnd = false ∧
    txStatic state159.ctl ((ctxIn .setting)).tx = some tx1 ∧
    txDyn state159.ctl ((ctxIn .setting)).tx = some owned1 ∧
    (owned1 : TxDyn).owner = .ctx 16 ∧
    (owned1 : TxDyn).running = none ∧
    stationClass state159.ctl.site.work tx1.station = some .transmitter ∧
    txOfStation state159.ctl.site.work tx1.station = some ((ctxIn .setting)).tx ∧
    state159.ctl.link.plantQueue.length < 32 ∧
    state159.ctl.link.reports.length < 32 ∧
    state159.ctl.matrix.paths = [{ ownPath .setting with stage := some .settling, granted := true }] ∧
    ({ ownPath .setting with stage := some .settling, granted := true } : Path).owner = .ctx 16 ∧
    ({ ownPath .setting with stage := some .settling, granted := true } : Path).tx = ((ctxIn .setting)).tx ∧
    (({ ownPath .setting with stage := some .settling, granted := true } : Path).state = .setting → (owned1 : TxDyn).live = false) ∧
    ((∀ k ∈ [1, 2, 3, 4], (tget k state159.ctl.matrix.slots).isSome = true) ∨ ∀ r ∈ state159.ctl.matrix.queue, ({ ownPath .setting with stage := some .settling, granted := true } : Path).state = .setting ∧ ({ ownPath .setting with stage := some .settling, granted := true } : Path).proof = .none ∧ r.pid = ({ ownPath .setting with stage := some .settling, granted := true } : Path).pid) ∧
    state159.ctl.plan.time = some 90120 ∧
    (ctxIn .setting).endTime ≤ 90120 ∧
    (ctxIn .setting).phase ≠ .awaitAntenna := by
  simp only [quiet_iff, still_iff]
  decide +kernel

def state160 : State := st (inHand16 (ctxIn .awaitAntenna) owned1 ({ path1 with tx := 2, row := 2 }))
theorem witness_ContextsRunOut_missed_waiting :
    Quiet { state160.ctl with matrix := { state160.ctl.matrix with queue := [] } } ∧
    state160.ctl.cu = [(16, (ctxIn .awaitAntenna))] ∧
    ((ctxIn .awaitAntenna)).busy = true ∧
    ((ctxIn .awaitAntenna)).isEnd = false ∧
    txStatic state160.ctl ((ctxIn .awaitAntenna)).tx = some tx1 ∧
    txDyn state160.ctl ((ctxIn .awaitAntenna)).tx = some owned1 ∧
    (owned1 : TxDyn).owner = .ctx 16 ∧
    (owned1 : TxDyn).running = none ∧
    stationClass state160.ctl.site.work tx1.station = some .transmitter ∧
    txOfStation state160.ctl.site.work tx1.station = some ((ctxIn .awaitAntenna)).tx ∧
    state160.ctl.link.plantQueue.length < 32 ∧
    state160.ctl.link.reports.length < 32 ∧
    (∀ p ∈ state160.ctl.matrix.paths, p.owner ≠ .ctx 16) ∧
    state160.ctl.plan.time = some 90120 ∧
    (ctxIn .awaitAntenna).endTime ≤ 90120 ∧
    (ctxIn .awaitAntenna).phase = .awaitAntenna ∧
    state160.ctl.matrix.queue = [] := by
  simp only [quiet_iff, still_iff]
  decide +kernel

/-! ## Start-up -/

/-- A hall at work that loses its power: two saved copies, a bank ACTIVE, a switch on, a frame from operations waiting. -/
def atWork : Ctl :=
  let c := withEdge (.lockout 2) true (withBankA (bankOf .active [entry3]) (working .setting))
  { c with
    site := { c.site with unsaved := true, image1 := some { tables := tables, saveNumber := 65535 },
                          image2 := some { tables := { tables with aux := [] }, saveNumber := 0 } }
    store := { c.store with op := none }, hall := { inForce := true, sources := [.station 121] } }

theorem witness_PowerUpStartsAfresh_page :
    1 ≤ 16 ∧
    16 ≤ 16 := by
  decide +kernel

def state161 : State := st atWork
theorem witness_PowerUpStartsAfresh :
    state161.ctl.panel.raw.push = false ∧
    state161.ctl.store.op = none ∧
    state161.ctl.link.opsInput = [] := by
  decide +kernel

def bare (geometry : Option Geometry) (phase : Phase) : Ctl :=
  { Ctl.reset with
    link := { Link.initial with opsHeldOff := true }
    site := { Ctl.reset.site with work := { Tables.erased with site := { Tables.erased.site with geometry := geometry } } }
    start := { Ctl.reset.start with phase := phase, surveyAt := 40 } }

def state162 : State := st (bare none .storeCheck)
theorem witness_StartUpReachesRunning_empty :
    Still state162.ctl ∧
    state162.ctl.link.urgentWaiters = [] ∧
    state162.ctl.matrix.slots = [] ∧
    state162.ctl.matrix.paths = [] ∧
    state162.ctl.matrix.queue = [] ∧
    state162.ctl.gate.tx = [] ∧
    state162.ctl.plan.time = none ∧
    state162.ctl.start.retire = none ∧
    state162.ctl.site.work.tx = [] ∧
    state162.ctl.site.work.ant = [] ∧
    state162.ctl.link.reports.length < 31 ∧
    state162.ctl.start.phase = .storeCheck ∧
    state162.ctl.site.work.site.geometry = none ∧
    state162.ctl.store.bankA = BankRec.blank ∧
    state162.ctl.store.bankB = BankRec.blank ∧
    state162.ctl.link.plantQueue = [] ∧
    state162.ctl.link.table = [] ∧
    state162.ctl.link.internalWaiters = [] ∧
    state162.ctl.matrix.xps = [] := by
  simp only [still_iff]
  decide +kernel

def surveyFrame (verb : PlantVerb) : PFrame := { dest := 119, verb := verb, cls := .internal, origin := .survey }
/-- A survey of 2 rows and 2 columns: a CLEAR being sent, READs queued and waiting. -/
def surveying (station : Nat) (heard silent : List Nat) : Ctl :=
  let c := setXp 1 1 opened (bare (some { rows := 2, cols := 2, station := station }) .survey)
  { c with
    link := { c.link with
      plantTx := some { tag := 128, frame := surveyFrame (.latchClear 1) }, lastTag := 129, silent := silent
      table := [{ sentOrder 119 (.latchClear 1) with tag := 128, addr := 120, origin := .survey, sent := none }]
      plantQueue := [{ tag := 129, frame := surveyFrame (.latchClear 2) }], internalWaiters := [surveyFrame (.latchRead 0 4)] }
    start := { c.start with heard := heard } }

def state163 : State := st (surveying 119 [] [])
theorem witness_StartUpReachesRunning_survey :
    Still state163.ctl ∧
    state163.ctl.link.urgentWaiters = [] ∧
    state163.ctl.matrix.slots = [] ∧
    state163.ctl.matrix.paths = [] ∧
    state163.ctl.matrix.queue = [] ∧
    state163.ctl.gate.tx = [] ∧
    state163.ctl.plan.time = none ∧
    state163.ctl.start.retire = none ∧
    state163.ctl.site.work.tx = [] ∧
    state163.ctl.site.work.ant = [] ∧
    state163.ctl.link.reports.length < 31 ∧
    state163.ctl.start.phase = .survey ∧
    state163.ctl.site.work.site.geometry = some { rows := 2, cols := 2, station := 119 } ∧
    (∀ q ∈ state163.ctl.link.plantQueue, q.frame.origin = .survey) ∧
    (∀ f ∈ state163.ctl.link.internalWaiters, f.origin = .survey) ∧
    state163.ctl.link.plantQueue ≠ [] ∧
    (∀ q ∈ allXps state163.ctl.site.work, (xpAt state163.ctl q.1 q.2).state ≠ .closed) := by
  simp only [still_iff]
  decide +kernel

def state164 : State := st (surveying 119 [119] [])
theorem witness_StartUpReachesRunning_survey_heard :
    Still state164.ctl ∧
    state164.ctl.link.urgentWaiters = [] ∧
    state164.ctl.matrix.slots = [] ∧
    state164.ctl.matrix.paths = [] ∧
    state164.ctl.matrix.queue = [] ∧
    state164.ctl.gate.tx = [] ∧
    state164.ctl.plan.time = none ∧
    state164.ctl.start.retire = none ∧
    state164.ctl.site.work.tx = [] ∧
    state164.ctl.site.work.ant = [] ∧
    state164.ctl.link.reports.length < 31 ∧
    state164.ctl.start.phase = .survey ∧
    state164.ctl.site.work.site.geometry = some { rows := 2, cols := 2, station := 119 } ∧
    (∀ q ∈ state164.ctl.link.plantQueue, q.frame.origin = .survey) ∧
    (∀ f ∈ state164.ctl.link.internalWaiters, f.origin = .survey) ∧
    state164.ctl.link.plantQueue ≠ [] ∧
    (∀ q ∈ allXps state164.ctl.site.work, (xpAt state164.ctl q.1 q.2).state ≠ .closed) := by
  simp only [still_iff]
  decide +kernel

def state165 : State := st (surveying 119 [] [119])
theorem witness_StartUpReachesRunning_survey_silent :
    Still state165.ctl ∧
    state165.ctl.link.urgentWaiters = [] ∧
    state165.ctl.matrix.slots = [] ∧
    state165.ctl.matrix.paths = [] ∧
    state165.ctl.matrix.queue = [] ∧
    state165.ctl.gate.tx = [] ∧
    state165.ctl.plan.time = none ∧
    state165.ctl.start.retire = none ∧
    state165.ctl.site.work.tx = [] ∧
    state165.ctl.site.work.ant = [] ∧
    state165.ctl.link.reports.length < 31 ∧
    state165.ctl.start.phase = .survey ∧
    state165.ctl.site.work.site.geometry = some { rows := 2, cols := 2, station := 119 } ∧
    (∀ q ∈ state165.ctl.link.plantQueue, q.frame.origin = .survey) ∧
    (∀ f ∈ state165.ctl.link.internalWaiters, f.origin = .survey) ∧
    state165.ctl.link.plantQueue ≠ [] ∧
    (∀ q ∈ allXps state165.ctl.site.work, (xpAt state165.ctl q.1 q.2).state ≠ .closed) := by
  simp only [still_iff]
  decide +kernel

/-- The invariant holds of a state with a command waiting, and a step leads on from it. -/
def sound1 : State :=
  let c := slotsTaken (bare none .storeCheck)
  { ctl := { c with link := { c.link with reserved := 1, plantQueue := [{ tag := 9, frame := gateFrame (plantTo 10 []) .query }] } },
    pending := [.opsReady] }

theorem witness_StepKeepsSound : Sound sound1.ctl ∧ (∃ t, step sound1 = .next t) ∧ sound1.pending ≠ [] :=
  ⟨{ bounds := by refine ⟨?_, ?_, ?_, ?_, ?_, ?_, ?_, ?_, ?_, ?_, ?_, ?_⟩ <;> decide +kernel
     panel := ⟨by decide +kernel, fun i => by simp [sound1, slotsTaken, bare, Ctl.reset]⟩
     site := ⟨by unfold Consistent; decide +kernel, none_all rfl, none_all rfl, none_all rfl⟩
     hall := by unfold HallSound; decide +kernel }, ⟨_, rfl⟩, by decide +kernel⟩

theorem witness_ClockNeverGoesBack : ∃ t, step sound1 = .next t := ⟨_, rfl⟩

/-! ## Worked examples of the specification, one step each -/

/-- What a test looks at after a step: the frames of the plant queue with their tags, and the reports' kinds. -/
def after (i : Instr) (s : State) : List (Nat × PlantVerb × Cls) × List (ReportKind × Nat) :=
  match exec i s with
  | .next t => (t.ctl.link.plantQueue.map (fun q => (q.tag, q.frame.verb, q.frame.cls)),
      t.ctl.link.reports.map (fun r => (r.kind, r.detail)))
  | _ => ([], [])

def power240 : Queued := { tag := 7, frame := gateFrame (plantTo 10 []) (.power 240) }
def onAir : State :=
  st { withTx { on1 with power := some 250 } (withPath path1 base) with
    link := { base.link with plantQueue := [power240] } }

/-- Section 1.12: the rating in the live band is lowered to 200 under a carrier set to 250, with a POWER 240 queued. -/
theorem test_lowering_a_rating :
    after (.siteWrite (own ([3#8, 1#8, 1#8] ++ be2 300 ++ be2 300 ++ be2 200 ++ (List.replicate 13 300).flatMap be2))) onAir =
      ([(7, .power 200, .passed), (128, .power 200, .internal)], [(.powerClamped, 0)]) := by decide +kernel

def raising : Ctx := { ctxIn .raising with raised := true }
def carrierOn140 : Queued :=
  { tag := 140,
    frame := { dest := 10, verb := .carrierOn, cls := .internal, origin := .ctx 16 { occ := raising.occ, isEnd := false } } }
def query9 : Queued := { tag := 9, frame := gateFrame (plantTo 10 []) .query }
def outstanding1 : TxDyn :=
  { owned1 with outstanding := true, outRestore := some { value := false, addr := 120, tag := 140 } }
/-- A context raises its carrier, with CARRIER_ON queued, while the lockout switch of its antenna is on for 50 ms. -/
def raisingCarrier : State :=
  let c := withEdge (.lockout 1) true (withTx outstanding1 (withPath { path1 with owner := .ctx 16 } base))
  st { c with link := { c.link with plantQueue := [carrierOn140, query9], lastTag := 140 }, cu := [(16, raising)] }

/-- Section 3.12: the CARRIER_ON is displaced by the interlock's CARRIER_OFF, and the context fails with INTERLOCK (72). -/
theorem test_lockout_reaches_a_queued_carrier_order :
    after (.lockoutOn 1) raisingCarrier =
      ([(9, .query, .passed), (141, .carrierOff, .urgent)], [(.interlockOff, 9), (.changeoverFailed, 72)]) := by
  decide +kernel

def waitingQuery : PFrame := query1.frame
/-- R28: a slot that this step has freed goes to its waiter before an URGENT frame takes one. -/
theorem test_a_freed_slot_goes_to_its_waiter_first :
    (offer { dest := 10, verb := .carrierOff, cls := .urgent, origin := .gate .interlock }
      { base with agenda := [.slot], link := { base.link with internalWaiters := [waitingQuery] } }).link.plantQueue.map
        (·.frame.verb) = [.query, .carrierOff] := by decide +kernel

/-- R39: a name's code is its place in its list, and a steer index takes one octet. -/
theorem test_codes_of_names :
    sourceCode .push = 1 ∧ proofOctets (.inProgress (some 130)) = [2#8, 130#8] ∧ targetOctets (.index 7) = [2#8, 7#8] := by
  decide

/-- R178: a report of tune state FAILED fails the retuning while its TUNE still waits; RETUNE_FAILED is 66. -/
theorem test_a_failed_report_fails_the_retuning :
    after (.transmitterStatus { back 10 0 [1#8, 3#8, 0x24#8, 0xC2#8, 0#8, 250#8, 2#8, 2#8] with dest := 120, tag := 0 })
      (st (inHand16 { setting .pending .done .done with tuned := false } owned1 (ownPath .proven))) =
        ([], [(.changeoverFailed, 66)]) := by decide +kernel

/-- R175: a write of the manual priority alone gives no context an occasion to judge its column, and a new transmitter does. -/
theorem test_manual_priority_is_no_occasion :
    (noteColumns base (siteWritten .site 0 { tables with site := { tables.site with manualPriority := 9 } } base)).agenda = [] ∧
    .columns ∈ (noteColumns base (siteWritten .transmitter 2
      { tables with tx := [(1, tx1), (2, { tx1 with station := 12, row := 2 })] } base)).agenda := by decide +kernel
/-- R79, R85: where the gate refuses the open of one RELEASING path, another that waits on the crosspoint asks for its own. -/
theorem test_refused_open_wakes_the_other_path :
    let p := { path1 with state := .releasing }
    let v : Movement := { req := { pid := 1, row := 1, col := 1, coil := .openCoil, priority := 1, age := 0 },
                          stage := .driving, limit := 18000, started := none, before := .closed }
    let c := withXp 1 1 { closed with state := .opening, movement := some 4 } (withPath p base)
    let c := { c with matrix := { c.matrix with slots := [(4, v)], paths := [p, { p with pid := 7 }] } }
    .actPath 7 ∈ (undoGrant 4 c).agenda := by decide +kernel
/-- R27, R78: the READ of a proof leaves the plant queue unsent, and with its tag released the path shows none. -/
theorem test_a_displaced_read_leaves_no_tag :
    (undoAdmission { tag := 5, frame := { dest := 30, verb := .latchRead 0 2, cls := .internal, origin := .mi (.proof 1) } }
      (withPath proving base)).matrix.paths.map (·.proof) = [.inProgress none] := by decide
/-- R135: a SEAL not carried out because of a FAILED page leaves the bank closed, though it was opened anew while it waited. -/
theorem test_a_failed_seal_closes_the_bank :
    let r := { bankOf .filling [] with pages := [(1, { cond := .failed, failures := 2, eraseMark := false, allVoid := false })] }
    let c := startHeader .a .seal (some ref1) { base with store := { base.store with bankA := r, openBank := some .a } }
    c.store.openBank = none ∧ (bankRec c .a).header.state = .filling := by decide
/-- A live holder of the antenna that context 16, of its priority, has preempted. -/
def preempted (p : Option Nat) : Ctl :=
  { withTx on1 (withPath path1 base) with cu := [(16, { ctxIn .awaitAntenna with tx := 2, priority := 8, preempting := p })] }
/-- R175, R176: a refused CARRIER_OFF is offered again whatever the manual priority has become; after its DONE the priority
decides again, and a holder of priority not lower is waited for. -/
theorem test_after_done_the_priority_decides :
    ((judgeColumn 16 (preempted (some 1))).link.plantQueue.map (·.frame.verb)) = [.carrierOff] ∧
    judgeColumn 16 (preempted none) = preempted none := by decide +kernel

/-- R51: a POWER 240 queued over a rating of 200 is left alone by a report that leaves the band as it was, and is brought down
by one with which the band becomes known. -/
theorem test_only_news_of_the_band_fits_power :
    let c := fun d => st { withTx d (withPath path1 base) with
      site := { base.site with work := { tables with ratings := [(1, List.replicate 16 200)] } }
      link := { base.link with plantQueue := [power240] } }
    let report := Instr.transmitterStatus
      { back 10 0 [1#8, 1#8, 0x24#8, 0xC2#8, 0#8, 250#8, 2#8, 2#8] with dest := 120, tag := 0 }
    after report (c off1) = ([(7, .power 240, .passed)], []) ∧
    after report (c { off1 with tune := .tuning }) = ([(7, .power 200, .passed)], [(.powerClamped, 0)]) := by decide +kernel

/-- R82: displaced by an URGENT frame, the READ of an abandoned proof does not wait again and leaves the new proof its tag; the
READ of the proof in progress waits again, without a tag. -/
theorem test_an_abandoned_read_does_nothing_more :
    let read : Queued := { tag := 5, frame := { dest := 30, verb := .latchRead 0 2, cls := .internal, origin := .mi (.proof 1) } }
    let room := fun (tag : Option Nat) =>
      (makeRoom { withPath { proving with proof := .inProgress tag } base with
        link := { base.link with plantQueue := [read] } }).map (fun c =>
          (c.link.internalWaiters, c.matrix.paths.map (·.proof)))
    room (some 9) = some ([], [.inProgress (some 9)]) ∧ room (some 5) = some ([read.frame], [.inProgress none]) := by decide +kernel

/-- An occurrence of the retired bank A raises its carrier while a START of bank B that covers its transmitter waits for it. -/
def retiredRaising : State :=
  let waits : Event := { planned 7 1 90000 with
    occ := { bank := .b, id := 7, day := 1 }, occEnd := 93600, wait := some .transmitter }
  let c := withTime 90060 (withEvent waits (withTx outstanding1 (withPath { path1 with owner := .ctx 16 } base)))
  st { c with
    store := { c.store with bankB := bankOf .active [entry 7 1 9410 1 (some 2700) 60 60 5] }
    cu := [(16, raising)] }
/-- R165, R183: the old occurrence, of a higher priority, is over before the START is offered again, which takes the
transmitter and preempts nothing. -/
theorem test_a_retired_occurrence_ends_before_the_start_is_offered :
    (match exec (.transmitterStatus { back 10 0 [2#8, 1#8, 0x24#8, 0xC2#8, 0#8, 250#8, 2#8, 2#8] with dest := 120, tag := 0 })
        retiredRaising with
      | .next t => ((txDyn t.ctl 1).map (fun d => (d.owner, d.running.map (·.endTime))),
          (busyCtx t.ctl 1).map (fun x => (x.occ.bank, x.phase)), t.ctl.plan.events.length,
          t.ctl.link.reports.map (·.kind))
      | _ => (none, none, 9, [])) =
      (some (.ctx 1, some 90060), some (.b, .muting), 0, [.changeoverDone, .lateStart]) := by decide +kernel

end Sys2Proof.Tests
end

section
/-! How the orders to the controller are answered, said once: a step whose command leaves nothing due is that command's
effect, a step whose consequences find nothing to do is its effect with the line of consequences emptied, and an order is
answered into the place it reserved. -/

namespace Sys2Proof.Proofs
open Sys2Proof.Machine Sys2Proof.Laws

variable {s : State} {o : OwnOrder} {v : Nat} {c : Ctl}

/-! ## Steps that settle at once -/

/-- A command that touches nothing columns are judged by and leaves nothing due, while the operations transmitter does not
choose. -/
theorem act_settled {f : Ctl → Ctl} (hf : f s.ctl = c) (hp : c.matrix.paths = s.ctl.matrix.paths)
    (ht : c.gate.tx = s.ctl.gate.tx) (ha : c.agenda = [])
    (ho : (c.link.opsTx.isSome || c.link.opsHeldOff) = true) : act f s = .next { s with ctl := c } := by
  subst hf
  rw [act_unnoted hp ht, finish_still ha ho]

/-- A command whose consequences, the look at the columns among them, all find nothing to do. -/
theorem act_inert {f : Ctl → Ctl} (hf : f s.ctl = c) (hi : ∀ x ∈ c.agenda, Inert x c) (hc : Inert .columns c)
    (hl : c.agenda.length < 16384) (ho : opsChoose { c with agenda := [] } = { c with agenda := [] }) :
    act f s = .next { s with ctl := { c with agenda := [] } } := by
  subst hf
  rcases act_eq f s with h | h
  · rw [h, finish, settle_inert settleLimit (f s.ctl) hi (Nat.le_of_lt hl), ho]
  · have hi' : ∀ x ∈ (f s.ctl).agenda ++ [.columns], Inert x (f s.ctl) := by
      intro x hx
      rcases List.mem_append.mp hx with hx | hx
      · exact hi x hx
      · rw [List.mem_singleton.mp hx]; exact hc
    have hs := settle_inert settleLimit { f s.ctl with agenda := (f s.ctl).agenda ++ [.columns] } hi' (by
      simp only [settleLimit, List.length_append, List.length_singleton]; omega)
    rw [h, finish, hs, ho]

/-! ## Answers to orders to the controller -/

theorem refuseOrder_reserve (r : Reason) (d : List Byte) (c : Ctl) :
    refuseOrder o v r d (reserve c) = { c with link := answered o v 3 r.code d c.link } :=
  reserve_answerRefused ..

theorem answerDone_reserve (p : List Byte) (c : Ctl) :
    answerDone o.src o.tag v p (reserve c) = { c with link := answered o v 1 0 p c.link } :=
  reserve_answerDone ..

/-- An order whose owner answers it, and changes no more than the Link Interface and the count of free values. -/
theorem ownOrder_answered {f : OwnOrder → Ctl → Ctl} {k : Link} {n : Nat} (hs : Still s.ctl)
    (ht : Takes s.ctl o.src o.tag o.payload) (hv : ownerOf v = some f)
    (hf : f o (reserve s.ctl) = { s.ctl with free := n, link := k })
    (hk : k.opsTx = s.ctl.link.opsTx ∧ k.opsHeldOff = s.ctl.link.opsHeldOff) :
    act (opsFrameEnds (ownOrder v o)) s = .next { s with ctl := { s.ctl with free := n, link := k } } :=
  act_settled ((takes_ownOrder ht hv).trans hf) rfl rfl hs.settled (by rw [hk.1, hk.2]; exact hs.opsTaken)

/-- An order that its owner refuses. -/
theorem ownOrder_refused {f : OwnOrder → Ctl → Ctl} {r : Reason} {d : List Byte} (hs : Still s.ctl)
    (ht : Takes s.ctl o.src o.tag o.payload) (hv : ownerOf v = some f)
    (hf : f o (reserve s.ctl) = refuseOrder o v r d (reserve s.ctl)) :
    act (opsFrameEnds (ownOrder v o)) s =
      .next { s with ctl := { s.ctl with link := answered o v 3 r.code d s.ctl.link } } :=
  ownOrder_answered hs ht hv (hf.trans (refuseOrder_reserve r d s.ctl)) ⟨rfl, rfl⟩

/-- An order that its owner answers DONE, and that changes nothing else. -/
theorem ownOrder_done {f : OwnOrder → Ctl → Ctl} {p : List Byte} (hs : Still s.ctl)
    (ht : Takes s.ctl o.src o.tag o.payload) (hv : ownerOf v = some f)
    (hf : f o (reserve s.ctl) = answerDone o.src o.tag v p (reserve s.ctl)) :
    act (opsFrameEnds (ownOrder v o)) s =
      .next { s with ctl := { s.ctl with link := answered o v 1 0 p s.ctl.link } } :=
  ownOrder_answered hs ht hv (hf.trans (answerDone_reserve p s.ctl)) ⟨rfl, rfl⟩

/-! ## Before RUNNING -/

theorem loadOpen_survey (hs : Still s.ctl) (ht : Takes s.ctl o.src o.tag o.payload)
    (hp : s.ctl.start.phase ≠ .running) :
    exec (.loadOpen o) s = .next { s with ctl := { s.ctl with link := answered o 1 3 1 [] s.ctl.link } } := by
  have hr : loadOpen o (reserve s.ctl) = refuseOrder o 1 .survey [] (reserve s.ctl) := if_pos hp
  have hf : opsFrameEnds (loadFrame 1 o) s.ctl = { s.ctl with link := answered o 1 3 1 [] s.ctl.link } :=
    (takes_loadFrame ht).trans (hr.trans (refuseOrder_reserve ..))
  exact act_settled hf rfl rfl hs.settled hs.opsTaken

theorem pathSet_survey {a b : Byte} (hb : o.payload = [a, b]) (hp : c.start.phase ≠ .running) :
    pathSet o c = refuseOrder o 32 .survey [] c := by
  simp only [pathSet, hb, pathSetCheck, if_pos hp]

theorem pathFree_survey {a : Byte} (hb : o.payload = [a]) (hp : c.start.phase ≠ .running) :
    pathFree o c = refuseOrder o 33 .survey [] c := by
  simp only [pathFree, hb, pathFreeCheck, if_pos hp]

theorem xpClear_survey {a b : Byte} (hb : o.payload = [a, b]) (hp : c.start.phase ≠ .running) :
    xpClear o c = refuseOrder o 34 .survey [] c := by
  simp only [xpClear, hb, xpClearOrder, if_pos hp, refuseOrder]

theorem siteWrite_survey (hp : c.start.phase ≠ .running) : siteWrite o c = refuseOrder o 39 .survey [] c := by
  simp only [siteWrite, siteWriteTests, if_pos hp]

/-- An order that its owner refuses SURVEY, under the verb that the order has. -/
theorem ownOrder_survey {f : OwnOrder → Ctl → Ctl} (v : Nat) (hs : Still s.ctl)
    (ht : Takes s.ctl o.src o.tag o.payload) (hv : ownerOf v = some f)
    (hf : f o (reserve s.ctl) = refuseOrder o v .survey [] (reserve s.ctl)) :
    act (opsFrameEnds (ownOrder v o)) s =
      .next { s with ctl := { s.ctl with link := answered o v 3 1 [] s.ctl.link } } :=
  ownOrder_refused hs ht hv hf

/-- Settles O24: each order tests the start-up phase first, an XP_CLEAR, a PATH_SET and a PATH_FREE once their payload is
theirs. -/
theorem startUpRefusesOrders : Obligations.StartUpRefusesOrders := by
  intro o s hs ht hp
  refine ⟨?_, fun a b hb => ⟨ownOrder_survey 32 hs ht rfl (pathSet_survey hb hp),
    ownOrder_survey 34 hs ht rfl (xpClear_survey hb hp)⟩,
    fun a hb => ownOrder_survey 33 hs ht rfl (pathFree_survey hb hp)⟩
  simp only [List.forall_mem_cons, List.not_mem_nil, false_imp_iff, implies_true, and_true]
  exact ⟨ownOrder_survey 37 hs ht rfl (if_pos hp), ownOrder_survey 39 hs ht rfl (siteWrite_survey hp),
    ownOrder_survey 41 hs ht rfl (if_pos hp), ownOrder_survey 42 hs ht rfl (if_pos hp),
    ownOrder_survey 44 hs ht rfl (if_pos hp), ownOrder_survey 45 hs ht rfl (if_pos hp),
    ownOrder_survey 46 hs ht rfl (if_pos hp), ownOrder_survey 47 hs ht rfl (if_pos hp),
    ownOrder_survey 48 hs ht rfl (if_pos hp), ownOrder_survey 49 hs ht rfl (if_pos hp),
    ownOrder_survey 51 hs ht rfl (if_pos hp), loadOpen_survey hs ht hp⟩

/-! ## The orders that read -/

theorem siteRead_answers {kind key src : Byte} {k : RecordKind} (hb : o.payload = [kind, key, src])
    (hk : recordKindOf kind.toNat = some k) (hv : keyValid k key.toNat = true) (hr : src = 1#8 ∨ src = 2#8) :
    siteRead o c = answerDone o.src o.tag 40 (siteReadOctets c k key.toNat (decide (src = 2#8))) c := by
  rcases hr with rfl | rfl <;> simp [siteRead, hb, hk, hv]

theorem entryRead_byId {b i1 i2 : Byte} {bk : Bank} {k : Nat} (hb : o.payload = [b, i1, i2, 255#8, 255#8])
    (hbk : bankOfCode b.toNat = some bk) (hc : c.store.checked = true) (hk : slotOfId c bk (rd2 i1 i2) = some k) :
    entryRead o c = answerDone o.src o.tag 52 (slotOctets c bk k) c := by
  simp [entryRead, hc, orderBank, hb, hbk, hk]

theorem entryRead_byPlace {b i1 i2 p q : Byte} {bk : Bank} (hb : o.payload = [b, i1, i2, p, q])
    (hbk : bankOfCode b.toNat = some bk) (hc : c.store.checked = true) (hp : 1 ≤ p.toNat ∧ p.toNat ≤ 16)
    (hq : 1 ≤ q.toNat ∧ q.toNat ≤ 128) :
    entryRead o c = drawFree 22 (answerDone o.src o.tag 52 (slotOctets c bk (slotKey p.toNat q.toNat)) c) := by
  have ha : ¬ (p.toNat = 0xFF ∧ q.toNat = 0xFF) := by omega
  simp [entryRead, hc, orderBank, hb, hbk, ha, hp, hq]

theorem planRead_answers {i : Byte} (hb : o.payload = [i]) :
    planRead o c = answerDone o.src o.tag 53 (planOctets c i.toNat) c := by
  simp only [planRead, hb]

theorem contextRead_answers {i : Byte} (hb : o.payload = [i]) (hi : 1 ≤ i.toNat ∧ i.toNat ≤ 16) :
    contextRead o c =
      answerDone o.src o.tag 54 (match tget i.toNat c.cu with | some x => ctxOctets c x | none => [1#8]) c := by
  simp only [contextRead, hb, Config.contexts, hi, and_self, if_true]
  rfl

theorem partStatus_stations {i1 i2 : Byte} (hb : o.payload = [2#8, i1, i2]) :
    partStatus o c = answerDone o.src o.tag 55 (u8 (knownStations c.site.work).length ++
      itemOctets (knownStations c.site.work) (rd2 i1 i2) 14 (stationOctets c)) c := by
  simp [partStatus, hb]

theorem partStatus_paths {i1 i2 : Byte} (hb : o.payload = [3#8, i1, i2]) :
    partStatus o c = answerDone o.src o.tag 55 (u8 c.matrix.paths.length ++
      itemOctets c.matrix.paths (rd2 i1 i2) 3 pathOctets) c := by
  simp [partStatus, hb]

theorem partStatus_crosspoints {i1 i2 : Byte} (hb : o.payload = [4#8, i1, i2]) :
    partStatus o c = answerDone o.src o.tag 55 (be2 (notOpen c).length ++
      itemOctets (notOpen c) (rd2 i1 i2) 8 (xpOctets c)) c := by
  simp [partStatus, hb]

theorem partStatus_panel {i1 i2 : Byte} (hb : o.payload = [5#8, i1, i2]) :
    partStatus o c = answerDone o.src o.tag 55 (panelOctets c.panel) c := by
  simp [partStatus, hb]

/-- Only SUMMARY clears the reports-lost flag, which it shows as it stood (R37). -/
theorem partStatus_summary {i1 i2 : Byte} (hb : o.payload = [1#8, i1, i2]) :
    partStatus o c = (answerDone o.src o.tag 55 (summaryOctets c) c).onLink
      (fun k => { k with reportsLost := false }) := by
  simp [partStatus, hb]

/-- Settles O25: what an order reads does not depend on the place the order has reserved. -/
theorem readingOrdersOnlyAnswer : Obligations.ReadingOrdersOnlyAnswer := by
  intro o s hs ht
  refine ⟨fun kind key src k hb hk hv hr => ?siteRead, ?storeStatus, fun b i1 i2 p q bk hb hbk hc => ⟨?byId, ?byPlace⟩,
    fun i hb => ⟨?planRead, fun h1 h16 => ?contextRead⟩,
    fun i1 i2 => ⟨fun hb => ?stations, fun hb => ?paths, fun hb => ?crosspoints, fun hb => ?panel, fun hb => ?summary⟩⟩
  case siteRead => exact ownOrder_done (v := 40) hs ht rfl (siteRead_answers hb hk hv hr)
  case storeStatus => exact ownOrder_done (v := 50) hs ht rfl rfl
  case byId =>
    rintro k rfl rfl hk
    exact ownOrder_done (v := 52) hs ht rfl (entryRead_byId hb hbk hc hk)
  case byPlace =>
    intro p1 p16 q1 q128
    exact ownOrder_answered (v := 52) hs ht rfl ((entryRead_byPlace (c := reserve s.ctl) hb hbk hc ⟨p1, p16⟩
      ⟨q1, q128⟩).trans
      (congrArg (drawFree 22) (answerDone_reserve _ s.ctl))) ⟨rfl, rfl⟩
  case planRead => exact ownOrder_done (v := 53) hs ht rfl (planRead_answers hb)
  case contextRead => exact ownOrder_done (v := 54) hs ht rfl (contextRead_answers hb ⟨h1, h16⟩)
  case stations => exact ownOrder_done (v := 55) hs ht rfl (partStatus_stations hb)
  case paths => exact ownOrder_done (v := 55) hs ht rfl (partStatus_paths hb)
  case crosspoints => exact ownOrder_done (v := 55) hs ht rfl (partStatus_crosspoints hb)
  case panel => exact ownOrder_done (v := 55) hs ht rfl (partStatus_panel hb)
  case summary =>
    exact ownOrder_answered (v := 55) hs ht rfl ((partStatus_summary hb).trans
      (congrArg (Ctl.onLink _) (answerDone_reserve _ s.ctl))) ⟨rfl, rfl⟩

end Sys2Proof.Proofs
end
section
/-! What holds right after reset and after POWER_UP. -/

namespace Sys2Proof.Proofs
open Sys2Proof.Machine Sys2Proof.Laws

/-! ## Reset -/

/-- Settles O4: every queue is empty, the panel is sampled, the erased tables are consistent and no image of them is valid,
and the hall stop is not in force. -/
theorem resetIsSound : Obligations.ResetIsSound where
  bounds := by constructor <;> decide
  panel := samplePanel_sound Ctl.reset.panel
  site := ⟨consistent_erased, nofun, nofun, nofun⟩
  hall := by simp [HallSound, State.reset, Ctl.reset]

/-! ## POWER_UP -/

theorem pageAt_setPage_same (p : Nat) (x : Page) (r : BankRec) : pageAt (setPage p x r) p = x :=
  tget_tput_same Page.initial x p r.pages

theorem pageAt_setPage_other {p q : Nat} (x : Page) (r : BankRec) (h : p ≠ q) :
    pageAt (setPage q x r) p = pageAt r p := by
  simp only [pageAt, setPage, tget_tput_other Page.initial x r.pages h]

/-- Failure counts that fall to 0 page by page: a page of the list has its count at 0, another is as it was. -/
theorem pageAt_foldl_noFailures (l : List Nat) (r : BankRec) (p : Nat) :
    pageAt (l.foldl (fun r p => setPage p { pageAt r p with failures := 0 } r) r) p =
      if p ∈ l then { pageAt r p with failures := 0 } else pageAt r p := by
  induction l generalizing r with
  | nil => rfl
  | cons q l ih =>
    rw [List.foldl_cons, ih]
    by_cases h : p = q
    · subst h; simp [pageAt_setPage_same]
    · simp [pageAt_setPage_other _ _ h, h]

theorem pageAt_withoutFailures {p : Nat} (r : BankRec) (h1 : 1 ≤ p) (h16 : p ≤ 16) :
    pageAt (withoutFailures r) p = { pageAt r p with failures := 0 } := by
  have hm : p ∈ upTo 16 := by
    simp only [upTo, List.mem_map, List.mem_range]
    exact ⟨p - 1, by omega⟩
  rw [withoutFailures, pageAt_foldl_noFailures, if_pos hm]

/-- A reset with no operation in progress touches nothing but the store. -/
theorem resetStore_idle {c : Ctl} (h : c.store.op = none) :
    resetStore c = { c with store := { Ctl.reset.store with
      bankA := resetBank c.store.bankA, bankB := resetBank c.store.bankB } } := by
  simp only [resetStore, interruptOp, h]
  rfl

theorem pushSampled_off {was : Bool} {c : Ctl} (h : c.panel.cond.push = false) : pushSampled was c = c := by
  simp [pushSampled, h]

/-- The controller right after a power-up with the push off: one consequence is left, the look for a frame that the
operations side holds. -/
theorem powerUp_eq {c : Ctl} (hpush : c.panel.raw.push = false) (hop : c.store.op = none) :
    powerUp c = { Ctl.reset with
      clock := c.clock
      free := c.free
      agenda := [.opsTake]
      link := { Link.initial with opsHeldOff := c.link.opsHeldOff, opsInput := c.link.opsInput }
      gate := { tx := freshTx (loadedTables c.site), held := [], powerSent := [] }
      aerial := freshAnt (loadedTables c.site)
      site := { work := loadedTables c.site, unsaved := false, image1 := c.site.image1, image2 := c.site.image2 }
      store := { Ctl.reset.store with bankA := resetBank c.store.bankA, bankB := resetBank c.store.bankB }
      panel := samplePanel c.panel } := by
  rw [powerUp, resetStore_idle hop, pushSampled_off (by rw [pushOnce_panel]; exact hpush)]
  rfl

/-- An operations transmitter with nothing to send does not choose. -/
theorem opsChoose_nothing {c : Ctl} (hf : c.load.flow = none) (ha : c.link.answers = []) (hr : c.link.reports = []) :
    opsChoose c = c := by
  simp only [opsChoose, hf, ha, hr, ite_self]

/-- Settles O59: nothing is left after a power-up for its one consequence to do, and no context to judge a column. -/
theorem powerUpStartsAfresh : Obligations.PowerUpStartsAfresh := by
  refine ⟨fun r p => pageAt_withoutFailures r, fun s hpush hop hin => ?_⟩
  refine (act_inert (powerUp_eq hpush hop) ?inert ?columns ?few ?chooses).trans ?same
  case inert =>
    intro x hx
    rw [List.mem_singleton.mp hx]
    exact inert_opsTake hin
  case columns => exact inert_columns (by simp [Ctl.reset])
  case few => simp
  case chooses => exact opsChoose_nothing rfl rfl rfl
  case same => rw [hin]; rfl

end Sys2Proof.Proofs
end
section
/-! Round trips of the codings: what each number, list and record is read as from the octets it is written in (R39, R41). -/

namespace Sys2Proof.Proofs
open Sys2Proof.Machine Sys2Proof.Laws

/-! ## Numbers -/

theorem u8_octet {n : Nat} (h : n < 256) : ∃ a, u8 n = [a] ∧ a.toNat = n :=
  ⟨_, rfl, by simpa using h⟩

theorem be2_octets {n : Nat} (h : n < 65536) : ∃ a b, be2 n = [a, b] ∧ rd2 a b = n :=
  ⟨_, _, rfl, by simp only [rd2, BitVec.toNat_ofNat]; omega⟩

theorem opt1_octet {x : Option Nat} (h : ∀ n, x = some n → n < 255) : ∃ a, opt1 x = [a] ∧ absent1 a.toNat = x := by
  cases x with
  | none => exact ⟨_, rfl, rfl⟩
  | some n =>
    have hn := h n rfl
    obtain ⟨a, ha, hr⟩ := u8_octet (n := n) (by omega)
    exact ⟨a, ha, by rw [hr, absent1, if_neg (by omega)]⟩

theorem opt2_octets {x : Option Nat} (h : ∀ n, x = some n → n < 65535) :
    ∃ a b, opt2 x = [a, b] ∧ absent2 (rd2 a b) = x := by
  cases x with
  | none => exact ⟨0xFF#8, 0xFF#8, by decide, by decide⟩
  | some n =>
    have hn := h n rfl
    obtain ⟨a, b, hab, hr⟩ := be2_octets (n := n) (by omega)
    exact ⟨a, b, hab, by rw [hr, absent2, if_neg (by omega)]⟩

theorem beSigned2_octets {x : Int} (h : -32768 ≤ x ∧ x < 32768) : ∃ a b, beSigned2 x = [a, b] ∧ rdSigned2 a b = x := by
  obtain ⟨a, b, hab, hr⟩ := be2_octets (n := (x % 0x10000).toNat) (by omega)
  refine ⟨a, b, hab, ?_⟩
  rw [rdSigned2, hr]
  split <;> omega

theorem yesNo_octet (v : Bool) : ∃ a, yesNo v = [a] ∧ yesNoOf a.toNat = some v := by
  cases v <;> exact ⟨_, rfl, rfl⟩

/-! ## Lists of numbers -/

theorem parsePairs_be2 {l : List Nat} (h : ∀ n ∈ l, n < 65536) : parsePairs (l.flatMap be2) = some l := by
  induction l with
  | nil => rfl
  | cons n l ih =>
    obtain ⟨a, b, hab, hr⟩ := be2_octets (h n (by simp))
    have ih := ih (fun m hm => h m (by simp [hm]))
    simp [hab, parsePairs, ih, hr]

theorem parseSignedPairs_beSigned2 {l : List Int} (h : ∀ x ∈ l, -32768 ≤ x ∧ x < 32768) :
    parseSignedPairs (l.flatMap beSigned2) = some l := by
  induction l with
  | nil => rfl
  | cons x l ih =>
    obtain ⟨a, b, hab, hr⟩ := beSigned2_octets (h x (by simp))
    have ih := ih (fun m hm => h m (by simp [hm]))
    simp [hab, parseSignedPairs, ih, hr]

theorem length_flatMap_beSigned2 (l : List Int) : (l.flatMap beSigned2).length = 2 * l.length := by
  induction l with
  | nil => rfl
  | cons x l ih => simp [ih, beSigned2, be2]; omega

/-- The offset list, absent or of at most 7 offsets, is read off its count octet and what follows it. -/
theorem offsets_octets {x : Option (List Int)}
    (h : ∀ l, x = some l → l.length < 255 ∧ ∀ o ∈ l, -32768 ≤ o ∧ o < 32768) (rest : List Byte) :
    ∃ n body, offsetOctets x = n :: body ∧ parseOffsets n.toNat (body ++ rest) = some (x, rest) := by
  cases x with
  | none => exact ⟨_, _, rfl, rfl⟩
  | some l =>
    obtain ⟨hl, ho⟩ := h l rfl
    obtain ⟨n, hn, hr⟩ := u8_octet (n := l.length) (by omega)
    refine ⟨n, l.flatMap beSigned2, by simp [offsetOctets, hn], ?_⟩
    have hlen := length_flatMap_beSigned2 l
    have htake : (l.flatMap beSigned2 ++ rest).take (2 * l.length) = l.flatMap beSigned2 := by
      rw [← hlen, List.take_left]
    have hdrop : (l.flatMap beSigned2 ++ rest).drop (2 * l.length) = rest := by rw [← hlen, List.drop_left]
    rw [hr, parseOffsets, if_neg (by omega), if_neg (by simp only [List.length_append]; omega), htake, hdrop,
      parseSignedPairs_beSigned2 ho]

/-! ## The entry record -/

/-- The widths of an entry record's fields, a present optional one being other than all ones. -/
structure EntryFits (e : EntryRec) : Prop where
  id : e.id < 65536
  days : e.days < 128
  start : e.start < 65536
  duration : e.duration < 65536
  validFrom : ∀ v, e.validFrom = some v → v < 65535
  validTo : ∀ v, e.validTo = some v → v < 65535
  tx : e.tx < 256
  freq : e.freq < 65536
  ant : e.ant < 256
  bearing : ∀ v, e.bearing = some v → v < 65535
  power : e.power < 65536
  feed : e.feed < 256
  priority : e.priority < 256
  spare : e.spare < 256

theorem parseEntry_entryOctets {e : EntryRec} (h : EntryFits e) :
    (entryOctets e).length = 22 ∧ parseEntry (entryOctets e) = some e := by
  obtain ⟨_, _, e1, r1⟩ := be2_octets h.id
  have hdays := Nat.mod_eq_of_lt h.days
  obtain ⟨_, e2, r2⟩ := u8_octet (Nat.lt_trans h.days (by decide))
  obtain ⟨_, _, e3, r3⟩ := be2_octets h.start
  obtain ⟨_, _, e4, r4⟩ := be2_octets h.duration
  obtain ⟨_, _, e5, r5⟩ := opt2_octets h.validFrom
  obtain ⟨_, _, e6, r6⟩ := opt2_octets h.validTo
  obtain ⟨_, e7, r7⟩ := u8_octet h.tx
  obtain ⟨_, _, e8, r8⟩ := be2_octets h.freq
  obtain ⟨_, e9, r9⟩ := u8_octet h.ant
  obtain ⟨_, _, e10, r10⟩ := opt2_octets h.bearing
  obtain ⟨_, _, e11, r11⟩ := be2_octets h.power
  obtain ⟨_, e12, r12⟩ := u8_octet h.feed
  obtain ⟨_, e13, r13⟩ := u8_octet h.priority
  obtain ⟨_, e14, r14⟩ := u8_octet h.spare
  simp only [entryOctets, hdays, e1, e2, e3, e4, e5, e6, e7, e8, e9, e10, e11, e12, e13, e14, List.cons_append,
    List.nil_append, List.length_cons, List.length_nil, parseEntry, r1, r2, r3, r4, r5, r6, r7, r8, r9, r10, r11, r12,
    r13, r14, and_self]

/-! ## Site records -/

theorem firstFailed_none {l : List (Nat × Bool)} : firstFailed l = none ↔ ∀ p ∈ l, p.2 = true := by
  simp [firstFailed]

theorem within_iff {low high n : Nat} : within low high n = true ↔ low ≤ n ∧ n ≤ high := by simp [within]

theorem lt_of_presentWithin {low high top : Nat} {x : Option Nat} (ht : high < top)
    (h : presentWithin low high x = true) : ∀ n, x = some n → n < top := by
  rintro n rfl
  exact Nat.lt_of_le_of_lt (within_iff.mp h).2 ht

theorem lt_of_isNone {top : Nat} {x : Option Nat} (h : x.isNone = true) : ∀ n, x = some n → n < top := by
  rintro n rfl
  cases h

theorem tx_roundTrip {t : Tables} {x : TxStatic} (h : firstFailed (txChecks t x) = none) :
    parseSiteRec .transmitter (txOctets x) = .ok (.transmitter x) := by
  simp only [firstFailed_none, txChecks, List.forall_mem_cons, Bool.and_eq_true, within_iff, decide_eq_true_eq] at h
  obtain ⟨hst, ⟨hrow, -⟩, hmax, ⟨htm, htu⟩, ⟨⟨hti, htb⟩, -⟩, -⟩ := h
  obtain ⟨_, e1, r1⟩ := u8_octet (n := x.station) (by omega)
  obtain ⟨_, e2, r2⟩ := u8_octet (n := x.row) (by omega)
  obtain ⟨_, _, e3, r3⟩ := be2_octets (n := x.maxPower) (by omega)
  obtain ⟨_, e4, r4⟩ := u8_octet (n := x.tm) (by omega)
  obtain ⟨_, e5, r5⟩ := u8_octet (n := x.tu) (by omega)
  obtain ⟨_, e6, r6⟩ := u8_octet (n := x.ti) (by omega)
  obtain ⟨_, _, e7, r7⟩ := be2_octets (n := x.tb) (by omega)
  obtain ⟨_, e8, r8⟩ := yesNo_octet x.inService
  simp only [txOctets, e1, e2, e3, e4, e5, e6, e7, e8, List.cons_append, List.nil_append, parseSiteRec, r1, r2, r3, r4,
    r5, r6, r7, r8]

/-- The fields of an antenna record that passes checks 8 to 12 lie below all ones in their octets. -/
structure AntFits (x : AntStatic) : Prop where
  column : x.column < 256
  drive : ∀ n, x.drive = some n → n < 255
  boresight : ∀ n, x.boresight = some n → n < 65535
  stopBearing : ∀ n, x.stopBearing = some n → n < 65535
  margin : ∀ n, x.margin = some n → n < 65535
  slewRate : ∀ n, x.slewRate = some n → n < 255
  settle : ∀ n, x.settle = some n → n < 255
  offsets : ∀ l, x.offsets = some l → l.length < 255 ∧ ∀ o ∈ l, -32768 ≤ o ∧ o < 32768
  phasing : ∀ n, x.phasing = some n → n < 255

theorem antFits_of_checks {t : Tables} {x : AntStatic} (h : firstFailed (antChecks t x) = none) : AntFits x := by
  simp only [firstFailed_none, antChecks, List.forall_mem_cons] at h
  obtain ⟨hcol, hdrive, hbore, hrot, hsteer, -⟩ := h
  have hcol : x.column < 256 := by
    simp only [Bool.and_eq_true, within_iff] at hcol
    omega
  have hdrive : ∀ n, x.drive = some n → n < 255 := by
    split at hdrive
    · exact lt_of_presentWithin (by decide) hdrive
    · exact lt_of_isNone hdrive
  have hbore : ∀ n, x.boresight = some n → n < 65535 := by
    split at hbore
    · exact lt_of_presentWithin (by decide) hbore
    · exact lt_of_isNone hbore
  have hoffs : ∀ l, x.offsets = some l → l.length < 255 ∧ ∀ o ∈ l, -32768 ≤ o ∧ o < 32768 := by
    rintro l hl
    split at hsteer
    · simp only [hl, Option.any_some, Bool.and_eq_true, within_iff, List.all_eq_true, decide_eq_true_eq] at hsteer
      obtain ⟨-, ⟨⟨hlen, hall⟩, -⟩, -⟩ := hsteer
      exact ⟨by omega, fun o ho => by have := hall o ho; omega⟩
    · simp [hl] at hsteer
  have hphase : ∀ n, x.phasing = some n → n < 255 := by
    split at hsteer <;> simp only [Bool.and_eq_true] at hsteer
    · exact lt_of_presentWithin (by decide) hsteer.1
    · exact lt_of_isNone hsteer.2
  split at hrot <;> simp only [Bool.and_eq_true] at hrot <;> obtain ⟨⟨⟨hstop, hmargin⟩, hrate⟩, hsettle⟩ := hrot
  · exact ⟨hcol, hdrive, hbore, lt_of_presentWithin (by decide) hstop, lt_of_presentWithin (by decide) hmargin,
      lt_of_presentWithin (by decide) hrate, lt_of_presentWithin (by decide) hsettle, hoffs, hphase⟩
  · exact ⟨hcol, hdrive, hbore, lt_of_isNone hstop, lt_of_isNone hmargin, lt_of_isNone hrate, lt_of_isNone hsettle,
      hoffs, hphase⟩

theorem antKind_octet (k : AntKind) : ∃ a, u8 k.code = [a] ∧ antKindOf a.toNat = some k := by
  cases k <;> exact ⟨_, rfl, rfl⟩

theorem ant_roundTrip {x : AntStatic} (h : AntFits x) : parseSiteRec .antenna (antOctets x) = .ok (.antenna x) := by
  obtain ⟨_, e1, r1⟩ := antKind_octet x.kind
  obtain ⟨_, e2, r2⟩ := u8_octet h.column
  obtain ⟨_, e3, r3⟩ := opt1_octet h.drive
  obtain ⟨_, _, e4, r4⟩ := opt2_octets h.boresight
  obtain ⟨_, _, e5, r5⟩ := opt2_octets h.stopBearing
  obtain ⟨_, _, e6, r6⟩ := opt2_octets h.margin
  obtain ⟨_, e7, r7⟩ := opt1_octet h.slewRate
  obtain ⟨_, e8, r8⟩ := opt1_octet h.settle
  obtain ⟨tp, e10, r10⟩ := opt1_octet h.phasing
  obtain ⟨_, _, e9, r9⟩ := offsets_octets h.offsets [tp]
  simp only [antOctets, e1, e2, e3, e4, e5, e6, e7, e8, e9, e10, List.cons_append, List.nil_append, parseSiteRec, r1,
    r2, r3, r4, r5, r6, r7, r8, r9, r10]

theorem ratings_roundTrip {l : List Nat} (hl : l.length = 16)
    (h : firstFailed [(13, l.all (fun v => decide (v ≤ 999)))] = none) :
    parseSiteRec .ratings (l.flatMap be2) = .ok (.ratings l) := by
  have h : ∀ n ∈ l, n ≤ 999 := by simpa [firstFailed_none] using h
  have hp := parsePairs_be2 (l := l) (fun n hn => Nat.lt_of_le_of_lt (h n hn) (by decide))
  simp only [parseSiteRec, hp, hl, if_true]

theorem band_roundTrip {b : Band} (hl : b.low < 65536) (hh : b.high < 65536) :
    parseSiteRec .band (be2 b.low ++ be2 b.high) = .ok (.band b) := by
  obtain ⟨_, _, e1, r1⟩ := be2_octets hl
  obtain ⟨_, _, e2, r2⟩ := be2_octets hh
  simp only [e1, e2, List.cons_append, List.nil_append, parseSiteRec, r1, r2]

theorem site_roundTrip {x : SiteRecord} (h : siteCheck x = true) : parseSiteRec .site (siteOctets x) = .ok (.site x) := by
  obtain ⟨geometry, sx, tolerance, priority⟩ := x
  simp only [siteCheck, Bool.and_eq_true, within_iff, decide_eq_true_eq] at h
  obtain ⟨⟨⟨hg, hsx⟩, htol⟩, hprio⟩ := h
  obtain ⟨_, e4, r4⟩ := u8_octet (n := sx) (by omega)
  obtain ⟨_, e5, r5⟩ := u8_octet (n := tolerance) (by omega)
  obtain ⟨_, e6, r6⟩ := u8_octet (n := priority) (by omega)
  have hnone := opt1_octet (x := none) nofun
  cases geometry with
  | none =>
    obtain ⟨_, e1, r1⟩ := hnone
    simp only [siteOctets, Option.map_none, e1, e4, e5, e6, List.cons_append, List.nil_append, parseSiteRec, r1, r4, r5,
      r6]
  | some g =>
    simp only [Bool.and_eq_true, within_iff] at hg
    obtain ⟨_, e1, r1⟩ := opt1_octet (x := some g.rows) (by rintro _ ⟨⟩; omega)
    obtain ⟨_, e2, r2⟩ := opt1_octet (x := some g.cols) (by rintro _ ⟨⟩; omega)
    obtain ⟨_, e3, r3⟩ := opt1_octet (x := some g.station) (by rintro _ ⟨⟩; omega)
    simp only [siteOctets, Option.map_some, e1, e2, e3, e4, e5, e6, List.cons_append, List.nil_append, parseSiteRec, r1,
      r2, r3, r4, r5, r6]

theorem siteRec_roundTrip {t : Tables} {key : Nat} {r : SiteRec} (h : firstFailed (recordChecks t key r) = none)
    (hl : ∀ l, r = .ratings l → l.length = 16) : parseSiteRec (kindOfRec r) (siteRecOctets r) = .ok r := by
  cases r with
  | transmitter x => exact tx_roundTrip h
  | antenna x => exact ant_roundTrip (antFits_of_checks h)
  | ratings l => exact ratings_roundTrip (hl l rfl) h
  | band b =>
    simp only [recordChecks, firstFailed_none, List.forall_mem_cons, Bool.and_eq_true, within_iff] at h
    exact band_roundTrip (by omega) (by omega)
  | site x => exact site_roundTrip (by simpa [recordChecks, firstFailed_none] using h)
  | auxiliary => rfl

/-! ## Verbs -/

theorem transmitterVerb_roundTrip {v : PlantVerb}
    (h : v = .carrierOn ∨ v = .carrierOff ∨ v = .query ∨ (∃ n, n < 65536 ∧ (v = .tune n ∨ v = .power n)) ∨
      ∃ n, n < 256 ∧ v = .feed n) : parseTransmitterVerb v.code v.payload = v := by
  rcases h with rfl | rfl | rfl | ⟨n, hn, h⟩ | ⟨n, hn, rfl⟩
  · rfl
  · rfl
  · rfl
  · obtain ⟨_, _, e, r⟩ := be2_octets hn
    rcases h with rfl | rfl
    · exact (congrArg (parseTransmitterVerb 1) e).trans (congrArg PlantVerb.tune r)
    · exact (congrArg (parseTransmitterVerb 2) e).trans (congrArg PlantVerb.power r)
  · obtain ⟨_, e, r⟩ := u8_octet hn
    exact (congrArg (parseTransmitterVerb 5) e).trans (congrArg PlantVerb.feed r)

theorem driveVerb_roundTrip {v : PlantVerb}
    (h : v = .stop ∨ v = .query ∨ (∃ n, n < 65536 ∧ v = .slew n) ∨ ∃ n, n < 256 ∧ v = .steer n) :
    parseDriveVerb v.code v.payload = v := by
  rcases h with rfl | rfl | ⟨n, hn, rfl⟩ | ⟨n, hn, rfl⟩
  · rfl
  · rfl
  · obtain ⟨_, _, e, r⟩ := be2_octets hn
    exact (congrArg (parseDriveVerb 7) e).trans (congrArg PlantVerb.slew r)
  · obtain ⟨_, e, r⟩ := u8_octet hn
    exact (congrArg (parseDriveVerb 8) e).trans (congrArg PlantVerb.steer r)

/-- Settles O9: a field that fits its octets is read back from them, and the checks of a site record hold each of its fields
below what its octets can say. -/
theorem recordsAndVerbsSurviveTheirOctets : Obligations.RecordsAndVerbsSurviveTheirOctets :=
  ⟨fun _ h1 h2 h3 h4 h5 h6 h7 h8 h9 h10 h11 h12 h13 h14 =>
      parseEntry_entryOctets ⟨h1, h2, h3, h4, h5, h6, h7, h8, h9, h10, h11, h12, h13, h14⟩,
    fun _ _ _ => siteRec_roundTrip, fun _ => transmitterVerb_roundTrip, fun _ => driveVerb_roundTrip⟩

end Sys2Proof.Proofs
end
section
/-! SITE_WRITE: its tests in their order (R2), and what a write that passes them leaves of the controller (R1, R7, R10, R32). -/

namespace Sys2Proof.Proofs
open Sys2Proof.Machine Sys2Proof.Laws

variable {s : State} {o : OwnOrder} {c : Ctl} {k : RecordKind} {t' : Tables} {n : Nat}

/-! ## The tests in their order -/

/-- The consistency checks and the use of the record, for the tables a write asks for: the tests of R2 that come behind
those of the record carried. -/
def judgeTables (c : Ctl) (k : RecordKind) (key : Nat) (t' : Tables) :
    Except (Reason × List Byte) (RecordKind × Nat × Tables) :=
  match firstFailed (consistencyChecks t') with
  | some i => .error (.badRecord, u8 i)
  | none =>
    if t' = c.site.work then .ok (k, key, t')
    else match useRefusal c t' k key with
      | some r => .error (r, [])
      | none => .ok (k, key, t')

variable {kind key mark : Byte} {body : List Byte}

/-- What the first two octets of a write name is a record that may be written or removed (R2, step 2). -/
structure NamesRecord (c : Ctl) (kind key : Byte) (k : RecordKind) : Prop where
  code : recordKindOf kind.toNat = some k
  valid : keyValid k key.toNat = true
  antenna : k = .ratings → (tget key.toNat c.site.work.ant).isSome = true

theorem NamesRecord.ratingsKnown (h : NamesRecord c kind key k) : ¬ (k = .ratings ∧ tget key.toNat c.site.work.ant = none) := by
  rintro ⟨hk, hn⟩
  simpa [hn] using h.antenna hk

theorem siteWriteTests_invalid (hrun : c.start.phase = .running)
    (h : recordKindOf kind.toNat = none ∨ ∃ k, recordKindOf kind.toNat = some k ∧
      (keyValid k key.toNat = false ∨ (k = .ratings ∧ tget key.toNat c.site.work.ant = none) ∨
        (mark = 0#8 ∧ (k = .site ∨ k = .ratings)))) :
    siteWriteTests (kind :: key :: mark :: body) c = .error (.badRecord, u8 1) := by
  rcases h with h | ⟨k, hk, h | ⟨rfl, h⟩ | ⟨rfl, h⟩⟩
  · simp [siteWriteTests, hrun, h]
  · simp [siteWriteTests, hrun, hk, h]
  · simp [siteWriteTests, hrun, hk, h]
  · rcases h with rfl | rfl <;> simp [siteWriteTests, hrun, hk]

/-- A record is carried that fails a check of its kind. -/
theorem siteWriteTests_badRecord {r : SiteRec} {i : Nat} (hrun : c.start.phase = .running) (h : NamesRecord c kind key k)
    (hr : parseSiteRec k body = .ok r) (hi : firstFailed (recordChecks c.site.work key.toNat r) = some i) :
    siteWriteTests (kind :: key :: 1#8 :: body) c = .error (.badRecord, u8 i) := by
  simp [siteWriteTests, hrun, h.code, h.valid, h.ratingsKnown, hr, hi]

/-- A record is carried that passes the checks of its kind. -/
theorem siteWriteTests_write {r : SiteRec} (hrun : c.start.phase = .running) (h : NamesRecord c kind key k)
    (hr : parseSiteRec k body = .ok r) (hi : firstFailed (recordChecks c.site.work key.toNat r) = none) :
    siteWriteTests (kind :: key :: 1#8 :: body) c =
      judgeTables c k key.toNat (writeRecord c.site.work key.toNat r) := by
  simp [siteWriteTests, hrun, h.code, h.valid, h.ratingsKnown, hr, hi, judgeTables] <;> rfl

/-- The mark ABSENT stands, with nothing behind it. -/
theorem siteWriteTests_erase (hrun : c.start.phase = .running) (h : NamesRecord c kind key k) (hk : k ≠ .site ∧ k ≠ .ratings) :
    siteWriteTests [kind, key, 0#8] c = judgeTables c k key.toNat (eraseRecord c.site.work k key.toNat) := by
  simp [siteWriteTests, hrun, h.code, h.valid, hk, judgeTables] <;> rfl

theorem judgeTables_inconsistent {i : Nat} (h : firstFailed (consistencyChecks t') = some i) :
    judgeTables c k n t' = .error (.badRecord, u8 i) := by
  simp [judgeTables, h]

theorem judgeTables_unchanged (h : firstFailed (consistencyChecks t') = none) (ht : t' = c.site.work) :
    judgeTables c k n t' = .ok (k, n, t') := by
  simp only [judgeTables, h, if_pos ht]

theorem judgeTables_inUse {r : Reason} (h : firstFailed (consistencyChecks t') = none) (ht : t' ≠ c.site.work)
    (hu : useRefusal c t' k n = some r) : judgeTables c k n t' = .error (r, []) := by
  simp only [judgeTables, h, if_neg ht, hu]

theorem judgeTables_passes (h : firstFailed (consistencyChecks t') = none) (ht : t' ≠ c.site.work)
    (hu : useRefusal c t' k n = none) : judgeTables c k n t' = .ok (k, n, t') := by
  simp only [judgeTables, h, if_neg ht, hu]

/-- A record carried is one of the kind it was carried for. -/
theorem kindOfRec_of_parse {p : List Byte} {r : SiteRec} (h : parseSiteRec k p = .ok r) : kindOfRec r = k := by
  unfold parseSiteRec at h
  repeat' split at h
  all_goals cases h <;> rfl

/-! ## What is answered -/

theorem siteWrite_refused {r : Reason} {d : List Byte} (hs : Still s.ctl) (ht : Takes s.ctl o.src o.tag o.payload)
    (h : siteWriteTests o.payload (reserve s.ctl) = .error (r, d)) :
    exec (.siteWrite o) s = .next { s with ctl := { s.ctl with link := answered o 39 3 r.code d s.ctl.link } } :=
  ownOrder_refused (v := 39) hs ht rfl (by simp only [siteWrite, h])

theorem siteWrite_badRecord {i : Nat} (hs : Still s.ctl) (ht : Takes s.ctl o.src o.tag o.payload)
    (h : siteWriteTests o.payload (reserve s.ctl) = .error (.badRecord, u8 i)) :
    exec (.siteWrite o) s =
      .next { s with ctl := { s.ctl with link := answered o 39 3 20 [BitVec.ofNat 8 i] s.ctl.link } } :=
  siteWrite_refused hs ht h

theorem siteWrite_unchanged (hs : Still s.ctl) (ht : Takes s.ctl o.src o.tag o.payload)
    (h : siteWriteTests o.payload (reserve s.ctl) = .ok (k, n, s.ctl.site.work)) :
    exec (.siteWrite o) s = .next { s with ctl := { s.ctl with link := answered o 39 1 0 [] s.ctl.link } } := by
  refine ownOrder_done (v := 39) hs ht rfl ?_
  simp only [siteWrite, h]
  exact if_pos rfl

/-- The tests behind those of the record, as they are answered: the first consistency check that fails, a write that changes
nothing, and a record in use. -/
theorem siteWrite_judged (hs : Still s.ctl) (ht : Takes s.ctl o.src o.tag o.payload)
    (h : siteWriteTests o.payload (reserve s.ctl) = judgeTables (reserve s.ctl) k n t') :
    (∀ i, firstFailed (consistencyChecks t') = some i → exec (.siteWrite o) s =
      .next { s with ctl := { s.ctl with link := answered o 39 3 20 [BitVec.ofNat 8 i] s.ctl.link } }) ∧
    (firstFailed (consistencyChecks t') = none →
      (t' = s.ctl.site.work → exec (.siteWrite o) s =
        .next { s with ctl := { s.ctl with link := answered o 39 1 0 [] s.ctl.link } }) ∧
      (∀ r, t' ≠ s.ctl.site.work → useRefusal s.ctl t' k n = some r → exec (.siteWrite o) s =
        .next { s with ctl := { s.ctl with link := answered o 39 3 r.code [] s.ctl.link } })) := by
  refine ⟨fun i hi => siteWrite_badRecord hs ht (h.trans (judgeTables_inconsistent hi)), fun hi => ⟨?_, fun r hne hu =>
    siteWrite_refused hs ht (h.trans (judgeTables_inUse (c := reserve s.ctl) hi hne hu))⟩⟩
  rintro rfl
  exact siteWrite_unchanged hs ht (h.trans (judgeTables_unchanged (c := reserve s.ctl) hi rfl))

/-! ## What a write that passes does -/

/-- The tables are replaced and marked unsaved (R15), and the answer states of stations known before and after are kept
(R32). -/
def tablesReplaced (t' : Tables) (c : Ctl) : Ctl :=
  answerStatesWritten c.site.work (c.onSite (fun x => { x with work := t', unsaved := true }))

/-- The controller that has answered a SITE_WRITE and replaced the tables. -/
def siteReplaced (o : OwnOrder) (t' : Tables) (c : Ctl) : Ctl :=
  tablesReplaced t' { c with link := answered o 39 1 0 [] c.link }

/-- A SITE_WRITE that passes its tests with a change, at a calm controller. -/
structure WritePasses (s : State) (o : OwnOrder) (k : RecordKind) (n : Nat) (t' : Tables) : Prop where
  takes : Takes s.ctl o.src o.tag o.payload
  judged : siteWriteTests o.payload (reserve s.ctl) = judgeTables (reserve s.ctl) k n t'
  calm : Calm s.ctl
  consistent : firstFailed (consistencyChecks t') = none
  changed : t' ≠ s.ctl.site.work
  unused : useRefusal s.ctl t' k n = none

/-- A write that passes is what `siteWritten` makes of the controller, which leaves at most the arbiter's round to be made,
and that finds nothing to do. -/
theorem WritePasses.steps {c' : Ctl} (h : WritePasses s o k n t')
    (hw : siteWritten k n t' { s.ctl with link := answered o 39 1 0 [] s.ctl.link } = c' ∨
      siteWritten k n t' { s.ctl with link := answered o 39 1 0 [] s.ctl.link } = carrierChanged c')
    (ha : c'.agenda = s.ctl.agenda) (hm : c'.matrix.queue = s.ctl.matrix.queue) (hcu : c'.cu = s.ctl.cu)
    (ho : c'.link.opsTx = s.ctl.link.opsTx ∧ c'.link.opsHeldOff = s.ctl.link.opsHeldOff) :
    exec (.siteWrite o) s = .next { s with ctl := c' } := by
  have hf : opsFrameEnds (ownOrder 39 o) s.ctl =
      siteWritten k n t' { s.ctl with link := answered o 39 1 0 [] s.ctl.link } := by
    rw [takes_ownOrder h.takes (f := siteWrite) rfl, siteWrite,
      h.judged.trans (judgeTables_passes (c := reserve s.ctl) h.consistent h.changed h.unused)]
    simp only [answerDone_reserve]
    exact if_neg h.changed
  have ha : c'.agenda = [] := ha.trans h.calm.settled
  have hcu : ∀ p ∈ c'.cu, p.2.busy = false := fun p hx => h.calm.noContext p (hcu ▸ hx)
  have hops : opsChoose c' = c' := opsChoose_taken (by rw [ho.1, ho.2]; exact h.calm.opsTaken)
  have hempty : { c' with agenda := [] } = c' := by rw [← ha]
  rcases hw with hw | hw
  · have step := act_inert (s := s) (hf.trans hw) (by simp [ha]) (inert_columns hcu) (by simp [ha]) (by rw [hempty, hops])
    rwa [hempty] at step
  · have hpush : carrierChanged c' = { c' with agenda := [.arbiter] } := by
      rw [carrierChanged, pushOnce_new (by simp [ha]), ha]; rfl
    have step := act_inert (s := s) (hf.trans (hw.trans hpush))
      (fun x hx => by rw [List.mem_singleton.mp hx]; exact inert_arbiter (hm.trans h.calm.moveEmpty))
      (inert_columns hcu) (by simp) (by rw [hempty, hops])
    rwa [hempty] at step

end Sys2Proof.Proofs
end
section
/-! What a SITE_WRITE that passes its tests leaves of the controller, kind by kind (R1, R7, R10, R32, R104). -/

namespace Sys2Proof.Proofs
open Sys2Proof.Machine Sys2Proof.Laws

variable {s : State} {o : OwnOrder} {c : Ctl} {k : RecordKind} {t' : Tables} {n : Nat}

/-! ## A QUERY of the controller's own -/

/-- A QUERY that the controller asks a station on behalf of an origin of its own. -/
def ownQuery (station : Nat) (origin : Origin) : PFrame :=
  { dest := station, verb := .query, cls := .internal, origin := origin }

theorem verdict_ownQuery_transmitter {station : Nat} {origin : Origin} {st : TxStatic} {d : TxDyn}
    (hown : ownOrigin origin = true) (hc : stationClass c.site.work station = some .transmitter)
    (hn : txOfStation c.site.work station = some n) (hs : txStatic c n = some st) (hd : txDyn c n = some d) :
    gateVerdict (ownQuery station origin) c = .pass .query none := by
  simp [gateVerdict, ownQuery, hc, hn, hs, hd, transmitterVerdict, fillsRecords, hown]

theorem verdict_ownQuery_drive {station : Nat} {origin : Origin} {st : AntStatic}
    (hown : ownOrigin origin = true) (hc : stationClass c.site.work station = some .drive)
    (hn : antOfDrive c.site.work station = some n) (hs : antStatic c n = some st) :
    gateVerdict (ownQuery station origin) c = .pass .query none := by
  simp [gateVerdict, ownQuery, hc, hn, hs, driveVerdict, fillsRecords, hown]

/-- The plant queue has a slot for a frame of the controller's own, and the plant port, occupied, leaves it there. -/
structure OwnRoom (k : Link) : Prop where
  room : k.plantQueue.length < 32
  urgent : k.urgentWaiters = []
  internal : k.internalWaiters = []
  taken : k.plantTx.isSome = true

/-- A QUERY of the controller's own that the gate passes joins the plant queue with the next part tag (R24, R57). -/
theorem offer_ownQuery {station : Nat} {origin : Origin} (hown : ownOrigin origin = true) (hr : OwnRoom c.link)
    (hv : gateVerdict (ownQuery station origin) c = .pass .query none) :
    offer (ownQuery station origin) c = { c with link := withOwn (ownQuery station origin) c.link } := by
  have hslot : slotForInternal c.link = true := by
    simp [slotForInternal, Config.plantQueueSize, hr.room, hr.urgent, hr.internal]
  have htag : tagFor (ownQuery station origin) c.link = nextTag c.link := by
    cases origin with
    | ops => cases hown
    | _ => rfl
  have hq : enqueue (ownQuery station origin) none c =
      portChoose { c with link := withOwn (ownQuery station origin) c.link } := by
    simp only [enqueue, htag, clampNotice]
    simp [onAdmission, ownQuery, Ctl.onLink, withOwn, hown]
  have htake : takeFrame (ownQuery station origin) c = enqueue (ownQuery station origin) none c := by
    simp only [takeFrame, hv]
    rfl
  have hoffer : offerNow (ownQuery station origin) c = takeFrame (ownQuery station origin) c := if_pos hslot
  rw [offer, fillSlots_empty hr.urgent hr.internal, hoffer, htake, hq]
  exact portChoose_taken hr.taken

/-- Nobody waits in the hold queue, and none of its holds ends. -/
theorem refuseHeld_empty {p : Held → Bool} {code : Nat} {d : List Byte} (h : c.gate.held = []) :
    refuseHeld p code d c = c := by
  have hg : c.onGate (fun g => { g with held := g.held.filter (fun x => !p x) }) = c := by
    simp only [Ctl.onGate, h, List.filter_nil]
    rw [← h]
  simp only [refuseHeld, h, List.filter_nil, forEach_nil]
  exact hg

/-! ## The dynamic records of a transmitter and of an antenna -/

theorem txWritten_sameStation {old : Option TxStatic} {x : TxStatic} (h : old.map (·.station) = some x.station) :
    txWritten n old (some x) c = c := by
  cases old <;> simp only [txWritten, if_pos h]

theorem txWritten_newStation {old : Option TxStatic} {x : TxStatic} (h : old.map (·.station) ≠ some x.station) :
    txWritten n old (some x) c =
      carrierChanged (queryTx n (c.onGate (fun g => { g with tx := tset n TxDyn.initial g.tx }))) := by
  cases old <;> simp only [txWritten, if_neg h]

theorem txWritten_removed {x : TxStatic} (h : c.gate.held = []) :
    txWritten n (some x) none c = carrierChanged (c.onGate (fun g => { g with tx := terase n g.tx })) :=
  congrArg carrierChanged (refuseHeld_empty h)

theorem antWritten_removed {old : Option AntStatic} : antWritten n old none c = c.onAerial (terase n) := by
  cases old <;> rfl

theorem antWritten_kept {x y : AntStatic} (hk : y.kind = x.kind) (hd : y.drive = x.drive) :
    antWritten n (some y) (some x) c = c.onAerial (tmod n (offsetsWritten x)) := by
  simp [antWritten, hk, hd]

theorem antWritten_afresh {old : Option AntStatic} {x : AntStatic}
    (h : ∀ y, old = some y → y.kind ≠ x.kind ∨ y.drive ≠ x.drive) :
    antWritten n old (some x) c = queryDrive n (c.onAerial (tset n (AntDyn.initial x.kind))) := by
  cases old with
  | none => rfl
  | some y => exact if_pos (h y rfl)

/-! ## The controller after the write -/

theorem WritePasses.ownRoom (h : WritePasses s o k n t') (hq : s.ctl.link.plantQueue.length < 32) :
    OwnRoom (siteReplaced o t' s.ctl).link :=
  ⟨hq, h.calm.urgentEmpty, h.calm.internalEmpty, h.calm.portTaken⟩

/-- A write after which no dynamic record, and no crosspoint, is other than before. -/
theorem WritePasses.replaces (h : WritePasses s o k n t')
    (hw : siteWritten k n t' { s.ctl with link := answered o 39 1 0 [] s.ctl.link } = siteReplaced o t' s.ctl) :
    exec (.siteWrite o) s = .next { s with ctl := siteReplaced o t' s.ctl } :=
  h.steps (.inl hw) rfl rfl rfl ⟨rfl, rfl⟩

theorem WritePasses.transmitter_sameStation {x : TxStatic} (h : WritePasses s o .transmitter n t')
    (hx : tget n t'.tx = some x) (hst : (tget n s.ctl.site.work.tx).map (·.station) = some x.station) :
    exec (.siteWrite o) s = .next { s with ctl := siteReplaced o t' s.ctl } :=
  h.replaces ((congrArg (fun y => txWritten n _ y _) hx).trans (txWritten_sameStation hst))

theorem WritePasses.transmitter_newStation {x : TxStatic} (h : WritePasses s o .transmitter n t')
    (hx : tget n t'.tx = some x) (hst : (tget n s.ctl.site.work.tx).map (·.station) ≠ some x.station)
    (hc : stationClass t' x.station = some .transmitter) (hn : txOfStation t' x.station = some n)
    (hq : s.ctl.link.plantQueue.length < 32) :
    exec (.siteWrite o) s = .next { s with ctl := { siteReplaced o t' s.ctl with
      gate := { s.ctl.gate with tx := tset n TxDyn.initial s.ctl.gate.tx }
      link := withOwn (ownQuery x.station (.gate .query)) (siteReplaced o t' s.ctl).link } } := by
  have hask : queryTx n ((siteReplaced o t' s.ctl).onGate (fun g => { g with tx := tset n TxDyn.initial g.tx })) =
      offer (ownQuery x.station (.gate .query))
        ((siteReplaced o t' s.ctl).onGate (fun g => { g with tx := tset n TxDyn.initial g.tx })) := by
    have hs : txStatic ((siteReplaced o t' s.ctl).onGate (fun g => { g with tx := tset n TxDyn.initial g.tx })) n =
      some x := hx
    simp only [queryTx, hs, ownQuery]
  have hv := verdict_ownQuery_transmitter (origin := .gate .query)
    (c := (siteReplaced o t' s.ctl).onGate (fun g => { g with tx := tset n TxDyn.initial g.tx }))
    rfl hc hn hx (tget_tset_same n TxDyn.initial s.ctl.gate.tx)
  refine h.steps (.inr ((congrArg (fun y => txWritten n _ y _) hx).trans ((txWritten_newStation hst).trans ?_)))
    rfl rfl rfl ⟨rfl, rfl⟩
  exact congrArg carrierChanged (hask.trans (offer_ownQuery rfl (h.ownRoom hq) hv))

theorem WritePasses.transmitter_removed {x : TxStatic} (h : WritePasses s o .transmitter n t')
    (hold : tget n s.ctl.site.work.tx = some x) (hnew : tget n t'.tx = none) :
    exec (.siteWrite o) s = .next { s with ctl := { siteReplaced o t' s.ctl with
      gate := { s.ctl.gate with tx := terase n s.ctl.gate.tx } } } := by
  refine h.steps (.inr ?_) rfl rfl rfl ⟨rfl, rfl⟩
  have hw : siteWritten .transmitter n t' { s.ctl with link := answered o 39 1 0 [] s.ctl.link } =
    txWritten n (tget n s.ctl.site.work.tx) (tget n t'.tx) (siteReplaced o t' s.ctl) := rfl
  rw [hw, hold, hnew]
  exact txWritten_removed (c := siteReplaced o t' s.ctl) h.calm.heldEmpty

theorem siteWritten_antenna : siteWritten .antenna n t' { s.ctl with link := answered o 39 1 0 [] s.ctl.link } =
    antWritten n (tget n s.ctl.site.work.ant) (tget n t'.ant) (siteReplaced o t' s.ctl) := rfl

theorem WritePasses.antenna_removed (h : WritePasses s o .antenna n t') (hnew : tget n t'.ant = none) :
    exec (.siteWrite o) s = .next { s with ctl := { siteReplaced o t' s.ctl with
      aerial := terase n s.ctl.aerial } } := by
  refine h.steps (.inl ?_) rfl rfl rfl ⟨rfl, rfl⟩
  rw [siteWritten_antenna, hnew]
  exact antWritten_removed

theorem WritePasses.antenna_kept {x y : AntStatic} (h : WritePasses s o .antenna n t') (hnew : tget n t'.ant = some x)
    (hold : tget n s.ctl.site.work.ant = some y) (hk : y.kind = x.kind) (hd : y.drive = x.drive) :
    exec (.siteWrite o) s = .next { s with ctl := { siteReplaced o t' s.ctl with
      aerial := tmod n (offsetsWritten x) s.ctl.aerial } } := by
  refine h.steps (.inl ?_) rfl rfl rfl ⟨rfl, rfl⟩
  rw [siteWritten_antenna, hnew, hold]
  exact antWritten_kept hk hd

theorem WritePasses.antenna_afresh {x : AntStatic} {k' : Link} (h : WritePasses s o .antenna n t')
    (hnew : tget n t'.ant = some x)
    (hold : ∀ y, tget n s.ctl.site.work.ant = some y → y.kind ≠ x.kind ∨ y.drive ≠ x.drive)
    (hask : queryDrive n ((siteReplaced o t' s.ctl).onAerial (tset n (AntDyn.initial x.kind))) =
      { siteReplaced o t' s.ctl with aerial := tset n (AntDyn.initial x.kind) s.ctl.aerial, link := k' })
    (hk : k'.opsTx = s.ctl.link.opsTx ∧ k'.opsHeldOff = s.ctl.link.opsHeldOff) :
    exec (.siteWrite o) s = .next { s with ctl := { siteReplaced o t' s.ctl with
      aerial := tset n (AntDyn.initial x.kind) s.ctl.aerial, link := k' } } := by
  refine h.steps (.inl ?_) rfl rfl rfl hk
  rw [siteWritten_antenna, hnew, antWritten_afresh hold, hask]

/-- An antenna without a drive is asked nothing. -/
theorem queryDrive_noDrive {x : AntStatic} (hx : antStatic c n = some x) (hd : x.drive = none) :
    queryDrive n c = c := by
  simp [queryDrive, hx, hd]

/-- An antenna's drive is asked by a QUERY of the Antenna Unit. -/
theorem queryDrive_asks {x : AntStatic} {station : Nat} (hx : antStatic c n = some x) (hd : x.drive = some station)
    (hc : stationClass c.site.work station = some .drive) (hn : antOfDrive c.site.work station = some n)
    (hr : OwnRoom c.link) : queryDrive n c = { c with link := withOwn (ownQuery station .au) c.link } := by
  have hq : queryDrive n c = offer (ownQuery station .au) c := by
    simp [queryDrive, hx, hd, ownQuery]
  exact hq.trans (offer_ownQuery rfl hr (verdict_ownQuery_drive rfl hc hn hx))

/-- A write of the SITE record keeps the crosspoints within the geometry, and with another matrix station none (R10). -/
theorem WritePasses.site_written (h : WritePasses s o .site n t') :
    exec (.siteWrite o) s = .next { s with ctl := { siteReplaced o t' s.ctl with
      matrix := { s.ctl.matrix with
        xps := if matrixStation s.ctl.site.work = matrixStation t' then
            s.ctl.matrix.xps.filter (fun p => inGeometry t' (xpRow p.1) (xpCol p.1))
          else [] } } } := by
  refine h.steps ?_ rfl rfl rfl ⟨rfl, rfl⟩
  by_cases hg : s.ctl.site.work.site.geometry = t'.site.geometry
  · exact .inl (if_pos hg)
  · exact .inr (if_neg hg)

/-- RATINGS of an antenna whose column no path holds are no matter for a transmitter (R7). -/
theorem WritePasses.ratings_written (h : WritePasses s o .ratings n t') (hp : columnPaths s.ctl n = []) :
    exec (.siteWrite o) s = .next { s with ctl := siteReplaced o t' s.ctl } := by
  have hw : siteWritten .ratings n t' { s.ctl with link := answered o 39 1 0 [] s.ctl.link } =
    ratingsWritten n (siteReplaced o t' s.ctl) := rfl
  have hc : columnPaths (siteReplaced o t' s.ctl) n = [] := hp
  refine h.replaces ?_
  simp only [hw, ratingsWritten, hc, List.map_nil, List.filter_nil, forEach_nil, push, List.append_nil]

end Sys2Proof.Proofs
end
section
/-! SITE_WRITE as its rules state it, for a record of each kind and for the mark ABSENT. -/

namespace Sys2Proof.Proofs
open Sys2Proof.Machine Sys2Proof.Laws

/-- Settles O34: the form and the record checks decide first; behind them every write is judged by the tables it asks for, and
one that passes is what its kind makes of the controller. -/
theorem siteWriteReplacesARecord : Obligations.SiteWriteReplacesARecord := by
  intro o s kind key mark body hs ht hrun hb t n refused check becomes written asks tests passes
  refine ⟨fun h => siteWrite_badRecord hs ht (by rw [hb]; exact siteWriteTests_invalid (c := reserve s.ctl) hrun h),
    fun k hk hv ha => ?_⟩
  have names : NamesRecord (reserve s.ctl) kind key k := ⟨hk, hv, ha⟩
  refine ⟨fun r hm hr => ⟨fun i hi => ?failed, fun hi => ?written⟩, fun hm hbody => ?removed⟩
  case failed =>
    exact siteWrite_badRecord hs ht (by
      rw [hb, hm]; exact siteWriteTests_badRecord (c := reserve s.ctl) hrun names hr hi)
  case written =>
    obtain rfl := kindOfRec_of_parse hr
    have judged : siteWriteTests o.payload (reserve s.ctl) =
        judgeTables (reserve s.ctl) (kindOfRec r) n (writeRecord t n r) := by
      rw [hb, hm]; exact siteWriteTests_write (c := reserve s.ctl) hrun names hr hi
    have tested : tests (kindOfRec r) (writeRecord t n r) := siteWrite_judged hs ht judged
    have passed : passes (kindOfRec r) (writeRecord t n r) → WritePasses s o (kindOfRec r) n (writeRecord t n r) :=
      fun ⟨calm, consistent, changed, unused⟩ => ⟨ht, judged, calm, consistent, changed, unused⟩
    refine ⟨?transmitter, ?antenna, ?ratings, ?band, ?site, ?auxiliary⟩
    case transmitter =>
      rintro x rfl
      have hx : tget n (writeRecord t n (.transmitter x)).tx = some x := tget_tset_same n x t.tx
      exact ⟨tested, fun hp hst => (passed hp).transmitter_sameStation hx hst,
        fun hp hst hc hn hq => (passed hp).transmitter_newStation hx hst hc hn hq⟩
    case antenna =>
      rintro x rfl
      have hx : tget n (writeRecord t n (.antenna x)).ant = some x := tget_tset_same n x t.ant
      exact ⟨tested, fun y hp hold hk hd => (passed hp).antenna_kept hx hold hk hd, fun hp hold =>
        ⟨fun hd => (passed hp).antenna_afresh hx hold (queryDrive_noDrive hx hd) ⟨rfl, rfl⟩,
          fun st hd hc hn hq => (passed hp).antenna_afresh hx hold
            (queryDrive_asks hx hd hc hn ((passed hp).ownRoom hq)) ⟨rfl, rfl⟩⟩⟩
    case ratings =>
      rintro l rfl
      exact ⟨tested, fun hp hc => (passed hp).ratings_written hc⟩
    case band =>
      rintro x rfl
      exact ⟨tested, fun hp => (passed hp).replaces rfl⟩
    case site =>
      rintro x rfl
      exact ⟨tested, fun hp => (passed hp).site_written⟩
    case auxiliary =>
      rintro rfl
      exact ⟨tested, fun hp => (passed hp).replaces rfl⟩
  case removed =>
    have judged (hne : k ≠ .site ∧ k ≠ .ratings) : siteWriteTests o.payload (reserve s.ctl) =
        judgeTables (reserve s.ctl) k n (eraseRecord t k n) := by
      rw [hb, hm, hbody]; exact siteWriteTests_erase (c := reserve s.ctl) hrun names hne
    have tested (hne : k ≠ .site ∧ k ≠ .ratings) : tests k (eraseRecord t k n) := siteWrite_judged hs ht (judged hne)
    have passed (hne : k ≠ .site ∧ k ≠ .ratings) : passes k (eraseRecord t k n) →
        WritePasses s o k n (eraseRecord t k n) :=
      fun ⟨calm, consistent, changed, unused⟩ => ⟨ht, judged hne, calm, consistent, changed, unused⟩
    refine ⟨?transmitter, ?antenna, ?band, ?auxiliary⟩
    case transmitter =>
      rintro rfl
      refine ⟨tested ⟨nofun, nofun⟩, fun hp hsome => ?_⟩
      obtain ⟨x, hx⟩ := Option.isSome_iff_exists.mp hsome
      exact (passed ⟨nofun, nofun⟩ hp).transmitter_removed hx (tget_terase_same n t.tx)
    case antenna =>
      rintro rfl
      exact ⟨tested ⟨nofun, nofun⟩, fun hp => (passed ⟨nofun, nofun⟩ hp).antenna_removed (tget_terase_same n t.ant)⟩
    case band =>
      rintro rfl
      exact ⟨tested ⟨nofun, nofun⟩, fun hp => (passed ⟨nofun, nofun⟩ hp).replaces rfl⟩
    case auxiliary =>
      rintro rfl
      exact ⟨tested ⟨nofun, nofun⟩, fun hp => (passed ⟨nofun, nofun⟩ hp).replaces rfl⟩

end Sys2Proof.Proofs
end
section
/-! The store orders that pass their tests: answered ACCEPTED, their requests last in the store queue (R122, R127). -/

namespace Sys2Proof.Proofs
open Sys2Proof.Machine Sys2Proof.Laws

variable {s : State} {o : OwnOrder} {c : Ctl} {v : Nat} {bk : Bank} {r : StoreReq} {p : Pending}

/-! ## A request that joins the queue -/

theorem acceptRequest_reserve : acceptRequest o v r (reserve c) =
    pushOnce .engine { c with link := answered o v 2 0 [] c.link, store := withRequest r c.store } := by
  rw [acceptRequest, reserve_answerAccepted]
  rfl

/-- A change that becomes pending touches nothing but its bank. -/
theorem setChange_pushOnce (x : Signal) (c : Ctl) :
    setChange bk p (pushOnce x c) =
      pushOnce x { c with store := withBank bk (fun b => { b with change := p }) c.store } := by
  unfold pushOnce
  cases bk <;> split <;> rfl

@[simp] theorem withBank_op (f : BankRec → BankRec) (s : Store) : (withBank bk f s).op = s.op := by cases bk <;> rfl

@[simp] theorem withRequest_op (s : Store) : (withRequest r s).op = s.op := rfl

/-- An order whose owner queues a request while the engine is at work: the engine's look at the queue finds it so. -/
theorem ownOrder_queued {f : OwnOrder → Ctl → Ctl} {st : Store} (hs : Still s.ctl)
    (ht : Takes s.ctl o.src o.tag o.payload) (hv : ownerOf v = some f) (hop : st.op.isSome = true)
    (hf : f o (reserve s.ctl) =
      pushOnce .engine { s.ctl with link := answered o v 2 0 [] s.ctl.link, store := st }) :
    act (opsFrameEnds (ownOrder v o)) s =
      .next { s with ctl := { s.ctl with link := answered o v 2 0 [] s.ctl.link, store := st } } := by
  have hpush : opsFrameEnds (ownOrder v o) s.ctl = { s.ctl with
      agenda := [.engine], link := answered o v 2 0 [] s.ctl.link, store := st } := by
    rw [takes_ownOrder ht hv, hf, pushOnce_new (by simp [hs.settled])]
    simp [hs.settled]
  have hfinish := finish_inert
    (c := { s.ctl with agenda := [.engine], link := answered o v 2 0 [] s.ctl.link, store := st })
    (fun x hx => by rw [List.mem_singleton.mp hx]; exact inert_engine hop) (by simp) hs.opsTaken
  rw [act_unnoted (by rw [hpush]) (by rw [hpush]), hpush, hfinish, ← hs.settled]

/-! ## A bank that closes with no burst open -/

theorem abandonOn_noBurst {why : Reason} (h : c.load.state = .none) : abandonOn bk why c = c := by
  simp [abandonOn, Load.openOn, Load.isOpen, h]

theorem closeBank_noBurst (hb : c.store.openBank = some bk) (h : c.load.state = .none) :
    closeBank c = c.onStore (fun s => { s with openBank := none }) := by
  simp only [closeBank, hb]
  exact abandonOn_noBurst h

/-! ## Orders that pass their tests -/

theorem siteSave_accepted (hrun : c.start.phase = .running) (hq : c.store.queue.length < 8) :
    siteSave o c = acceptRequest o 41 (.siteSave (orderRef o)) c := by
  simp [siteSave, hrun, storeRoom, Config.storeQueueSize, hq]

theorem bankCreate_accepted {b n1 n2 d1 d2 s1 s2 s3 : Byte} (hrun : c.start.phase = .running)
    (hb : o.payload = [b, n1, n2, d1, d2, s1, s2, s3]) (hbk : bankOfCode b.toNat = some bk)
    (ht : createTests c bk (rd2 n1 n2) (rd3 s1 s2 s3) = none) :
    bankCreate o c = setChange bk .create (acceptRequest o 44
      (.header bk (.create (rd2 n1 n2) (siteTime (rd2 d1 d2) (rd3 s1 s2 s3))) (some (orderRef o))) c) := by
  simp [bankCreate, hrun, orderBank, hb, hbk, ht]

theorem writeTests_passed {accepts : Bool} (ho : c.store.openBank = some bk) (ha : accepts = true)
    (hf : (bankRec c bk).fault = false) : writeTests c bk accepts = none := by
  simp [writeTests, ho, ha, hf]

theorem bankSeal_accepted {b : Byte} (hrun : c.start.phase = .running) (hb : o.payload = [b])
    (hbk : bankOfCode b.toNat = some bk)
    (hw : writeTests c bk (decide ((bankRec c bk).header.state = .filling)) = none) (ht : sealTests c bk = none) :
    bankSeal o c = setChange bk .seal (acceptRequest o 45 (.header bk .seal (some (orderRef o))) (closeBank c)) := by
  simp [bankSeal, hrun, orderBank, hb, hbk, hw, ht]

theorem bankClear_accepted {b : Byte} (hrun : c.start.phase = .running) (hb : o.payload = [b])
    (hbk : bankOfCode b.toNat = some bk) (ht : clearTests c bk = none) :
    bankClear o c = setChange bk .clear (acceptRequest o 46 (.clear bk (orderRef o))
      (abandonOn bk .notOpen (if c.store.openBank = some bk then closeBank c else c))) := by
  simp [bankClear, hrun, orderBank, hb, hbk, ht]

/-- A bank that is to be cleared is closed if it is open. -/
theorem closeIfOpen_noBurst (h : c.load.state = .none) :
    abandonOn bk .notOpen (if c.store.openBank = some bk then closeBank c else c) = c.onStore (fun s => { s with
      openBank := if s.openBank = some bk then none else s.openBank }) := by
  by_cases ho : c.store.openBank = some bk
  · rw [if_pos ho, closeBank_noBurst ho h]
    refine (abandonOn_noBurst (c := c.onStore _) h).trans ?_
    simp only [Ctl.onStore, ho, if_true]
  · rw [if_neg ho, abandonOn_noBurst h]
    simp only [Ctl.onStore, if_neg ho]

theorem entryAppend_accepted {b : Byte} {rest : List Byte} {e : EntryRec} (hrun : c.start.phase = .running)
    (hb : o.payload = b :: rest) (hbk : bankOfCode b.toNat = some bk) (he : parseEntry rest = some e)
    (hw : writeTests c bk (acceptsWrites c bk) = none) (ht : appendTests c bk e = none) :
    entryAppend o c = acceptRequest o 47 (.append bk e (orderRef o)) c := by
  simp [entryAppend, hrun, orderBank, hb, hbk, he, hw, ht]

theorem entryVoid_accepted {b i1 i2 : Byte} (hrun : c.start.phase = .running) (hb : o.payload = [b, i1, i2])
    (hbk : bankOfCode b.toNat = some bk) (hw : writeTests c bk (acceptsWrites c bk) = none)
    (ht : voidTests c bk (rd2 i1 i2) = none) :
    entryVoid o c = acceptRequest o 48 (.void bk (rd2 i1 i2) (orderRef o)) c := by
  simp [entryVoid, hrun, orderBank, hb, hbk, hw, ht]

/-- Settles O26: the place that an order has reserved is no matter to its tests, and its request, once queued, waits for the
engine. -/
theorem storeOrdersAreQueued : Obligations.StoreOrdersAreQueued := by
  intro o s hs ht hrun hop hload ref
  have hrun : (reserve s.ctl).start.phase = .running := hrun
  have hload : (reserve s.ctl).load.state = .none := hload
  refine ⟨fun hq => ?siteSave, fun b n1 n2 d1 d2 s1 s2 s3 bk hb hbk htests => ?bankCreate,
    fun b bk hb hbk hopen hstate hfault htests => ?bankSeal, fun b bk hb hbk htests => ?bankClear,
    fun b rest bk e hb hbk he hw htests => ?entryAppend, fun b i1 i2 bk hb hbk hw htests => ?entryVoid⟩
  case siteSave =>
    exact ownOrder_queued (v := 41) hs ht rfl hop ((siteSave_accepted hrun hq).trans acceptRequest_reserve)
  case bankCreate =>
    refine ownOrder_queued (v := 44) hs ht rfl (by simpa using hop) ?_
    rw [bankCreate_accepted hrun hb hbk htests, acceptRequest_reserve, setChange_pushOnce]
    rfl
  case bankSeal =>
    refine ownOrder_queued (v := 45) hs ht rfl (by simpa using hop) ?_
    have hw := writeTests_passed (c := reserve s.ctl) hopen (decide_eq_true hstate) hfault
    have hclose : closeBank (reserve s.ctl) = reserve (s.ctl.onStore (fun s => { s with openBank := none })) :=
      closeBank_noBurst hopen hload
    rw [bankSeal_accepted hrun hb hbk hw htests, hclose, acceptRequest_reserve, setChange_pushOnce]
    rfl
  case bankClear =>
    refine ownOrder_queued (v := 46) hs ht rfl (by simpa using hop) ?_
    have hclose : abandonOn bk .notOpen
        (if (reserve s.ctl).store.openBank = some bk then closeBank (reserve s.ctl) else reserve s.ctl) =
        reserve (s.ctl.onStore (fun s => { s with
          openBank := if s.openBank = some bk then none else s.openBank })) := closeIfOpen_noBurst hload
    rw [bankClear_accepted hrun hb hbk htests, hclose, acceptRequest_reserve, setChange_pushOnce]
    rfl
  case entryAppend =>
    exact ownOrder_queued (v := 47) hs ht rfl hop
      ((entryAppend_accepted hrun hb hbk he hw htests).trans acceptRequest_reserve)
  case entryVoid =>
    exact ownOrder_queued (v := 48) hs ht rfl hop
      ((entryVoid_accepted hrun hb hbk hw htests).trans acceptRequest_reserve)

end Sys2Proof.Proofs
end

section
/-! What every step keeps: soundness, and a clock that does not go back. The commands that take no frame of the operations
side each have their own lemma; all that do are one case. -/

namespace Sys2Proof.Proofs
open Sys2Proof.Machine Sys2Proof.Laws

/-- A command keeps what its own effect keeps: noting the columns, settling and choosing keep it too. -/
theorem act_keeps {f : Ctl → Ctl} {s t : State} (hf : Keeps 0 s.ctl (f s.ctl)) (h : act f s = .next t) :
    Keeps 0 s.ctl t.ctl := by
  obtain rfl := Host.Outcome.next.inj h
  exact finish_keeps (noteColumns_keeps hf)

/-- An order is a frame that ends at the operations port. -/
theorem opsFrame_keeps {f : Frame} {s t : State} (h : act (opsFrameEnds f) s = .next t) : Keeps 0 s.ctl t.ctl :=
  act_keeps (opsFrameEnds_keeps (.refl _)) h

/-- A STATUS or an ANSWER is a frame that ends at the plant port. -/
theorem plantFrame_keeps {f : Frame} {s t : State} (h : act (plantFrameEnds f) s = .next t) : Keeps 0 s.ctl t.ctl :=
  act_keeps (plantFrameEnds_keeps (.refl _)) h

theorem exec_keeps {i : Instr} {s t : State} (h : exec i s = .next t) : Keeps 0 s.ctl t.ctl := by
  have r : Keeps 0 s.ctl s.ctl := .refl _
  cases i with
  | opsUnknownDestination | opsBadVerb | opsTune | opsPower | opsCarrierOn | opsCarrierOff | opsFeed
  | opsQueryTransmitter | opsSlew | opsSteer | opsStop | opsQueryDrive | opsMatrixFrame | opsAuxiliaryFrame
  | pathSet | pathFree | xpClear | holdLevel | hallStop | hallResume | timeSet | siteWrite | siteRead | siteSave
  | storeOpen | storeClose | bankCreate | bankSeal | bankClear | entryAppend | entryVoid | pageErase | storeStatus
  | storeFaultClear | entryRead | planRead | contextRead | partStatus | restart
  | loadOpen | loadData | loadClose | loadBadSubverb => exact opsFrame_keeps h
  | transmitterStatus | driveStatus | matrixStatus | auxiliaryStatus
  | transmitterAnswer | driveAnswer | matrixAnswer | auxiliaryAnswer => exact plantFrame_keeps h
  | opsFrameDiscard => exact act_keeps (opsOctets_keeps r) h
  | plantFrameDiscard => exact act_keeps (plantOctets_keeps r) h
  | opsHoldOff => exact act_keeps (onLink_same r) h
  | opsReady => exact act_keeps (onLink_same r) h
  | opsFrameSent => exact act_keeps (opsSent_keeps r) h
  | plantFrameSent => exact act_keeps (plantSent_keeps r) h
  | answerTimeout => exact act_keeps (answerTimeout_keeps r) h
  | holdExpiry => exact act_keeps (holdExpiry_keeps r) h
  | loadIdleTimeout => exact act_keeps (idleExpired_keeps r) h
  | movementLimitExpiry => exact act_keeps (limitExpired_keeps r) h
  | pathSettleEnd => exact act_keeps (settleEnded_keeps r) h
  | operationsPathLimit => exact act_keeps (pathLimitExpired_keeps r) h
  | panelInputEdge => exact act_keeps (inputEdge_keeps r) h
  | localKeyChange => exact act_keeps (localKeyChange_keeps r) h
  | lockoutOn => exact act_keeps (lockoutOn_keeps r) h
  | lockoutOff => exact act_keeps (lockoutOff_keeps r) h
  | maintenanceKeyChange => exact act_keeps (maintenanceChange_keeps r) h
  | hallStopPushOn => exact act_keeps (pushOn_keeps r) h
  | hallStopPushOff => exact act_keeps (pushOff_keeps r) h
  | eraseWindowExpiry => exact act_keeps (windowExpired_keeps r) h
  | slotWriteDone => exact act_keeps (slotWriteDone_keeps r) h
  | voidDone => exact act_keeps (voidDone_keeps r) h
  | pageErasePageDone => exact act_keeps (pageErasePageDone_keeps r) h
  | headerWriteDone => exact act_keeps (headerWriteDone_keeps r) h
  | siteSaveDone => exact act_keeps (siteSaveDone_keeps r) h
  | storeLimitExpiry => exact act_keeps (storeLimit_keeps r) h
  | siteSaveLimitExpiry => exact act_keeps (siteSaveLimit_keeps r) h
  | siteSecond => exact act_keeps (siteSecond_keeps r) h
  | minuteBoundaryRefill => exact act_keeps (minuteBoundary_keeps r) h
  | eventDue => exact act_keeps (eventDue_keeps r) h
  | occurrenceEndPassed => exact act_keeps (occurrenceEndPassed_keeps r) h
  | returnEndReached => exact act_keeps (returnEndReached_keeps r) h
  | seasonActivation => exact act_keeps (activation_keeps r) h
  | muteDeadline | releaseDeadline | proveDeadline | raiseDeadline => exact act_keeps (phaseDeadline_keeps r) h
  | substepDeadline => exact act_keeps (subDeadline_keeps r) h
  | contextMissed => exact act_keeps (contextMissed_keeps r) h
  | powerUp => exact act_keeps (powerUp_keeps r) h
  | storeCheckEnd => exact act_keeps (storeCheckEnd_keeps r) h
  | surveyTimeout => exact act_keeps (surveyTimeout_keeps r) h

/-- A millisecond that passes on an empty queue changes nothing but the clock. -/
theorem idle_keeps (s : State) : Keeps 0 s.ctl (idle s).ctl := (Keeps.refl s.ctl).same (h12 := Nat.le_succ _)

theorem step_keeps {s t : State} (h : step s = .next t) : Keeps 0 s.ctl t.ctl := by
  unfold step at h
  split at h
  case h_1 => obtain rfl := Host.Outcome.next.inj h; exact idle_keeps s
  case h_2 i rest _ => exact exec_keeps (s := { s with pending := rest }) h

/-- Settles O5, by what every step keeps. -/
theorem stepKeepsSound : Obligations.StepKeepsSound := fun _ _ hs h => (step_keeps h).sound hs

/-- Settles O6, by what every step keeps. -/
theorem clockNeverGoesBack : Obligations.ClockNeverGoesBack := fun _ _ h => (step_keeps h).clock

end Sys2Proof.Proofs
end

section
/-! Frames on the link: the octets of a frame spell it (R40, R41), the form of a report frame (R23, R36), and the octets and
frames that a port discards (R18, R19). -/

namespace Sys2Proof.Proofs
open Sys2Proof.Machine Sys2Proof.Laws

/-! ## Frames as octets -/

theorem frameKindOf_kindCode (k : FrameKind) : frameKindOf (BitVec.ofNat 8 (kindCode k)).toNat = some k := by
  cases k <;> rfl

theorem toNat_octet {n : Nat} (h : isOctet n = true) : (BitVec.ofNat 8 n).toNat = n :=
  Nat.mod_eq_of_lt (of_decide_eq_true h)

/-- Settles O8: the length octet cuts the payload from the check, which is that of the octets before it. -/
theorem frameSurvivesTheLink : Obligations.FrameSurvivesTheLink := by
  intro f hf
  simp only [Frame.fits, Bool.and_eq_true] at hf
  obtain ⟨⟨⟨⟨hdest, hsrc⟩, htag⟩, hverb⟩, hpay⟩ := hf
  have hlen : f.payload.length ≤ 48 := of_decide_eq_true hpay
  have hl : (BitVec.ofNat 8 f.payload.length).toNat = f.payload.length := Nat.mod_eq_of_lt (by omega)
  have hspell : frameOctets f = BitVec.ofNat 8 f.dest :: BitVec.ofNat 8 f.src :: BitVec.ofNat 8 (kindCode f.kind) ::
      BitVec.ofNat 8 f.tag :: BitVec.ofNat 8 f.verb :: BitVec.ofNat 8 f.payload.length ::
        (f.payload ++ be2 (crc16 (frameBody f)).toNat) := rfl
  have hbody : BitVec.ofNat 8 f.dest :: BitVec.ofNat 8 f.src :: BitVec.ofNat 8 (kindCode f.kind) ::
      BitVec.ofNat 8 f.tag :: BitVec.ofNat 8 f.verb :: BitVec.ofNat 8 f.payload.length :: f.payload = frameBody f := rfl
  have hrest : (f.payload ++ be2 (crc16 (frameBody f)).toNat).length = f.payload.length + 2 := by simp [be2]
  simp only [hspell, parseFrame, hl, Config.maxPayload, hlen, hrest, true_and, if_true, frameKindOf_kindCode,
    List.drop_left, List.take_left, hbody, toNat_octet hdest, toNat_octet hsrc, toNat_octet htag, toNat_octet hverb]

/-! ## The report frame -/

theorem length_timeOctets (t : Option SiteTime) : (timeOctets t).length = 5 := by cases t <;> rfl

theorem length_reportOctets (r : Report) : (reportOctets r).length = 20 := by
  cases hfig : r.figure <;>
    simp only [reportOctets, hfig, u8, be2, be4, beSigned4, List.length_append, length_timeOctets, List.length_cons,
      List.length_nil]

/-- Settles O10. -/
theorem reportFrameForm : Obligations.ReportFrameForm := fun r => ⟨length_reportOctets r, rfl⟩

/-! ## What the ports discard -/

theorem opsOctets_garbage {raw : List Byte} (h : parseFrame raw = none) (c : Ctl) : opsOctets raw c = c := by
  simp [opsOctets, h]

theorem plantOctets_garbage {raw : List Byte} (h : parseFrame raw = none) (c : Ctl) : plantOctets raw c = c := by
  simp [plantOctets, h]

/-- A frame with a foreign source, a part tag or a kind or destination the operations port does not take (R18). -/
theorem opsOctets_discards {raw : List Byte} {f : Frame} (hf : parseFrame raw = some f)
    (h : f.src < 121 ∨ 126 < f.src ∨ 128 ≤ f.tag ∨ f.kind = .answer ∨ f.kind = .status ∨ f.kind = .report ∨
      (f.kind = .load ∧ f.dest ≠ 120)) (c : Ctl) : opsOctets raw c = c := by
  have hd : opsDiscards f = true := by
    rcases h with h | h | h | h | h | h | ⟨h, hd⟩
    · simp [opsDiscards, isOpsAddress, Config.opsLow, Nat.not_le.mpr h]
    · simp [opsDiscards, isOpsAddress, Config.opsHigh, Nat.not_le.mpr h]
    all_goals simp [opsDiscards, Config.ownStation, *]
  simp [opsOctets, hf, opsFrameEnds, hd]

/-- A frame of another kind than ANSWER and STATUS, or from a station that the site tables do not know (R19). -/
theorem plantOctets_discards {raw : List Byte} {f : Frame} {c : Ctl} (hf : parseFrame raw = some f)
    (h : (f.kind ≠ .answer ∧ f.kind ≠ .status) ∨ stationClass c.site.work f.src = none) : plantOctets raw c = c := by
  simp only [plantOctets, hf, plantFrameEnds]
  split
  · rfl
  · next k hk =>
    have hkind : f.kind ≠ .answer ∧ f.kind ≠ .status := h.resolve_right (by simp [hk])
    cases hv : f.kind <;> simp_all

/-- A command that leaves a still controller as it is leaves the whole state as it is. -/
theorem act_unchanged {f : Ctl → Ctl} {s : State} (hs : Still s.ctl) (hf : f s.ctl = s.ctl) : act f s = .next s :=
  act_settled hf rfl rfl hs.settled hs.opsTaken

/-- Settles O11. -/
theorem discardedFramesChangeNothing : Obligations.DiscardedFramesChangeNothing := by
  intro raw s hs
  refine ⟨fun h => ⟨?_, ?_⟩, fun f hf => ⟨fun h => ?_, fun h => ?_⟩⟩
  · exact act_unchanged hs (opsOctets_garbage h _)
  · exact act_unchanged hs (plantOctets_garbage h _)
  · exact act_unchanged hs (opsOctets_discards hf h _)
  · exact act_unchanged hs (plantOctets_discards hf h)

/-! ## Right after reset -/

/-- Settles O3, block by block. -/
theorem resetHoldsThePowerUpValues : Obligations.ResetHoldsThePowerUpValues := by
  refine ⟨by decide, rfl, by decide, fun row col => ⟨rfl, rfl, rfl⟩, ?_, by decide, by decide, by decide,
    fun n => rfl, rfl, rfl⟩
  intro bk
  cases bk <;> exact ⟨rfl, rfl, rfl⟩

end Sys2Proof.Proofs
end

section
/-! Orders of the operations side at the Traffic Gate: those that reach no block or that the gate refuses are answered into
the place they reserved (R20, R21, R43, R56), and those that it passes as they are join the plant queue (R26, R44, R52, R53). -/

namespace Sys2Proof.Proofs
open Sys2Proof.Machine Sys2Proof.Laws

variable {s : State} {o : PlantOrder} {c : Ctl} {v : PlantVerb}

/-- A step that columns are not judged by, whose consequences find nothing to do. -/
theorem act_unnoted_inert {f : Ctl → Ctl} (hf : f s.ctl = c) (hp : c.matrix.paths = s.ctl.matrix.paths)
    (ht : c.gate.tx = s.ctl.gate.tx) (hi : ∀ x ∈ c.agenda, Inert x c) (hl : c.agenda.length ≤ 16384)
    (ho : (c.link.opsTx.isSome || c.link.opsHeldOff) = true) :
    act f s = .next { s with ctl := { c with agenda := [] } } := by
  subst hf
  rw [act_unnoted hp ht, finish_inert hi hl ho]

/-- A command that answers into the place its frame reserved, and does nothing else. -/
theorem act_answers {f : Ctl → Ctl} {a : Answer} (hs : Still s.ctl)
    (hf : f s.ctl = { s.ctl with link := withAnswer a s.ctl.link }) :
    act f s = .next { s with ctl := { s.ctl with link := withAnswer a s.ctl.link } } :=
  act_settled hf rfl rfl hs.settled hs.opsTaken

theorem no_slot_due (hs : Still c) : Signal.slot ∉ c.agenda := by simp [hs.settled]

/-! ## Frames that reach no block -/

theorem refuseOps_reserve (f : Frame) (r : Reason) (d : List Byte) (c : Ctl) :
    refuseOps f r d (reserve c) = { c with link := withAnswer (ownAnswer f.src f.tag f.verb 3 r.code d) c.link } :=
  reserve_answerRefused ..

/-- A frame whose destination is no station of the site tables (R20). -/
theorem takes_unknown {f : Frame} (h : Takes c f.src f.tag f.payload) (hk : f.kind = .order ∨ f.kind = .latch)
    (hd : f.dest = 0 ∨ f.dest = 127 ∨ f.dest ≤ 119) (hc : stationClass c.site.work f.dest = none) :
    opsFrameEnds f c = { c with link := withAnswer (ownAnswer f.src f.tag f.verb 3 16 []) c.link } := by
  have hown : f.dest ≠ 120 := by omega
  have hops : isOpsAddress f.dest = false := by
    have hout : ¬ 121 ≤ f.dest ∨ ¬ f.dest ≤ 126 := by omega
    rcases hout with hout | hout <;> simp [isOpsAddress, Config.opsLow, Config.opsHigh, hout]
  have hc' : stationClass (reserve c).site.work f.dest = none := hc
  rw [takes_frame h (by tauto)]
  simp only [routeOps, Config.ownStation, hown, hops, routePlant, hc', if_false, Bool.false_eq_true]
  exact refuseOps_reserve ..

/-- A frame to another operations address: its place is released (R20). -/
theorem takes_opsAddress {f : Frame} (h : Takes c f.src f.tag f.payload) (hk : f.kind = .order ∨ f.kind = .latch)
    (hd : 121 ≤ f.dest ∧ f.dest ≤ 126) (ha : c.agenda = []) : opsFrameEnds f c = { c with agenda := [.opsTake] } := by
  have hown : f.dest ≠ 120 := by omega
  have hops : isOpsAddress f.dest = true := by simp [isOpsAddress, Config.opsLow, Config.opsHigh, hd]
  rw [takes_frame h (by tauto)]
  simp only [routeOps, Config.ownStation, hown, hops, if_true, if_false, releasePlace]
  rw [pushOnce_new (by simp [reserve, ha])]
  simp [reserve, Ctl.onLink, ha]

/-- A frame to the controller that is a LATCH or has none of its verbs, and a frame to a transmitter or a drive that is a
LATCH or has a verb not of its class (R20). -/
def BadVerb (t : Tables) (f : Frame) : Prop :=
  f.dest = 120 ∧ (f.kind = .latch ∨ f.verb < 32 ∨ 56 < f.verb) ∨
  f.dest ≤ 119 ∧ stationClass t f.dest = some .transmitter ∧ (f.kind = .latch ∨ f.verb < 1 ∨ 6 < f.verb) ∨
  f.dest ≤ 119 ∧ stationClass t f.dest = some .drive ∧ (f.kind = .latch ∨ f.verb < 6 ∨ 9 < f.verb)

theorem ownerOf_none {v : Nat} (h : v < 32 ∨ 56 < v) : ownerOf v = none := by
  unfold ownerOf; split <;> grind

theorem routeOwn_bad {f : Frame} (hk : f.kind = .order ∨ f.kind = .latch) (h : f.kind = .latch ∨ f.verb < 32 ∨ 56 < f.verb) :
    routeOwn f c = refuseOps f .badRecord (u8 0) c := by
  rcases hk with hk | hk
  · have hv : ownerOf f.verb = none := ownerOf_none (h.resolve_left (by simp [hk]))
    simp only [routeOwn, hk, hv]
  · simp only [routeOwn, hk]

theorem takes_badVerb {f : Frame} (h : Takes c f.src f.tag f.payload) (hk : f.kind = .order ∨ f.kind = .latch)
    (hb : BadVerb c.site.work f) :
    opsFrameEnds f c = { c with link := withAnswer (ownAnswer f.src f.tag f.verb 3 20 [0#8]) c.link } := by
  rcases hb with ⟨hd, hv⟩ | ⟨hd, hc, hv⟩ | ⟨hd, hc, hv⟩
  · rw [takes_frame h (by tauto), routeOps, if_pos (show f.dest = Config.ownStation from hd), routeOwn_bad hk hv]
    exact refuseOps_reserve ..
  · have hc' : stationClass (reserve c).site.work f.dest = some .transmitter := hc
    have hno : ¬ (f.kind = .order ∧ verbOfClass .transmitter f.verb = true) := by
      rintro ⟨ho, hvc⟩
      simp [verbOfClass] at hvc
      rcases hv with hv | hv
      · simp [ho] at hv
      · omega
    rw [takes_plant h hk hd]
    simp only [routePlant, hc', hno, if_false]
    exact refuseOps_reserve ..
  · have hc' : stationClass (reserve c).site.work f.dest = some .drive := hc
    have hno : ¬ (f.kind = .order ∧ verbOfClass .drive f.verb = true) := by
      rintro ⟨ho, hvc⟩
      simp [verbOfClass] at hvc
      rcases hv with hv | hv
      · simp [ho] at hv
      · omega
    rw [takes_plant h hk hd]
    simp only [routePlant, hc', hno, if_false]
    exact refuseOps_reserve ..

/-! ## At the gate -/

/-- The order that a frame to a plant station gives. -/
def orderIn (f : Frame) : PlantOrder := { dest := f.dest, src := f.src, tag := f.tag, payload := f.payload }

theorem gatePassed_reserve (f : Frame) (v : PlantVerb) (hs : Signal.slot ∉ c.agenda) :
    gatePassed f v (reserve c) = takeFrame (gateFrame (orderIn f) v) (reserve c) := by
  rw [gatePassed, offer, fillSlots_idle (c := reserve c) hs]
  rfl

/-- A frame to the matrix station or an auxiliary one goes to the gate unread (R20). -/
theorem takes_unread {f : Frame} {k : StationClass} (h : Takes c f.src f.tag f.payload)
    (hk : f.kind = .order ∨ f.kind = .latch) (hs : Signal.slot ∉ c.agenda) (hd : f.dest ≤ 119)
    (hc : stationClass c.site.work f.dest = some k) (hm : k = .matrix ∨ k = .auxiliary) :
    opsFrameEnds f c = takeFrame (gateFrame (orderIn f) (.other f.kind f.verb f.payload)) (reserve c) := by
  have hc' : stationClass (reserve c).site.work f.dest = some k := hc
  rw [takes_plant h hk hd, ← gatePassed_reserve f _ hs]
  rcases hm with rfl | rfl <;> simp only [routePlant, hc']

/-- The matrix station is reserved to the controller (R56). -/
theorem verdict_matrix (hc : stationClass c.site.work o.dest = some .matrix) :
    gateVerdict (gateFrame o v) c = .refuse .matrixReserved := by
  simp only [gateVerdict, gateFrame, hc, matrixVerdict]

/-- Settles O13, destination by destination. -/
theorem unroutableFramesAreRefused : Obligations.UnroutableFramesAreRefused := by
  intro f s hs ht hk
  refine ⟨fun hd hc => ?_, fun hd => ?_, fun hb => ?_, fun hd hc => ?_⟩
  · exact act_answers hs (takes_unknown ht hk hd hc)
  · have step := act_unnoted_inert (takes_opsAddress ht hk hd hs.settled) rfl rfl
      (fun x hx => by rw [List.mem_singleton.mp hx]; exact inert_opsTake ht.first) (by simp) hs.opsTaken
    rwa [show ({ s.ctl with agenda := [] } : Ctl) = s.ctl by rw [← hs.settled]] at step
  · exact act_answers hs (takes_badVerb ht hk hb)
  · exact act_answers hs ((takes_unread ht hk (no_slot_due hs) hd hc (.inl rfl)).trans
      (take_refused (o := orderIn f) (verdict_matrix (o := orderIn f) hc)))

/-! ## Orders the gate refuses -/

theorem parseTransmitterVerb_code (k : Nat) (p : List Byte) : (parseTransmitterVerb k p).code = k := by
  rcases p with _ | ⟨a, _ | ⟨b, _ | ⟨c, t⟩⟩⟩
  all_goals
    match k with
    | 0 | 1 | 2 | 3 | 4 | 5 | 6 => rfl
    | n + 7 => rfl

theorem parseDriveVerb_code (k : Nat) (p : List Byte) : (parseDriveVerb k p).code = k := by
  rcases p with _ | ⟨a, _ | ⟨b, _ | ⟨c, t⟩⟩⟩
  all_goals
    match k with
    | 0 | 1 | 2 | 3 | 4 | 5 | 6 | 7 | 8 | 9 => rfl
    | n + 10 => rfl

theorem transmitterOrder_refused {k : Nat} {r : Reason} (hs : Still s.ctl) (ht : Takes s.ctl o.src o.tag o.payload)
    (hd : o.dest ≤ 119) (hc : stationClass s.ctl.site.work o.dest = some .transmitter) (hk : 1 ≤ k ∧ k ≤ 6)
    (hv : gateVerdict (gateFrame o (parseTransmitterVerb k o.payload)) s.ctl = .refuse r) :
    act (opsFrameEnds (plantOrder k o)) s = .next { s with ctl := { s.ctl with
      link := withAnswer (ownAnswer o.src o.tag k 3 r.code (if r = .badRecord then [0#8] else [])) s.ctl.link } } := by
  have h := (takes_transmitter ht (no_slot_due hs) hd hc hk).trans (take_refused hv)
  rw [parseTransmitterVerb_code] at h
  exact act_answers hs h

theorem driveOrder_refused {k : Nat} {r : Reason} (hs : Still s.ctl) (ht : Takes s.ctl o.src o.tag o.payload)
    (hd : o.dest ≤ 119) (hc : stationClass s.ctl.site.work o.dest = some .drive) (hk : 6 ≤ k ∧ k ≤ 9)
    (hv : gateVerdict (gateFrame o (parseDriveVerb k o.payload)) s.ctl = .refuse r) :
    act (opsFrameEnds (plantOrder k o)) s = .next { s with ctl := { s.ctl with
      link := withAnswer (ownAnswer o.src o.tag k 3 r.code (if r = .badRecord then [0#8] else [])) s.ctl.link } } := by
  have h := (takes_drive ht (no_slot_due hs) hd hc hk).trans (take_refused hv)
  rw [parseDriveVerb_code] at h
  exact act_answers hs h

/-- Settles O14, row by row. -/
theorem gateRefusalsAreAnswered : Obligations.GateRefusalsAreAnswered := by
  intro o s hs ht hd
  refine ⟨fun p hp hc r hv => ?_, fun p hp hc r hv => ?_⟩
  · simp only [transmitterRows, List.mem_cons, List.not_mem_nil, or_false] at hp
    rcases hp with rfl | rfl | rfl | rfl | rfl | rfl <;>
      exact transmitterOrder_refused hs ht hd hc (by omega) hv
  · simp only [driveRows, List.mem_cons, List.not_mem_nil, or_false] at hp
    rcases hp with rfl | rfl | rfl | rfl <;> exact driveOrder_refused hs ht hd hc (by omega) hv

/-! ## Orders that join the plant queue as they are -/

/-- An order that the gate passes as it is, whose admission sets nothing. -/
theorem act_passed {f : Ctl → Ctl} (hs : Still s.ctl) (hp : PortRoom s.ctl)
    (hf : f s.ctl = takeFrame (gateFrame o v) (reserve s.ctl)) (hv : gateVerdict (gateFrame o v) s.ctl = .pass v none)
    (ha : onAdmission { tag := o.tag, frame := gateFrame o v } { s.ctl with link := withPassed o v s.ctl.link } =
      { s.ctl with link := withPassed o v s.ctl.link }) :
    act f s = .next { s with ctl := { s.ctl with link := withPassed o v s.ctl.link } } := by
  refine act_settled (hf.trans ?_) rfl rfl hs.settled hs.opsTaken
  have hn : ∀ c, clampNotice o.dest none c = c := fun _ => rfl
  rw [take_passed hv hp (by rw [hn, ha]; exact hp.taken), hn, ha]

theorem tset_tget_same {α : Type} {k : Nat} {x : α} {t : Table α} (hr : Rising t) (h : tget k t = some x) :
    tset k x t = t := by
  induction t with
  | nil => cases h
  | cons p t ih =>
    obtain ⟨j, w⟩ := p
    obtain ⟨hlow, hrest⟩ := List.pairwise_cons.mp hr
    by_cases hj : j = k
    · subst hj
      simp only [tget, if_true, Option.some.injEq] at h
      subst h
      simp [tset]
    · simp only [tget, hj, if_false] at h
      have hlt : j < k := hlow _ (tget_mem h)
      simp [tset, Nat.not_lt.mpr (Nat.le_of_lt hlt), Ne.symm hj, ih hrest h]

/-- A STOP finds no job of the operations side to supersede (R102). -/
theorem opsStopJob_none {a : Nat} {d : AntDyn} (ha : antOfDrive c.site.work o.dest = some a) (hd : antDyn c a = some d)
    (hr : tableRising c.aerial = true) (hj : ∀ j ref, d.job = some j → j.requester ≠ .operations ref) :
    opsStopJob o.dest c = c := by
  have hd' : tget a c.aerial = some d := hd
  have hset : tset a d c.aerial = c.aerial := tset_tget_same ((tableRising_iff _).mp hr) hd'
  simp only [opsStopJob, ha, Ctl.onAerial, tmod, hd']
  split
  · next hjob => exact absurd rfl (hj _ _ hjob)
  · rw [hset]

/-- Settles O18, row by row. -/
theorem plainOrdersJoinThePlantQueue : Obligations.PlainOrdersJoinThePlantQueue := by
  intro o s hs ht hp
  have hslot := no_slot_due hs
  refine ⟨fun n st d h => ⟨fun k h1 h32 hpay => ?_, fun hpay => ?_⟩, fun a st d h hpay => ?_,
    fun a st d hd hc ha hst hdyn hr hj hpay => ?_, fun kind code hk hd hc => ?_⟩
  case refine_1 =>
    have hverb : parseTransmitterVerb 5 o.payload = .feed k := by
      have : (BitVec.ofNat 8 k).toNat = k := Nat.mod_eq_of_lt (by omega)
      exact (congrArg (parseTransmitterVerb 5) hpay).trans (congrArg PlantVerb.feed this)
    have hf := takes_transmitter ht hslot h.plant h.known (v := 5) (by omega)
    rw [hverb] at hf
    exact act_passed hs hp hf ((verdict_transmitter h).trans (if_pos ⟨h1, h32⟩)) rfl
  case refine_2 =>
    have hf := takes_transmitter ht hslot h.plant h.known (v := 6) (by omega)
    rw [hpay] at hf
    exact act_passed hs hp hf (verdict_transmitter h) rfl
  case refine_3 =>
    have hf := takes_drive ht hslot h.plant h.known (v := 6) (by omega)
    rw [hpay] at hf
    have hv : driveVerdict s.ctl a st (gateFrame o .query) = .pass .query none := by
      simp [driveVerdict, gateFrame, ops_fills, h.running]
    exact act_passed hs hp hf ((verdict_drive h).trans hv) rfl
  case refine_4 =>
    have hf := takes_drive ht hslot hd hc (v := 9) (by omega)
    rw [hpay] at hf
    have hv : gateVerdict (gateFrame o .stop) s.ctl = .pass .stop none := by
      simp [gateVerdict, gateFrame, hc, ha, hst, driveVerdict, ops_fills, PlantVerb.code]
    exact act_passed hs hp hf hv (opsStopJob_none (c := { s.ctl with link := withPassed o .stop s.ctl.link }) ha hdyn hr hj)
  case refine_5 =>
    have hf := takes_unread (f := frameOf o kind code) ht hk hslot hd hc (.inr rfl)
    have hv : gateVerdict (gateFrame o (.other kind code o.payload)) s.ctl = .pass (.other kind code o.payload) none := by
      simp [gateVerdict, gateFrame, hc]
    exact act_passed hs hp hf hv rfl

end Sys2Proof.Proofs
end

section
/-! The operations transmitter (R22, R23): what it chooses when it is free, and what leaves its queues at the end of a frame. -/

namespace Sys2Proof.Proofs
open Sys2Proof.Machine Sys2Proof.Laws

variable {s : State} {c : Ctl} {k : Link}

/-- What the operations transmitter, free and not held off, chooses with the Link Interface as `k`: the pending flow frame,
otherwise the oldest answer, otherwise the oldest record (R23). -/
def chosen (c : Ctl) (k : Link) : Ctl :=
  match c.load.flow, k.answers, k.reports with
  | some f, _, _ => { c with
      link := { k with opsTx := some (.flow f c.load.opener.station c.load.opener.tag) }
      load := { c.load with flow := none, told := decide (f = .pause) } }
  | none, a :: _, _ => { c with link := { k with opsTx := some (.answer a) } }
  | none, [], r :: rest => { c with
      link := { k with opsTx := some (.report r), reports := { r with sending := true } :: rest } }
  | none, [], [] => { c with link := k }

theorem opsChoose_free (htx : k.opsTx = none) (hoff : k.opsHeldOff = false) :
    opsChoose { c with link := k } = chosen c k := by
  simp only [opsChoose, chosen, htx, hoff, Option.isSome_none, Bool.or_self, Bool.false_eq_true, if_false]
  cases c.load.flow with
  | some f => rfl
  | none =>
    cases ha : k.answers with
    | cons a as => rfl
    | nil => cases hr : k.reports <;> rfl

theorem opsChoose_heldOff (hoff : k.opsHeldOff = true) : opsChoose { c with link := k } = { c with link := k } :=
  opsChoose_taken (by simp [hoff])

/-- A command that changes the Link Interface alone and leaves nothing due but a look at the frames that wait for a place:
where none waits, the step ends with the transmitter's choice. -/
theorem act_chooses {f : Ctl → Ctl} {l : List Signal} (hf : f s.ctl = { s.ctl with agenda := l, link := k })
    (hl : l = [] ∨ l = [.opsTake] ∧ k.opsInput = []) :
    act f s = .next { s with ctl := opsChoose { s.ctl with agenda := [], link := k } } := by
  have hi : ∀ x ∈ l, Inert x { s.ctl with agenda := l, link := k } := by
    rcases hl with rfl | ⟨rfl, hinput⟩
    · simp
    · intro x hx
      rw [List.mem_singleton.mp hx]
      exact inert_opsTake hinput
  have hlen : l.length ≤ settleLimit := by
    rcases hl with rfl | ⟨rfl, -⟩ <;> simp [settleLimit]
  have hsame : noteColumns s.ctl { s.ctl with agenda := l, link := k } = { s.ctl with agenda := l, link := k } :=
    noteColumns_of rfl rfl
  rw [act, hf, hsame, finish, settle_inert settleLimit _ hi hlen]

/-- The same, for a transmitter that is free then: it chooses unless it is held off. -/
theorem act_frees {f : Ctl → Ctl} {l : List Signal} (ha : s.ctl.agenda = [])
    (hf : f s.ctl = { s.ctl with agenda := l, link := k }) (hl : l = [] ∨ l = [.opsTake] ∧ k.opsInput = [])
    (htx : k.opsTx = none) :
    act f s = if k.opsHeldOff = true then .next { s with ctl := { s.ctl with link := k } }
      else .next { s with ctl := chosen s.ctl k } := by
  have hempty : ({ s.ctl with agenda := [], link := k } : Ctl) = { s.ctl with link := k } := by rw [← ha]
  rw [act_chooses hf hl, hempty]
  cases hoff : k.opsHeldOff with
  | true => rw [opsChoose_heldOff hoff]; rfl
  | false => rw [opsChoose_free htx hoff]; rfl

/-! ## The end of a frame -/

theorem opsSent_answer {a : Answer} {rest : List Answer} (ha : c.agenda = []) (htx : c.link.opsTx = some (.answer a))
    (hans : c.link.answers = a :: rest) :
    opsSent c = { c with agenda := [.opsTake], link := { c.link with opsTx := none, answers := rest } } := by
  simp only [opsSent, htx]
  rw [pushOnce_new (by simp [ha])]
  simp [Ctl.onLink, hans, ha]

theorem opsSent_report {r : Report} {rest : List Report} (htx : c.link.opsTx = some (.report r))
    (hrep : c.link.reports = { r with sending := true } :: rest) :
    opsSent c = { c with link := { c.link with opsTx := none, reports := rest } } := by
  simp [opsSent, htx, Ctl.onLink, hrep, dropFirst]

theorem opsSent_flow {f : Flow} {d t : Nat} (htx : c.link.opsTx = some (.flow f d t)) :
    opsSent c = { c with link := { c.link with opsTx := none } } := by
  simp only [opsSent, htx, Ctl.onLink]

theorem opsSent_idle (htx : c.link.opsTx = none) : opsSent c = c := by
  simp only [opsSent, htx]

/-- Settles O12, command by command. -/
theorem operationsTransmitterSends : Obligations.OperationsTransmitterSends := by
  intro s ha
  have keep : ∀ k : Link, ({ s.ctl with link := k } : Ctl) = { s.ctl with agenda := [], link := k } := fun k => by rw [← ha]
  refine ⟨?_, fun htx => ?_, fun htx => ?_, fun htx hoff => ?_, fun hinput => ⟨fun a rest htx hans => ?_,
    fun r rest htx hrep => ?_, fun f d t htx => ?_⟩⟩
  case refine_1 =>
    exact act_settled rfl rfl rfl ha (by simp)
  case refine_2 =>
    exact act_frees (k := { s.ctl.link with opsHeldOff := false }) ha (keep _) (.inl rfl) htx
  case refine_3 =>
    exact act_settled rfl rfl rfl ha (by simp [htx])
  case refine_4 =>
    exact act_unchanged ⟨ha, by simp [hoff]⟩ (opsSent_idle htx)
  case refine_5 =>
    exact act_frees ha (opsSent_answer ha htx hans) (.inr ⟨rfl, hinput⟩) rfl
  case refine_6 =>
    exact act_frees ha ((opsSent_report htx hrep).trans (keep _)) (.inl rfl) rfl
  case refine_7 =>
    exact act_frees ha ((opsSent_flow htx).trans (keep _)) (.inl rfl) rfl

end Sys2Proof.Proofs
end

section
/-! CARRIER_ON of the operations side at a ready transmitter: passed with carrier-on outstanding, or held on its path or on
its power while a clamping POWER of the gate is offered (R48, R49, R58). -/

namespace Sys2Proof.Proofs
open Sys2Proof.Machine Sys2Proof.Laws

variable {s : State} {o : PlantOrder} {c : Ctl} {n k : Nat} {st : TxStatic} {d : TxDyn} {p : Path}

/-! ## The CARRIER_ON check (R48) -/

/-- What the check finds of the path before it looks at its state: the hall stop is not in force, and the row has a path to
an antenna that is not locked out. -/
structure OpenPath (c : Ctl) (n : Nat) (p : Path) : Prop where
  noStop : c.hall.inForce = false
  path : rowPath c n = some p
  notLockedOut : lockedOut c p.ant = false

theorem carrierOnVerdict_setting (h : OpenPath c n p) (hp : p.state = .setting) :
    carrierOnVerdict c n st d = .hold .path := by
  simp [carrierOnVerdict, h.noStop, h.path, h.notLockedOut, hp]

/-- The path is PROVEN, the band is known and the antenna is rated in it. -/
structure RatedPath (c : Ctl) (n : Nat) (d : TxDyn) (p : Path) (k : Nat) : Prop extends OpenPath c n p where
  proven : p.state = .proven
  band : ratableBand c d = some k
  rated : ratingOf c.site.work p.ant k ≠ 0

theorem clampValue_rated (h : RatedPath c n d p k) : clampValue c st d p.ant = min st.maxPower (ratingOf c.site.work p.ant k) := by
  simp only [clampValue, h.band]

theorem carrierOnVerdict_proven (h : RatedPath c n d p k) : carrierOnVerdict c n st d = match d.power with
    | none => .hold .power
    | some kW => if clampValue c st d p.ant < kW then .hold .power else .pass .carrierOn none := by
  simp only [carrierOnVerdict, h.noStop, h.path, h.notLockedOut, h.proven, h.band, h.rated]
  rfl

/-- The power setting is known and neither the maximum nor the rating is below it. -/
theorem carrierOnVerdict_passes {kW : Nat} (h : RatedPath c n d p k) (hkW : d.power = some kW)
    (hle : kW ≤ min st.maxPower (ratingOf c.site.work p.ant k)) : carrierOnVerdict c n st d = .pass .carrierOn none := by
  rw [carrierOnVerdict_proven h, clampValue_rated h, hkW]
  exact if_neg (Nat.not_lt.mpr hle)

/-- The power setting is not known, or the maximum or the rating is below it. -/
theorem carrierOnVerdict_clamps (h : RatedPath c n d p k)
    (hlt : ∀ kW, d.power = some kW → min st.maxPower (ratingOf c.site.work p.ant k) < kW) :
    carrierOnVerdict c n st d = .hold .power := by
  rw [carrierOnVerdict_proven h, clampValue_rated h]
  cases hkW : d.power with
  | none => rfl
  | some kW => exact if_pos (hlt kW hkW)

/-! ## Passed -/

/-- A CARRIER_ON of the operations side is admitted: carrier-on outstanding is recorded, with its former value (R48). -/
theorem onAdmission_carrierOn (h : TxReady c o.dest n st d) (ha : c.agenda = []) :
    onAdmission { tag := o.tag, frame := gateFrame o .carrierOn } c =
      { c with
        agenda := [.arbiter]
        gate := { c.gate with tx := tset n (setOutstanding o.src o.tag d) c.gate.tx } } := by
  have hd : tget n c.gate.tx = some d := h.dynamic
  simp only [onAdmission, gateFrame, h.here, carrierChanged, ofWork, modTx, Ctl.onGate, tmod, hd, originAddr]
  rw [pushOnce_new (by simp [ha]), ha]
  rfl

/-- The change of a record of a transmitter's, the place of its frame in the plant queue, and a look at the arbiter. -/
theorem carrierOn_passed (hs : Still s.ctl) (ht : Takes s.ctl o.src o.tag o.payload) (hp : PortRoom s.ctl)
    (h : TxReady s.ctl o.dest n st d) (hpay : o.payload = []) (hv : carrierOnVerdict s.ctl n st d = .pass .carrierOn none)
    (hq : s.ctl.matrix.queue = []) (hcu : ∀ x ∈ s.ctl.cu, x.2.busy = false) :
    exec (.opsCarrierOn o) s = .next { s with ctl := { s.ctl with
      link := withPassed o .carrierOn s.ctl.link
      gate := { s.ctl.gate with tx := tset n (setOutstanding o.src o.tag d) s.ctl.gate.tx } } } := by
  have hf := takes_transmitter ht (no_slot_due hs) h.plant h.known (v := 3) (by omega)
  rw [hpay] at hf
  have hready : TxReady { s.ctl with link := withPassed o .carrierOn s.ctl.link } o.dest n st d :=
    ⟨h.plant, h.known, h.here, h.static, h.dynamic, h.running, h.notLocal, h.notOwned⟩
  have hadm := onAdmission_carrierOn hready hs.settled
  have hn : ∀ c, clampNotice o.dest none c = c := fun _ => rfl
  have hverdict : gateVerdict (gateFrame o .carrierOn) s.ctl = .pass .carrierOn none := (verdict_transmitter h).trans hv
  have htake := take_passed hverdict hp (by rw [hn, hadm]; exact hp.taken)
  rw [hn, hadm] at htake
  have step := act_inert (hf.trans htake) (fun x hx => by rw [List.mem_singleton.mp hx]; exact inert_arbiter hq)
    (inert_columns hcu) (by simp) (opsChoose_taken hs.opsTaken)
  rwa [← hs.settled] at step

/-! ## Held -/

theorem take_held {v : PlantVerb} {w : HoldWait} (h : gateVerdict (gateFrame o v) c = .hold w) :
    takeFrame (gateFrame o v) (reserve c) = holdFrame (gateFrame o v) w (reserve c) := by
  simp only [takeFrame, verdict_reserve, h]

/-- A frame of an operations station in the hold queue, with the place its order reserved (R58). -/
def withHeld (o : PlantOrder) (v : PlantVerb) (w : HoldWait) (c : Ctl) : Ctl :=
  { c with
    link := { c.link with reserved := c.link.reserved + 1 }
    gate := { c.gate with held := c.gate.held ++ [{ frame := gateFrame o v, waits := w, since := c.clock }] } }

theorem holdFrame_path {v : PlantVerb} (hroom : c.gate.held.length < 12) :
    holdFrame (gateFrame o v) .path (reserve c) = withHeld o v .path c := if_pos hroom

theorem holdFrame_power {v : PlantVerb} (hroom : c.gate.held.length < 12) :
    holdFrame (gateFrame o v) .power (reserve c) = requireClamp (gateFrame o v) (withHeld o v .power c) := if_pos hroom

/-- The queue of reports has room. -/
theorem raise_room {kind : ReportKind} {subject : Subject} {detail qualifier : Nat} {figure : Option Int} {ref : Option Ref}
    (h : c.link.reports.length < 32) : raise kind subject detail qualifier figure ref c =
      { c with link := withReport (reportNow c kind subject detail qualifier figure ref) c.link } := by
  simp only [raise, Ctl.onLink, queueReport, Config.reportQueueSize, h, if_true]
  rfl

/-- The clamping POWER of the gate for a station. -/
def clampFrame (station value : Nat) : PFrame :=
  { dest := station, verb := .power value, cls := .internal, origin := .gate .clamp }

/-- The gate's clamping POWER passes unchanged, where it is at most the maximum and the rating of the proven path (R51). -/
theorem verdict_clamp {value : Nat} (h : TxReady c o.dest n st d) (hp : RatedPath c n d p k) (hlow : 1 ≤ value)
    (hhigh : value ≤ 999) (hle : value ≤ min st.maxPower (ratingOf c.site.work p.ant k)) :
    gateVerdict (clampFrame o.dest value) c = .pass (.power value) none := by
  have hmax : value ≤ st.maxPower := Nat.le_trans hle (Nat.min_le_left _ _)
  have hrat : value ≤ ratingOf c.site.work p.ant k := Nat.le_trans hle (Nat.min_le_right _ _)
  have hrange : ¬ value = 0 ∧ value ≤ 999 := by omega
  have howner : ownedByOther d (.gate .clamp) = false := by unfold ownedByOther; cases d.owner <;> rfl
  simp [gateVerdict, clampFrame, h.known, h.here, h.static, h.dynamic, transmitterVerdict, fillsRecords, ownOrigin,
    h.running, h.notLocal, howner, transmitterVerbVerdict, powerVerdict, hrange, hp.path, hp.band, hp.proven, hp.rated,
    Nat.min_eq_left hmax, Nat.min_eq_left hrat]

theorem offerClamp_queues {value : Nat} (hslot : slotForInternal c.link = true) (htaken : c.link.plantTx.isSome = true)
    (hv : gateVerdict (clampFrame o.dest value) c = .pass (.power value) none) :
    offerClamp o.dest value c = { c with link := withOwn (clampFrame o.dest value) c.link } := by
  have hv' : gateVerdict { dest := o.dest, verb := .power value, cls := .internal, origin := .gate .clamp } c =
    .pass (.power value) none := hv
  simp only [offerClamp, hslot, if_true, hv']
  exact portChoose_taken (c := { c with link := withOwn (clampFrame o.dest value) c.link }) htaken

theorem carrierOn_held_path (hs : Still s.ctl) (ht : Takes s.ctl o.src o.tag o.payload) (h : TxReady s.ctl o.dest n st d)
    (hpay : o.payload = []) (hroom : s.ctl.gate.held.length < 12) (hv : carrierOnVerdict s.ctl n st d = .hold .path) :
    exec (.opsCarrierOn o) s = .next { s with ctl := withHeld o .carrierOn .path s.ctl } := by
  have hf := takes_transmitter ht (no_slot_due hs) h.plant h.known (v := 3) (by omega)
  rw [hpay] at hf
  have hverdict : gateVerdict (gateFrame o .carrierOn) s.ctl = .hold .path := (verdict_transmitter h).trans hv
  have hheld := (take_held hverdict).trans (holdFrame_path hroom)
  exact act_settled (hf.trans hheld) rfl rfl hs.settled hs.opsTaken

/-- The clamping POWER that a held CARRIER_ON waits on: NOTICE POWER_CLAMPED where the power setting is known, and the frame
of the gate's in the plant queue (R36, R49). -/
theorem requireClamp_offers (h : TxReady c o.dest n st d) (hp : RatedPath c n d p k)
    (hlt : ∀ kW, d.power = some kW → min st.maxPower (ratingOf c.site.work p.ant k) < kW) (hlow : 1 ≤ st.maxPower)
    (hhigh : st.maxPower ≤ 999) (hpend : clampPending c.link o.dest = false) (hrep : c.link.reports.length < 32)
    (hslot : slotForInternal c.link = true) (htaken : c.link.plantTx.isSome = true) {v : PlantVerb} :
    let most := min st.maxPower (ratingOf c.site.work p.ant k)
    requireClamp (gateFrame o v) c = { c with
      link :=
        let k := withOwn (clampFrame o.dest most) c.link
        if d.power.isSome then
          withReport (reportNow c .powerClamped (.pair n (if most < st.maxPower then p.ant else 0)) 0 0 (some most) none) k
        else k } := by
  intro most
  have hrated : ratingOf c.site.work p.ant k ≠ 0 := hp.rated
  have hmost : 1 ≤ most := by simp only [most, Nat.le_min]; omega
  have hmost' : most ≤ 999 := Nat.le_trans (Nat.min_le_left _ _) hhigh
  have hpend' : clampPending c.link (gateFrame o v).dest = false := hpend
  have hhere : txOfStation c.site.work (gateFrame o v).dest = some n := h.here
  simp only [requireClamp, hhere, h.static, h.dynamic, hp.path, hpend', clampValue_rated hp]
  cases hkW : d.power with
  | none =>
    exact offerClamp_queues hslot htaken (verdict_clamp h hp hmost hmost' (Nat.le_refl _))
  | some kW =>
    have hlt' := hlt kW hkW
    simp only [hlt', if_true, raise_room hrep, Bool.false_eq_true, if_false]
    exact offerClamp_queues (c := { c with link := withReport _ c.link }) hslot htaken
      (verdict_clamp (c := { c with link := withReport _ c.link })
        ⟨h.plant, h.known, h.here, h.static, h.dynamic, h.running, h.notLocal, h.notOwned⟩
        ⟨⟨hp.noStop, hp.path, hp.notLockedOut⟩, hp.proven, hp.band, hp.rated⟩ hmost hmost' (Nat.le_refl _))

/-- Settles O21, by what the CARRIER_ON check finds. -/
theorem carrierOnIsPassedOrHeld : Obligations.CarrierOnIsPassedOrHeld := by
  intro o s n st d p hs ht hport h hpay hstop hpath hlock hroom
  have hopen : OpenPath s.ctl n p := ⟨hstop, hpath, hlock⟩
  refine ⟨fun hp => ?_, fun k hproven hband hrated => ⟨fun kW hkW hle hq hcu => ?_, fun hlt hlow hhigh hpend hrep => ?_⟩⟩
  case refine_1 =>
    exact carrierOn_held_path hs ht h hpay hroom (carrierOnVerdict_setting hopen hp)
  case refine_2 =>
    exact carrierOn_passed hs ht hport h hpay (carrierOnVerdict_passes ⟨hopen, hproven, hband, hrated⟩ hkW hle) hq hcu
  case refine_3 =>
    have hrated' : RatedPath s.ctl n d p k := ⟨hopen, hproven, hband, hrated⟩
    have hf := takes_transmitter ht (no_slot_due hs) h.plant h.known (v := 3) (by omega)
    rw [hpay] at hf
    have hslot : slotForInternal s.ctl.link = true := (Bool.and_eq_true_iff.mp hport.room).1
    have hverdict : gateVerdict (gateFrame o .carrierOn) s.ctl = .hold .power :=
      (verdict_transmitter h).trans (carrierOnVerdict_clamps hrated' hlt)
    have hheld := (take_held hverdict).trans (holdFrame_power hroom)
    have hclamp := requireClamp_offers (c := withHeld o .carrierOn .power s.ctl) (v := .carrierOn)
      ⟨h.plant, h.known, h.here, h.static, h.dynamic, h.running, h.notLocal, h.notOwned⟩
      ⟨⟨hstop, hpath, hlock⟩, hproven, hband, hrated⟩ hlt hlow hhigh hpend hrep hslot hport.taken
    refine (act_settled (hf.trans (hheld.trans hclamp)) rfl rfl hs.settled ?_)
    have hopsTaken := hs.opsTaken
    dsimp only
    split <;> exact hopsTaken

end Sys2Proof.Proofs
end

section
/-! The plant transmitter finishes a frame, and the plant port takes the oldest frame of the highest class where the table of
outstanding orders has room for it (R29); what the leaving of a frame sets (R62, R70). -/

namespace Sys2Proof.Proofs
open Sys2Proof.Machine Sys2Proof.Laws

variable {s : State} {c : Ctl} {k : Link} {x : Queued} {before behind : List Queued}

/-! ## The choice of the port -/

/-- The classes by their rank: URGENT before INTERNAL before PASSED. -/
def classRank : Cls → Nat
  | .urgent => 2
  | .internal => 1
  | .passed => 0

/-- The plant queue around its oldest frame of the highest class. -/
structure FirstOfClass (k : Link) (before : List Queued) (x : Queued) (behind : List Queued) : Prop where
  queue : k.plantQueue = before ++ x :: behind
  lower : ∀ y ∈ before, classRank y.frame.cls < classRank x.frame.cls
  atMost : ∀ y ∈ behind, classRank y.frame.cls ≤ classRank x.frame.cls

/-- The first frame of a class of which no frame stands before it. -/
theorem find_class {cls : Cls} (hx : x.frame.cls = cls) (hb : ∀ y ∈ before, y.frame.cls ≠ cls) :
    (before ++ x :: behind).find? (fun q => q.frame.cls == cls) = some x := by
  have hnone : before.find? (fun q => q.frame.cls == cls) = none :=
    List.find?_eq_none.mpr (fun y hy => by simpa using hb y hy)
  rw [List.find?_append, hnone, Option.none_or, List.find?_cons_of_pos (by simpa using hx)]

/-- No frame of a class above that of all others. -/
theorem find_class_none {cls : Cls} (h : ∀ y ∈ k.plantQueue, y.frame.cls ≠ cls) :
    k.plantQueue.find? (fun q => q.frame.cls == cls) = none :=
  List.find?_eq_none.mpr (fun y hy => by simpa using h y hy)

theorem FirstOfClass.rank_le (h : FirstOfClass k before x behind) {y : Queued} (hy : y ∈ k.plantQueue) :
    classRank y.frame.cls ≤ classRank x.frame.cls := by
  rw [h.queue, List.mem_append, List.mem_cons] at hy
  rcases hy with hy | rfl | hy
  · exact Nat.le_of_lt (h.lower y hy)
  · exact Nat.le_refl _
  · exact h.atMost y hy

theorem FirstOfClass.above_none (h : FirstOfClass k before x behind) {cls : Cls}
    (hc : classRank x.frame.cls < classRank cls) : k.plantQueue.find? (fun q => q.frame.cls == cls) = none :=
  find_class_none (fun y hy e => by have := h.rank_le hy; rw [e] at this; omega)

theorem FirstOfClass.find (h : FirstOfClass k before x behind) {cls : Cls} (hx : x.frame.cls = cls) :
    k.plantQueue.find? (fun q => q.frame.cls == cls) = some x := by
  rw [h.queue]
  exact find_class hx (fun y hy e => by have := h.lower y hy; rw [e, hx] at this; omega)

/-- The port looks at the oldest frame of the highest class. -/
theorem portHead_eq (h : FirstOfClass k before x behind) : portHead k = some x := by
  cases hx : x.frame.cls with
  | urgent => simp only [portHead, h.find hx]
  | internal =>
    have hu := h.above_none (cls := .urgent) (by rw [hx]; decide)
    simp only [portHead, hu, h.find hx]
  | passed =>
    have hu := h.above_none (cls := .urgent) (by rw [hx]; decide)
    have hi := h.above_none (cls := .internal) (by rw [hx]; decide)
    have hnil : before = [] := List.eq_nil_iff_forall_not_mem.mpr (fun y hy => by
      have := h.lower y hy; rw [hx] at this; exact Nat.not_lt_zero _ this)
    have hhead : k.plantQueue.head? = some x := by rw [h.queue, hnil]; rfl
    simp only [portHead, hu, hi, hhead]

theorem dropFirst_around (hb : ∀ y ∈ before, y ≠ x) :
    dropFirst (fun y => decide (y = x)) (before ++ x :: behind) = before ++ behind := by
  induction before with
  | nil => simp [dropFirst]
  | cons y t ih =>
    have hy : y ≠ x := hb y (by simp)
    simp [dropFirst, hy, ih (fun z hz => hb z (by simp [hz]))]

/-- The room that a class of frame finds in the table of outstanding orders (R29). -/
theorem tableRoom_iff (k : Link) (cls : Cls) : tableRoom k cls = true ↔ k.table.length < 10 ∧
    (cls = .urgent ∨ (k.table.filter (fun e => decide (e.cls ≠ .urgent))).length < 8) := by
  have hf : (fun e : Entry => e.cls != .urgent) = fun e => decide (e.cls ≠ .urgent) := by
    funext e; cases e.cls <;> rfl
  simp only [tableRoom, hf, Bool.and_eq_true, Bool.or_eq_true, decide_eq_true_eq, beq_iff_eq]
  exact Iff.rfl

/-! ## The port takes a frame -/

/-- The frame chosen leaves the queue, with an entry of the table from then on. -/
def taking (x : Queued) (before behind : List Queued) (k : Link) : Link :=
  { k with plantQueue := before ++ behind, table := k.table ++ [entryFor x], plantTx := some x }

theorem portChoose_takes (hfree : c.link.plantTx = none) (h : FirstOfClass c.link before x behind)
    (hroom : tableRoom c.link x.frame.cls = true) :
    portChoose c = pushOnce .slot (noteLeft x { c with link := taking x before behind c.link }) := by
  have hdrop : dropFirst (fun y => decide (y = x)) c.link.plantQueue = before ++ behind := by
    rw [h.queue]
    exact dropFirst_around (fun y hy e => by have := h.lower y hy; rw [e] at this; omega)
  simp only [portChoose, hfree, Option.isSome_none, Bool.false_eq_true, if_false, portHead_eq h, hroom, if_true]
  simp only [Ctl.onLink, hdrop]
  rfl

theorem portChoose_full (h : FirstOfClass c.link before x behind) (hroom : ¬ tableRoom c.link x.frame.cls = true) :
    portChoose c = c := by
  unfold portChoose
  rw [portHead_eq h]
  split
  · rfl
  · exact if_neg hroom

theorem portChoose_empty (h : c.link.plantQueue = []) : portChoose c = c := by
  simp [portChoose, portHead, h]

/-! ## The end of the frame before -/

/-- The plant port, free again, with the answer timer of the frame sent running from now (R29). -/
def portFreed (c : Ctl) : Ctl :=
  { c with link := { c.link with
    plantTx := none
    table := mapFirst (fun e => e.sent.isNone) (fun e => { e with sent := some c.clock }) c.link.table } }

theorem plantSent_idle (h : c.link.plantTx = none) : plantSent c = c := by simp only [plantSent, h]

theorem plantSent_sent {q : Queued} (h : c.link.plantTx = some q) : plantSent c = portChoose (portFreed c) := by
  simp only [plantSent, h]
  rfl

/-- A frame that the port takes, whose leaving changes nothing that columns are judged by: nobody waits for the slot. -/
theorem act_plantSent {q : Queued} {c' : Ctl} (hs : Still s.ctl) (hq : s.ctl.link.plantTx = some q)
    (h : FirstOfClass s.ctl.link before x behind) (hroom : tableRoom (portFreed s.ctl).link x.frame.cls = true)
    (hu : s.ctl.link.urgentWaiters = []) (hi : s.ctl.link.internalWaiters = [])
    (hleft : noteLeft x { portFreed s.ctl with link := taking x before behind (portFreed s.ctl).link } = c')
    (ha : c'.agenda = []) (hp : c'.matrix.paths = s.ctl.matrix.paths) (ht : c'.gate.tx = s.ctl.gate.tx)
    (hl : c'.link = taking x before behind (portFreed s.ctl).link) : act plantSent s = .next { s with ctl := c' } := by
  have htakes : portChoose (portFreed s.ctl) = { c' with agenda := [.slot] } := by
    rw [portChoose_takes (c := portFreed s.ctl) rfl ⟨h.queue, h.lower, h.atMost⟩ hroom, hleft, pushOnce_new (by simp [ha]), ha]
    rfl
  have step := act_unnoted_inert ((plantSent_sent hq).trans htakes) hp ht
    (fun y hy => by
      rw [List.mem_singleton.mp hy]
      exact inert_slot (c := { c' with agenda := [.slot] }) (by rw [hl]; exact hu) (by rw [hl]; exact hi))
    (by simp) (by rw [hl]; exact hs.opsTaken)
  have hempty : ({ c' with agenda := [] } : Ctl) = c' := by rw [← ha]
  rwa [hempty] at step

/-! ## What the leaving of a frame sets -/

/-- The frames whose leaving sets nothing. -/
def LeavesPlainly (x : Queued) : Prop :=
  x.frame.verb = .carrierOn ∨ x.frame.verb = .carrierOff ∨ x.frame.verb = .query ∨ x.frame.verb = .stop ∨
    (∃ n, x.frame.verb = .feed n) ∨ (∃ b, x.frame.verb = .latchClear b) ∨ (∃ b n, x.frame.verb = .latchRead b n) ∨
    (∃ k n l, x.frame.verb = .other k n l) ∨ ∃ n st tag, x.frame.verb = .tune n ∧ x.frame.origin = .ops st tag

theorem noteLeft_plain (h : LeavesPlainly x) : noteLeft x c = c := by
  rcases h with h | h | h | h | ⟨n, h⟩ | ⟨b, h⟩ | ⟨b, n, h⟩ | ⟨k, n, l, h⟩ | ⟨n, st, tag, h, ho⟩
  case inr.inr.inr.inr.inr.inr.inr.inr => simp only [noteLeft, h, ho, ofWork]
  all_goals simp only [noteLeft, h]

/-- The value of a POWER is kept for its answer (R62). -/
theorem noteLeft_power {p : Nat} (h : x.frame.verb = .power p) : noteLeft x c = { c with
    gate := { c.gate with
      powerSent := { station := x.frame.dest, addr := originAddr x.frame.origin, tag := x.tag, value := p } ::
        c.gate.powerSent.filter (fun r =>
          decide (¬ (r.station = x.frame.dest ∧ r.addr = originAddr x.frame.origin ∧ r.tag = x.tag))) } } := by
  have hf : (fun r : PowerSent => !(r.station == x.frame.dest && r.addr == originAddr x.frame.origin && r.tag == x.tag)) =
      fun r => decide (¬ (r.station = x.frame.dest ∧ r.addr = originAddr x.frame.origin ∧ r.tag = x.tag)) := by
    funext r
    rw [Bool.eq_iff_iff]
    simp [or_assoc]
  simp only [noteLeft, h, Ctl.onGate, hf]

/-- A SET of the matrix starts its movement's limit (R70). -/
theorem noteLeft_set {b slot : Nat} (h : x.frame.verb = .latchSet b) (ho : x.frame.origin = .mi (.set slot)) :
    noteLeft x c = { c with matrix := { c.matrix with
      slots := tmod slot (fun v => { v with started := some c.clock }) c.matrix.slots } } := by
  simp only [noteLeft, h, ho]
  rfl

/-- Settles O47, by the room in the table and what leaves. -/
theorem plantTransmitterFinishes : Obligations.PlantTransmitterFinishes := by
  intro s hs
  refine ⟨fun hidle => act_unchanged hs (plantSent_idle hidle), fun q hq => ⟨fun hempty => ?_, fun before x behind hqueue
    hlower hmost => ⟨fun hroom => ?_, fun hroom hu hi => ⟨fun hplain => ?_, fun p hp => ?_, fun b slot hset ho => ?_⟩⟩⟩⟩
  case refine_1 =>
    exact act_settled ((plantSent_sent hq).trans (portChoose_empty hempty)) rfl rfl hs.settled hs.opsTaken
  case refine_2 =>
    have hfull : ¬ tableRoom (portFreed s.ctl).link x.frame.cls = true := fun h => hroom ((tableRoom_iff _ _).mp h)
    exact act_settled ((plantSent_sent hq).trans (portChoose_full (before := before) (behind := behind)
      ⟨hqueue, hlower, hmost⟩ hfull)) rfl rfl hs.settled hs.opsTaken
  case refine_3 =>
    exact act_plantSent hs hq ⟨hqueue, hlower, hmost⟩ ((tableRoom_iff _ _).mpr hroom) hu hi (noteLeft_plain hplain)
      hs.settled rfl rfl rfl
  case refine_4 =>
    exact act_plantSent hs hq ⟨hqueue, hlower, hmost⟩ ((tableRoom_iff _ _).mpr hroom) hu hi (noteLeft_power hp)
      hs.settled rfl rfl rfl
  case refine_5 =>
    exact act_plantSent hs hq ⟨hqueue, hlower, hmost⟩ ((tableRoom_iff _ _).mpr hroom) hu hi (noteLeft_set hset ho)
      hs.settled rfl rfl rfl

end Sys2Proof.Proofs
end

section
/-! What follows the setting of a transmitter's record, where all of it finds nothing to do (R61, R62); and the end of an
exchange as the consequence of a step (R30, R31). -/

namespace Sys2Proof.Proofs
open Sys2Proof.Machine Sys2Proof.Laws

variable {s : State} {c c' : Ctl} {n : Nat}

/-! ## Tables -/

theorem tset_tset {α : Type} (k : Nat) (v w : α) (t : Table α) : tset k v (tset k w t) = tset k v t := by
  induction t with
  | nil => simp [tset]
  | cons p t ih =>
    obtain ⟨j, x⟩ := p
    by_cases hlt : k < j
    · simp [tset, hlt]
    · by_cases he : k = j
      · simp [tset, he]
      · simp [tset, hlt, he, ih]

theorem tmod_some {α : Type} {k : Nat} {v : α} {t : Table α} (f : α → α) (h : tget k t = some v) :
    tmod k f t = tset k (f v) t := by
  simp only [tmod, h]

/-! ## After a transmitter's record has been set -/

/-- What the setting of a transmitter's record leaves due. -/
def recordSignals (n : Nat) (report : Bool) (before c : Ctl) : List Signal :=
  [.interlock n, .withdraw n] ++ bandNews n before c ++ [.watch n, .holdEnd n, .ctxRecord n report] ++ [.arbiter]

theorem afterRecord_eq (n : Nat) (report : Bool) (before : Ctl) (ha : c.agenda = []) :
    afterRecord n report before c = { c with agenda := recordSignals n report before c } := by
  have hnew : Signal.arbiter ∉ (push ([.interlock n, .withdraw n] ++ bandNews n before c ++
      [.watch n, .holdEnd n, .ctxRecord n report]) c).agenda := by
    rcases bandNews_cases n before c with ⟨h, -⟩ | ⟨h, -⟩ <;> simp [ha, h]
  rw [afterRecord, pushOnce_new hnew, push_agenda, ha]
  rfl

/-- Everything that follows the setting of a transmitter's record finds nothing to do. -/
structure RecordIdle (c : Ctl) (n : Nat) : Prop where
  queue : c.link.plantQueue = []
  noStop : c.hall.inForce = false
  owner : ∀ d, txDyn c n = some d → d.owner ≠ .operations
  noContext : ∀ p ∈ c.cu, p.2.busy = false
  moves : c.matrix.queue = []
  interlock : interlockCondition c n = false

theorem RecordIdle.inert (h : RecordIdle c n) (report : Bool) (before c' : Ctl) :
    ∀ x ∈ recordSignals n report before c', Inert x c := by
  have hband : ∀ x ∈ bandNews n before c', Inert x c := by
    rcases bandNews_cases n before c' with ⟨hb, -⟩ | ⟨hb, -⟩
    · simp [hb]
    · intro x hx
      rw [hb, List.mem_singleton] at hx
      exact hx ▸ inert_fitPower_empty h.queue
  intro x hx
  simp only [recordSignals, List.mem_append, List.mem_cons, List.not_mem_nil, or_false] at hx
  rcases hx with (((rfl | rfl) | hx) | (rfl | rfl | rfl)) | rfl
  · exact inert_interlock h.interlock
  · exact inert_withdraw (by simp [h.queue])
  · exact hband x hx
  · exact inert_watch h.noStop n
  · exact inert_holdEnd h.owner
  · exact inert_ctxRecord h.noContext
  · exact inert_arbiter h.moves

theorem length_recordSignals (n : Nat) (report : Bool) (before c : Ctl) :
    (recordSignals n report before c).length ≤ 7 := by
  rcases bandNews_cases n before c with ⟨h, -⟩ | ⟨h, -⟩ <;> simp [recordSignals, h]

/-- The controller with its clock and its Link Interface as given and a transmitter's record replaced. -/
def recorded (clock : Millis) (k : Link) (n : Nat) (d : TxDyn) (c : Ctl) : Ctl :=
  { c with clock := clock, link := k, gate := { c.gate with tx := tset n d c.gate.tx } }

theorem interlockCondition_recorded (clock : Millis) (k : Link) (n : Nat) (d : TxDyn) (c : Ctl) :
    interlockCondition (recorded clock k n d c) n = (d.live && unsupported c n) := by
  have hlive : txLive (recorded clock k n d c) n = d.live := by simp [txLive, txDyn, recorded]
  rw [interlockCondition, hlive]
  rfl

theorem recordIdle_recorded {clock : Millis} {k : Link} {d : TxDyn} (h : Calm c) (hq : k.plantQueue = [])
    (ho : d.owner ≠ .operations) (hi : (d.live && unsupported c n) = false) :
    RecordIdle (recorded clock k n d c) n where
  queue := hq
  noStop := h.noStop
  owner := fun x hx => by
    have hd : txDyn (recorded clock k n d c) n = some d := tget_tset_same n d c.gate.tx
    rw [hd] at hx
    exact Option.some.inj hx ▸ ho
  noContext := h.noContext
  moves := h.moveEmpty
  interlock := (interlockCondition_recorded ..).trans hi

/-- A command that sets a transmitter's record, with more due than follows that, all of which finds nothing to do. -/
theorem act_recorded {f : Ctl → Ctl} {clock : Millis} {k : Link} {d : TxDyn} {report : Bool} {before b : Ctl}
    {more : List Signal} (h : Calm s.ctl)
    (hf : f s.ctl = { recorded clock k n d s.ctl with agenda := recordSignals n report before b ++ more })
    (hq : k.plantQueue = []) (ho : d.owner ≠ .operations) (hi : (d.live && unsupported s.ctl n) = false)
    (hm : ∀ x ∈ more, Inert x (recorded clock k n d s.ctl)) (hl : more.length ≤ 2)
    (hops : k.opsTx = s.ctl.link.opsTx ∧ k.opsHeldOff = s.ctl.link.opsHeldOff) :
    act f s = .next { s with ctl := recorded clock k n d s.ctl } := by
  have hidle : RecordIdle (recorded clock k n d s.ctl) n := recordIdle_recorded h hq ho hi
  have hinert : ∀ x ∈ recordSignals n report before b ++ more, Inert x (recorded clock k n d s.ctl) := by
    intro x hx
    rcases List.mem_append.mp hx with hx | hx
    · exact hidle.inert report before b x hx
    · exact hm x hx
  have hlen := length_recordSignals n report before b
  have step := act_inert hf hinert (inert_columns h.noContext)
    (by simp only [List.length_append]; omega)
    (opsChoose_taken (by
      show (k.opsTx.isSome || k.opsHeldOff) = true
      rw [hops.1, hops.2]; exact h.opsTaken))
  have hempty : ({ recorded clock k n d s.ctl with agenda := [] } : Ctl) = recorded clock k n d s.ctl := by
    show ({ recorded clock k n d s.ctl with agenda := [] } : Ctl) =
      { recorded clock k n d s.ctl with agenda := s.ctl.agenda }
    rw [h.settled]
  exact hempty ▸ step

/-! ## The end of an exchange -/

/-- The first consequence is carried out. -/
theorem settle_cons (fuel : Nat) (x : Signal) (l : List Signal) (c : Ctl) :
    settle (fuel + 1) { c with agenda := x :: l } =
      settle fuel (noteColumns { c with agenda := x :: l } (handle x { c with agenda := l })) := rfl

/-- The occupied port does not choose, and the origin of the exchange consumes its end. -/
theorem settle_ended {e : Entry} {o : Option Outcome} {code : Nat} (fuel : Nat) (hport : c.link.plantTx.isSome = true)
    (he : exchangeEnded e o code { c with agenda := [] } = c')
    (hc' : c'.matrix.paths = c.matrix.paths ∧ c'.gate.tx = c.gate.tx) :
    settle (fuel + 2) { c with agenda := [.port, .ended e o code] } = settle fuel c' := by
  have hh : handle (.ended e o code) { c with agenda := [] } = c' := he
  have hn : ∀ l m, noteColumns { c with agenda := l } { c with agenda := m } = { c with agenda := m } :=
    fun _ _ => noteColumns_of rfl rfl
  have hn' : ∀ l, noteColumns { c with agenda := l } c' = c' := fun _ => noteColumns_of hc'.1 hc'.2
  rw [settle_cons, inert_port (c := c) hport, hn, settle_cons, hh, hn']

/-- A step that the end of an exchange is due in: its origin consumes it, and what that leaves due finds nothing to do. -/
theorem act_ended {f : Ctl → Ctl} {e : Entry} {o : Option Outcome} {code : Nat}
    (hf : f s.ctl = { c with agenda := [.port, .ended e o code] }) (hport : c.link.plantTx.isSome = true)
    (he : exchangeEnded e o code { c with agenda := [] } = c') (hi : ∀ x ∈ c'.agenda, Inert x c')
    (hl : c'.agenda.length ≤ 16382) (hc : c.matrix.paths = s.ctl.matrix.paths ∧ c.gate.tx = s.ctl.gate.tx)
    (hc' : c'.matrix.paths = c.matrix.paths ∧ c'.gate.tx = c.gate.tx)
    (ho : (c'.link.opsTx.isSome || c'.link.opsHeldOff) = true) :
    act f s = .next { s with ctl := { c' with agenda := [] } } := by
  have hsettle : settle settleLimit { c with agenda := [.port, .ended e o code] } = { c' with agenda := [] } :=
    (settle_ended 16382 hport he hc').trans (settle_inert 16382 c' hi hl)
  rw [act_unnoted (by rw [hf]; exact hc.1) (by rw [hf]; exact hc.2), hf, finish, hsettle,
    opsChoose_taken (c := { c' with agenda := [] }) ho]

/-- Only an order that positions has a job behind it. -/
theorem jobOf_none_of_verb {e : Entry} (hs : ∀ b, e.verb ≠ .slew b) (hi : ∀ i, e.verb ≠ .steer i) :
    jobOf c (entryFrame e) = none := by
  have hno : ∀ j, ordersJob (entryFrame e) j = false := by
    intro j
    have ht : targetVerb j.target ≠ some e.verb := by
      cases ht : j.target with
      | bearing b => exact fun h => hs b (Option.some.inj h).symm
      | index i => exact fun h => hi i (Option.some.inj h).symm
      | none => simp [targetVerb]
    simp [ordersJob, entryFrame, ht]
  simp only [jobOf, hno]
  split
  · rfl
  · split <;> rfl

/-- The end of an exchange of operations origin that no job is behind changes nothing. -/
theorem exchangeEnded_noJob {e : Entry} {o : Option Outcome} {code st tag : Nat} (ho : e.origin = .ops st tag)
    (h : jobOf c (entryFrame e) = none) : exchangeEnded e o code c = c := by
  simp only [exchangeEnded, ho, jobExchangeEnded, h]

/-- An OPERATIONS job whose order has left the plant port, and of which no other order is outstanding. -/
structure JobSent (c : Ctl) (e : Entry) (st tag a : Nat) (d : AntDyn) (j : Job) : Prop where
  origin : e.origin = .ops st tag
  drive : antOfDrive c.site.work e.station = some a
  record : antDyn c a = some d
  job : d.job = some j
  requester : j.requester = .operations { station := st, tag := tag }
  target : targetVerb j.target = some e.verb
  sent : j.stage = .sent
  alone : ∀ x ∈ c.link.table, x.station = e.station → x.origin = e.origin →
    (∀ b, x.verb ≠ .slew b) ∧ ∀ i, x.verb ≠ .steer i

variable {e : Entry} {st tag a : Nat} {d : AntDyn} {j : Job}

theorem JobSent.jobOf (h : JobSent c e st tag a d j) : jobOf c (entryFrame e) = some (a, j) := by
  have hd : antOfDrive c.site.work (entryFrame e).dest = some a := h.drive
  have ho : ordersJob (entryFrame e) j = true := by
    simp [ordersJob, entryFrame, requesterOf, h.origin, h.requester, h.target]
  simp only [Machine.jobOf, hd, h.record, Option.bind_some, h.job, ho, if_true]

theorem JobSent.stands (h : JobSent c e st tag a d j) :
    (j.stage = .sent && !c.link.table.any (fun x => positionsFor e.station e.origin (entryFrame x))) = true := by
  have hno : c.link.table.any (fun x => positionsFor e.station e.origin (entryFrame x)) = false := by
    rw [List.any_eq_false]
    intro x hx hp
    simp only [positionsFor, entryFrame, Bool.and_eq_true, beq_iff_eq] at hp
    obtain ⟨⟨hstation, horigin⟩, hverb⟩ := hp
    obtain ⟨hs, hi⟩ := h.alone x hx hstation horigin
    split at hverb
    · next b hb => exact hs b hb
    · next i hb => exact hi i hb
    · exact Bool.false_ne_true hverb
  simp [h.sent, hno]

theorem setJob_eq (h : antDyn c a = some d) (x : Option Job) :
    setJob a x c = { c with aerial := tset a { d with job := x } c.aerial } := by
  have hd : tget a c.aerial = some d := h
  simp only [setJob, Ctl.onAerial, tmod_some _ hd]

/-- The order of an OPERATIONS job was answered DONE or ACCEPTED (R99). -/
theorem JobSent.answered {o : Outcome} {code : Nat} (h : JobSent c e st tag a d j) (hg : o.good = true) :
    exchangeEnded e (some o) code c =
      { c with aerial := tset a { d with job := some { j with stage := .answered } } c.aerial } := by
  simp only [exchangeEnded, h.origin, jobExchangeEnded, h.jobOf]
  rw [if_pos (by rw [← h.origin]; exact h.stands)]
  cases o with
  | done => exact setJob_eq h.record _
  | accepted => exact setJob_eq h.record _
  | refused => cases hg

/-- The order of an OPERATIONS job was refused, or not answered (R99). -/
theorem JobSent.ends {o : Option Outcome} {code : Nat} (h : JobSent c e st tag a d j) (ho : o = some .refused ∨ o = none) :
    exchangeEnded e o code c = setJob a none c := by
  simp only [exchangeEnded, h.origin, jobExchangeEnded, h.jobOf]
  rw [if_pos (by rw [← h.origin]; exact h.stands)]
  rcases ho with rfl | rfl <;> simp only [endJob, h.requester]

end Sys2Proof.Proofs
end

section
/-! STATUS frames of the plant stations: each restores its station's answer state and sets the record of the block that keeps
its class (R19, R34, R61, R68, R69, R93, R100). -/

namespace Sys2Proof.Proofs
open Sys2Proof.Machine Sys2Proof.Laws

variable {s : State} {c : Ctl} {f : PlantFrame} {n a : Nat} {r : TxReport} {d : TxDyn}

/-! ## Frames that end at the plant port -/

/-- A frame from a plant station restores its answer state. -/
def heard (f : PlantFrame) (c : Ctl) : Ctl := { c with link := hearing f.src c.link }

theorem stationHeard_running {addr : Nat} (h : c.start.phase = .running) :
    stationHeard addr c = { c with link := hearing addr c.link } := by
  have hsurvey : c.start.phase ≠ .survey := by simp [h]
  simp only [stationHeard, if_neg hsurvey]
  rfl

theorem status_ends {k : StationClass} (hrun : c.start.phase = .running)
    (hc : stationClass c.site.work f.src = some k) :
    plantFrameEnds (statusFrame f) c = plantStatus k (statusFrame f) (heard f c) := by
  have hc' : stationClass c.site.work (statusFrame f).src = some k := hc
  simp only [plantFrameEnds, hc', stationHeard_running hrun]
  rfl

theorem answer_ends {k : StationClass} (hrun : c.start.phase = .running)
    (hc : stationClass c.site.work f.src = some k) :
    plantFrameEnds (answerFrame f) c = plantAnswer k (answerFrame f) (heard f c) := by
  have hc' : stationClass c.site.work (answerFrame f).src = some k := hc
  simp only [plantFrameEnds, hc', stationHeard_running hrun]
  rfl

/-! ## Transmitters -/

/-- A transmitter is recorded ON exactly when reported on without trip (R61). -/
def reportedOn (r : TxReport) : Bool := r.carrierOn && !r.trip

/-- The record after a report, where no CARRIER_ON is under way (R61). -/
def afterReport (r : TxReport) (d : TxDyn) : TxDyn :=
  { d with
    carrier := if reportedOn r then .on else .off, outstanding := false, outRestore := none, tune := r.tune
    tuneRestore := none, freq := r.freq, power := r.power, reportedLocal := r.localControl
    interlockSent := reportedOn r && d.interlockSent }

theorem reportedTx_free (r : TxReport) (d : TxDyn) : reportedTx r false d = afterReport r d := by
  cases hon : r.carrierOn && !r.trip <;>
    simp [reportedTx, afterReport, reportedOn, settleInterlock, TxDyn.live, hon]

theorem afterReport_live (r : TxReport) (d : TxDyn) : (afterReport r d).live = reportedOn r := by
  cases hon : reportedOn r <;> simp [TxDyn.live, afterReport, hon]

theorem carrierOnUnderWay_none {k : Link} {station : Nat} (hq : k.plantQueue = [])
    (ht : ∀ e ∈ k.table, e.station ≠ station ∨ e.verb ≠ .carrierOn) : carrierOnUnderWay k station = false := by
  have htable : k.table.any (fun e => e.station == station && e.verb == .carrierOn) = false := by
    rw [List.any_eq_false]
    intro e he
    rcases ht e he with h | h <;> simp [h]
  simp [carrierOnUnderWay, hq, htable]

/-- A report sets its transmitter's record; held frames are looked at where the local flag becomes yes (R61, R63). -/
theorem applyTxReport_eq {st : TxStatic} (ha : c.agenda = []) (hs : txStatic c n = some st) (hd : txDyn c n = some d)
    (hw : carrierOnUnderWay c.link st.station = false) :
    ∃ more, (∀ x ∈ more, x = .recheckTx n) ∧ more.length ≤ 1 ∧ applyTxReport n r c =
      { recorded c.clock c.link n (afterReport r d) c with
        agenda := recordSignals n true c (recorded c.clock c.link n (afterReport r d) c) ++ more } := by
  have hset : modTx n (reportedTx r false) c = recorded c.clock c.link n (afterReport r d) c := by
    have hd' : tget n c.gate.tx = some d := hd
    rw [← reportedTx_free]
    simp only [modTx, Ctl.onGate, tmod_some _ hd', recorded]
  have hafter := afterRecord_eq n true c (c := recorded c.clock c.link n (afterReport r d) c) ha
  by_cases hl : ((decide (n ∈ c.panel.cond.locals) || r.localControl) && !localFlag c n d) = true
  · refine ⟨[.recheckTx n], by simp, by simp, ?_⟩
    simp only [applyTxReport, hs, hd, hw, hset, hafter]
    exact if_pos hl
  · refine ⟨[], by simp, by simp, ?_⟩
    simp only [applyTxReport, hs, hd, hw, hset, hafter, List.append_nil]
    exact if_neg hl

theorem transmitterStatus_sets {st : TxStatic} (h : Calm s.ctl)
    (hc : stationClass s.ctl.site.work f.src = some .transmitter) (hn : txOfStation s.ctl.site.work f.src = some n)
    (hs : txStatic s.ctl n = some st) (hd : txDyn s.ctl n = some d) (hr : parseTxReport f.payload = some r)
    (hq : s.ctl.link.plantQueue = []) (ht : ∀ e ∈ s.ctl.link.table, e.station ≠ st.station ∨ e.verb ≠ .carrierOn)
    (ho : d.owner ≠ .operations) (hsup : reportedOn r = true → unsupported s.ctl n = false) :
    exec (.transmitterStatus f) s =
      .next { s with ctl := recorded s.ctl.clock (hearing f.src s.ctl.link) n (afterReport r d) s.ctl } := by
  have hends : plantFrameEnds (statusFrame f) s.ctl = applyTxReport n r (heard f s.ctl) := by
    have hn' : txOfStation (heard f s.ctl).site.work (statusFrame f).src = some n := hn
    have hr' : parseTxReport (statusFrame f).payload = some r := hr
    rw [status_ends h.running hc]
    simp only [plantStatus, hn', hr']
  obtain ⟨more, hmore, hlen, heq⟩ := applyTxReport_eq (c := heard f s.ctl) (r := r) h.settled hs hd
    (carrierOnUnderWay_none hq ht)
  have hidle : ((afterReport r d).live && unsupported s.ctl n) = false := by
    rw [afterReport_live]
    cases hon : reportedOn r with
    | false => rfl
    | true => exact hsup hon
  exact act_recorded h (hends.trans heq) hq ho hidle
    (fun x hx => hmore x hx ▸ inert_recheckTx (c := recorded _ _ n _ s.ctl) h.heldEmpty n) (by omega) ⟨rfl, rfl⟩

/-! ## Drives -/

/-- No path holds the antenna's column: nothing is unproved. -/
theorem applyDriveReport_eq {st : AntStatic} {x : AntDyn} {r : DriveReport} (hs : antStatic c a = some st)
    (hd : antDyn c a = some x) (hp : columnPaths c a = []) :
    applyDriveReport a r c = judgeJob a { c with aerial := tset a (reportedAnt st r x) c.aerial } := by
  have hmotion : actMotion a { c with aerial := tset a (reportedAnt st r x) c.aerial } =
      { c with aerial := tset a (reportedAnt st r x) c.aerial } := by
    have hp' : columnPaths { c with aerial := tset a (reportedAnt st r x) c.aerial } a = [] := hp
    rw [actMotion, hp']
    rfl
  simp only [applyDriveReport, hs, hd, Ctl.onAerial]
  split
  · rw [hmotion]
  · rfl

theorem judgeJob_none {x : AntDyn} (hd : antDyn c a = some x) (hj : x.job = none) : judgeJob a c = c := by
  simp only [judgeJob, hd, hj]

/-- An OPERATIONS job whose target the antenna stands at ends (R100). -/
theorem judgeJob_done {x : AntDyn} {j : Job} {ref : Ref} (hd : antDyn c a = some x) (hj : x.job = some j)
    (hr : j.requester = .operations ref) (hs : standsAt x j.target = true) :
    judgeJob a c = { c with aerial := tset a { x with job := none } c.aerial } := by
  have hm : x.motion = .still := by
    simp only [standsAt, Bool.and_eq_true, decide_eq_true_eq] at hs
    exact hs.1
  have hends : judgeJob a c = setJob a none c := by
    simp only [judgeJob, hd, hj, hm, hs, if_true, endJob, hr]
  exact hends.trans (setJob_eq hd none)

theorem reportedAnt_job (st : AntStatic) (r : DriveReport) (x : AntDyn) : (reportedAnt st r x).job = x.job := by
  unfold reportedAnt; split <;> rfl

theorem reportedAnt_eq {st : AntStatic} (r : DriveReport) (x : AntDyn)
    (hk : st.kind = .rotatable ∨ st.kind = .steerable) : reportedAnt st r x =
      if st.kind = .rotatable then
        { x with bearing := r.bearing.filter (fun b => decide (b < 3600)), motion := r.motion }
      else { x with
        steer := r.steer.filter (fun i => decide (1 ≤ i ∧ i ≤ (st.offsets.getD []).length)), motion := r.motion } := by
  rcases hk with hk | hk <;> simp [reportedAnt, hk]

theorem driveStatus_ends {st : AntStatic} {x : AntDyn} {r : DriveReport} (hrun : c.start.phase = .running)
    (hc : stationClass c.site.work f.src = some .drive) (ha : antOfDrive c.site.work f.src = some a)
    (hs : antStatic c a = some st) (hd : antDyn c a = some x) (hr : parseDriveReport f.payload = some r)
    (hp : columnPaths c a = []) : plantFrameEnds (statusFrame f) c =
      judgeJob a { heard f c with aerial := tset a (reportedAnt st r x) c.aerial } := by
  have ha' : antOfDrive (heard f c).site.work (statusFrame f).src = some a := ha
  have hr' : parseDriveReport (statusFrame f).payload = some r := hr
  rw [status_ends hrun hc]
  simp only [plantStatus, ha', hr']
  exact applyDriveReport_eq (c := heard f c) hs hd hp

/-! ## The matrix station -/

theorem tput_known {k : Nat} {x y : Xp} (t : Table Xp) (hx : x ≠ Xp.initial) (hy : y ≠ Xp.initial) :
    tput Xp.initial k y (tput Xp.initial k x t) = tput Xp.initial k y t := by
  simp only [tput, hx, hy, if_false, tset_tset]

/-- A crosspoint one of whose contacts is known. -/
def ContactKnown (x : Xp) : Prop := x.closedContact ≠ .unknown ∨ x.openContact ≠ .unknown

theorem ContactKnown.ne_initial {x : Xp} (h : ContactKnown x) : x ≠ Xp.initial := by
  rintro rfl
  rcases h with h | h <;> exact h rfl

theorem setXp_setXp {row col : Nat} {x y : Xp} (hx : ContactKnown x) (hy : ContactKnown y) :
    setXp row col y (setXp row col x c) = setXp row col y c := by
  simp only [setXp, Ctl.onMatrix, tput_known _ hx.ne_initial hy.ne_initial]

theorem xpAt_setXp (row col : Nat) (x : Xp) (c : Ctl) : xpAt (setXp row col x c) row col = x :=
  tget_tput_same Xp.initial x (xpKey row col) c.matrix.xps

/-- A sensor bit in the mirror of a crosspoint (R68). -/
def withBit (b : Nat) (v : Bool) (x : Xp) : Xp :=
  if b % 2 = 0 then { x with closedContact := contactOf v } else { x with openContact := contactOf v }

theorem contactKnown_withBit (b : Nat) (v : Bool) (x : Xp) : ContactKnown (withBit b v x) := by
  unfold withBit
  split
  · exact .inl (by cases v <;> simp [contactOf])
  · exact .inr (by cases v <;> simp [contactOf])

theorem withBit_state (b : Nat) (v : Bool) (x : Xp) : (withBit b v x).state = x.state := by
  unfold withBit; split <;> rfl

/-- The crosspoint as it follows its mirror, with no movement driving it (R69). -/
def followed (row col : Nat) (x : Xp) (c : Ctl) : Ctl :=
  match x.position with
  | .opened => setXp row col { x with state := .opened } c
  | .closed => setXp row col { x with state := .closed } c
  | .unknown => setXp row col x c
  | _ => setXp row col { x with state := .stuck } { c with
      link := withReport (reportNow c .xpStuck (.crosspoint row col) 0 0 none none) c.link }

theorem followMirror_holds {row col : Nat} {x : Xp} (h : x.state = .stuck ∨ x.state = .closing ∨ x.state = .opening) :
    followMirror row col (setXp row col x c) = setXp row col x c := by
  simp only [followMirror, xpAt_setXp]
  rcases h with h | h | h <;> simp only [h]

theorem becomeStuck_room {row col : Nat} {x : Xp} (hx : ContactKnown x) (hr : c.link.reports.length < 32) :
    becomeStuck row col (setXp row col x c) = setXp row col { x with state := .stuck } { c with
      link := withReport (reportNow c .xpStuck (.crosspoint row col) 0 0 none none) c.link } := by
  have hx' : ContactKnown { x with state := .stuck } := hx
  rw [becomeStuck, xpAt_setXp, setXp_setXp hx hx']
  exact raise_room hr

theorem followMirror_follows {row col : Nat} {x : Xp} (hx : ContactKnown x) (hr : c.link.reports.length < 32)
    (hstuck : x.state ≠ .stuck) (hclosing : x.state ≠ .closing) (hopening : x.state ≠ .opening) :
    followMirror row col (setXp row col x c) = followed row col x c := by
  have hopened : ContactKnown { x with state := .opened } := hx
  have hclosed : ContactKnown { x with state := .closed } := hx
  simp only [followMirror, followed, xpAt_setXp]
  cases hp : x.position with
  | opened => simp only [setXp_setXp hx hopened]
  | closed => simp only [setXp_setXp hx hclosed]
  | unknown => simp only []
  | transit => simp only [becomeStuck_room hx hr]
  | fault => simp only [becomeStuck_room hx hr]

/-- One sensor bit that changes nothing in the mirror. -/
theorem takeBits_unchanged {b : Nat} {v : Bool} (hb : coilBitInGeometry c.site.work b = true)
    (hp : c.matrix.paths = []) (h : withBit b v (xpAt c (xpRow (b / 2)) (xpCol (b / 2))) =
      xpAt c (xpRow (b / 2)) (xpCol (b / 2))) : takeBits [(b, v)] none c = c := by
  have hset : setContact (c, []) (b, v) = (c, []) := by
    simp only [setContact, hb, if_true]
    exact if_pos h
  simp [takeBits, hset, hp, forEach]

/-- One sensor bit that changes the mirror of a crosspoint no movement drives and no path stands on. -/
theorem takeBits_changed {b : Nat} {v : Bool} (hb : coilBitInGeometry c.site.work b = true)
    (hslots : c.matrix.slots = [])
    (h : withBit b v (xpAt c (xpRow (b / 2)) (xpCol (b / 2))) ≠ xpAt c (xpRow (b / 2)) (xpCol (b / 2)))
    {c' : Ctl} (hf : followMirror (xpRow (b / 2)) (xpCol (b / 2)) (setXp (xpRow (b / 2)) (xpCol (b / 2))
      (withBit b v (xpAt c (xpRow (b / 2)) (xpCol (b / 2)))) c) = c') (hp' : c'.matrix.paths = []) :
    takeBits [(b, v)] none c = pushOnce .arbiter c' := by
  have hset : setContact (c, []) (b, v) = (setXp (xpRow (b / 2)) (xpCol (b / 2))
      (withBit b v (xpAt c (xpRow (b / 2)) (xpCol (b / 2)))) c, [(xpRow (b / 2), xpCol (b / 2))]) := by
    simp only [setContact, hb, if_true]
    exact if_neg h
  have hdeal : dealMirror (xpRow (b / 2), xpCol (b / 2)) (setXp (xpRow (b / 2)) (xpCol (b / 2))
      (withBit b v (xpAt c (xpRow (b / 2)) (xpCol (b / 2)))) c) = c' := by
    have hno : drivingAt (setXp (xpRow (b / 2)) (xpCol (b / 2))
        (withBit b v (xpAt c (xpRow (b / 2)) (xpCol (b / 2)))) c) (xpRow (b / 2)) (xpCol (b / 2)) = none := by
      simp [drivingAt, setXp, Ctl.onMatrix, hslots]
    simp only [dealMirror, hno, hf]
  simp [takeBits, hset, forEach, hdeal, hp']

theorem matrixStatus_ends {b : Nat} {v : Bool} (hrun : c.start.phase = .running)
    (hc : stationClass c.site.work f.src = some .matrix) (hparse : parseMatrixStatus f.payload = some [(b, v)]) :
    plantFrameEnds (statusFrame f) c = takeBits [(b, v)] none (heard f c) := by
  have hparse' : parseMatrixStatus (statusFrame f).payload = some [(b, v)] := hparse
  rw [status_ends hrun hc]
  simp only [plantStatus, hparse']

theorem followed_keeps (row col : Nat) (x : Xp) (c : Ctl) : (followed row col x c).agenda = c.agenda ∧
    (followed row col x c).matrix.paths = c.matrix.paths ∧ (followed row col x c).matrix.queue = c.matrix.queue ∧
    (followed row col x c).gate = c.gate ∧ (followed row col x c).cu = c.cu ∧
    (followed row col x c).link.opsTx = c.link.opsTx ∧ (followed row col x c).link.opsHeldOff = c.link.opsHeldOff := by
  unfold followed
  split <;> exact ⟨rfl, rfl, rfl, rfl, rfl, rfl, rfl⟩

/-- A STATUS of the matrix station with one sensor bit that changes the mirror: the arbiter looks, and finds no request. -/
theorem matrixStatus_changes {b : Nat} {v : Bool} {c' : Ctl} (h : Calm s.ctl)
    (hc : stationClass s.ctl.site.work f.src = some .matrix) (hparse : parseMatrixStatus f.payload = some [(b, v)])
    (hb : coilBitInGeometry s.ctl.site.work b = true) (hp : s.ctl.matrix.paths = []) (hslots : s.ctl.matrix.slots = [])
    (hne : withBit b v (xpAt s.ctl (xpRow (b / 2)) (xpCol (b / 2))) ≠ xpAt s.ctl (xpRow (b / 2)) (xpCol (b / 2)))
    (hf : followMirror (xpRow (b / 2)) (xpCol (b / 2)) (setXp (xpRow (b / 2)) (xpCol (b / 2))
      (withBit b v (xpAt s.ctl (xpRow (b / 2)) (xpCol (b / 2)))) (heard f s.ctl)) = c')
    (hk : c'.agenda = s.ctl.agenda ∧ c'.matrix.paths = s.ctl.matrix.paths ∧ c'.matrix.queue = s.ctl.matrix.queue ∧
      c'.gate = s.ctl.gate ∧ c'.cu = s.ctl.cu ∧ c'.link.opsTx = s.ctl.link.opsTx ∧
      c'.link.opsHeldOff = s.ctl.link.opsHeldOff) : exec (.matrixStatus f) s = .next { s with ctl := c' } := by
  obtain ⟨hagenda, hpaths, hqueue, hgate, -, htx, hoff⟩ := hk
  have hnil : c'.agenda = [] := hagenda.trans h.settled
  have htake := takeBits_changed (c := heard f s.ctl) hb hslots hne hf (hpaths.trans hp)
  rw [pushOnce_new (by simp [hnil]), hnil, List.nil_append] at htake
  have step := act_unnoted_inert ((matrixStatus_ends h.running hc hparse).trans htake) hpaths (congrArg Gate.tx hgate)
    (fun x hx => by
      rw [List.mem_singleton.mp hx]
      exact inert_arbiter (c := { c' with agenda := [.arbiter] }) (hqueue.trans h.moveEmpty))
    (by simp) (by
      show (c'.link.opsTx.isSome || c'.link.opsHeldOff) = true
      rw [htx, hoff]; exact h.opsTaken)
  have hempty : ({ c' with agenda := [] } : Ctl) = c' := by rw [← hnil]
  rwa [hempty] at step

/-- Settles O43, class by class. -/
theorem statusFramesSetTheRecords : Obligations.StatusFramesSetTheRecords := by
  intro f s h
  refine ⟨?_, ?_, ?_, fun hc => ?_⟩
  case refine_1 =>
    intro n st d r hc hn hs hd hr hq ht ho on hsup
    exact transmitterStatus_sets h hc hn hs hd hr hq ht ho hsup
  case refine_2 =>
    intro a st x r hc ha hs hd hr hp hk x'
    have hx' : reportedAnt st r x = x' := reportedAnt_eq r x hk
    have hends := driveStatus_ends h.running hc ha hs hd hr hp
    rw [hx'] at hends
    have hjob : x'.job = x.job := by rw [← hx']; exact reportedAnt_job st r x
    have hdyn : antDyn { heard f s.ctl with aerial := tset a x' s.ctl.aerial } a = some x' := tget_tset_same a x' _
    refine ⟨fun hj => ?_, fun j ref hj href hstands => ?_⟩
    · exact act_settled (hends.trans (judgeJob_none hdyn (hjob.trans hj))) rfl rfl h.settled h.opsTaken
    · have hdone := judgeJob_done hdyn (hjob.trans hj) href hstands
      have hset : tset a { x' with job := none } (tset a x' s.ctl.aerial) = tset a { x' with job := none } s.ctl.aerial :=
        tset_tset ..
      simp only [hset] at hdone
      exact act_settled (hends.trans hdone) rfl rfl h.settled h.opsTaken
  case refine_3 =>
    intro b v hc hparse hb hslots hp hr row col x x' heard' becomes
    have hx' : withBit b v x = x' := rfl
    refine ⟨fun hsame => ?_, fun hne => ⟨fun hst => ?_, fun hstuck hclosing hopening => ?_⟩⟩
    · exact act_settled ((matrixStatus_ends h.running hc hparse).trans (takeBits_unchanged hb hp hsame)) rfl rfl
        h.settled h.opsTaken
    · have hst' : x'.state = .stuck ∨ x'.state = .closing ∨ x'.state = .opening := by
        rw [← hx', withBit_state]; exact hst
      exact matrixStatus_changes h hc hparse hb hp hslots hne (followMirror_holds hst') ⟨rfl, rfl, rfl, rfl, rfl, rfl, rfl⟩
    · have hstate : x'.state = x.state := by rw [← hx']; exact withBit_state b v x
      have hfollow := followMirror_follows (c := heard f s.ctl) (row := row) (col := col) (x := x')
        (contactKnown_withBit b v x) hr (hstate ▸ hstuck) (hstate ▸ hclosing) (hstate ▸ hopening)
      have step := matrixStatus_changes h hc hparse hb hp hslots hne hfollow (followed_keeps row col x' (heard f s.ctl))
      refine step.trans ?_
      unfold followed
      cases hpos : x'.position <;> rfl
  case refine_4 =>
    exact act_settled (status_ends h.running hc) rfl rfl h.settled h.opsTaken

end Sys2Proof.Proofs
end

section
/-! ANSWER frames of the plant stations (R30, R33, R62, R72, R99). What a transmitter's ANSWER DONE to POWER records is refuted
on site tables that list one transmitter number twice. -/

namespace Sys2Proof.Proofs
open Sys2Proof.Machine Sys2Proof.Laws

/-! ## One transmitter number listed twice -/

/-- A transmitter whose control unit has a plant address. -/
def listedAt (station : Nat) : TxStatic :=
  { station := station, row := 1, maxPower := 500, tm := 5, tu := 5, ti := 5, tb := 5, inService := true }

/-- Its record: carrier OFF and nothing under way. -/
def silentTx : TxDyn :=
  { carrier := .off, outstanding := false, outRestore := none, tune := .idle, tuneRestore := none, freq := none, power := none,
    reportedLocal := false, owner := .none, running := none, interlockSent := false }

/-- An outstanding POWER of the operations station 121 under tag 5. -/
def powerOrder (station kW : Nat) : Entry :=
  { tag := 5, station := station, addr := 121, origin := .ops 121 5, verb := .power kW, cls := .passed, sent := none }

/-- A calm controller whose site tables list transmitter 1 at address 10 and again at address 11, with a POWER outstanding to
each address under one tag. No SITE_WRITE makes such tables, but the statement takes every calm state. -/
def listedTwice : Ctl :=
  { Ctl.reset with
    link := { Link.initial with
      opsHeldOff := true
      plantTx := some { tag := 6, frame := { dest := 12, verb := .query, cls := .internal, origin := .au } }
      table := [powerOrder 11 100, powerOrder 10 200] }
    gate := { Ctl.reset.gate with tx := [(1, silentTx)] }
    site := { Ctl.reset.site with work := { Tables.erased with tx := [(1, listedAt 10), (1, listedAt 11)] } }
    store := { Ctl.reset.store with op := some (.erasePage .a 1) }
    start := { Ctl.reset.start with phase := .running } }

theorem listedTwice_calm : Calm listedTwice where
  settled := rfl
  opsTaken := rfl
  inputEmpty := rfl
  portTaken := rfl
  urgentEmpty := rfl
  internalEmpty := rfl
  heldEmpty := rfl
  carriersLive := fun _ hq => absurd hq (by simp [listedTwice, Link.initial])
  moveEmpty := rfl
  moveWaitingEmpty := rfl
  noBurst := rfl
  engineTaken := rfl
  planEmpty := rfl
  running := rfl
  noStop := rfl
  noContext := fun _ hp => absurd hp (by simp [listedTwice, Ctl.reset])

/-- The ANSWER DONE of the station at address 11 to its POWER of 100 kW. -/
def doneAt11 : PlantFrame := { dest := 121, src := 11, tag := 5, verb := 2, payload := [1#8] }

/-- The power setting that a step leaves recorded of transmitter 1. -/
def powerAfter : Host.Outcome State Fault Refusal → Option Nat
  | .next t => (txDyn t.ctl 1).bind (·.power)
  | _ => none

/-- The value recorded is that of the POWER outstanding to the address at which the tables first list the transmitter. -/
theorem doneAt11_records : powerAfter (exec (.transmitterAnswer doneAt11) { ctl := listedTwice, pending := [] }) = some 200 := by
  decide +kernel

/-- Refutes O44: the ANSWER DONE to POWER matches the exchange of its own station, 100 kW, but the value recorded is looked
up by the station of the transmitter's record, and where the site tables list the number of the transmitter twice, that is
another station, with another POWER outstanding under the tag. -/
theorem not_transmitterAnswersSetTheRecord : ¬ Obligations.TransmitterAnswersSetTheRecord := by
  intro h
  have hclaims := h doneAt11 { ctl := listedTwice, pending := [] } (powerOrder 11 100) 121 5 1 (listedAt 10) silentTx []
    listedTwice_calm rfl rfl rfl rfl rfl rfl rfl (fun _ _ => PlantVerb.noConfusion) rfl
    (by decide) (by decide)
  have hpower := (hclaims.2 (by decide)).1 100 rfl rfl rfl
  have hclaimed : powerAfter (exec (.transmitterAnswer doneAt11) { ctl := listedTwice, pending := [] }) = some 100 := by
    rw [hpower]; rfl
  rw [doneAt11_records] at hclaimed
  exact absurd hclaimed (by decide)

end Sys2Proof.Proofs
end

section
/-! ANSWER frames of drives, of the matrix station and of auxiliary stations reach their origin (R30, R33, R72, R99). -/

namespace Sys2Proof.Proofs
open Sys2Proof.Machine Sys2Proof.Laws

variable {s : State} {c : Ctl} {f : PlantFrame} {e : Entry} {o : Outcome} {first : Byte} {rest : List Byte}

/-! ## The exchange an ANSWER matches -/

/-- The exchange that an ANSWER belongs to, with its outcome: the ANSWER sets no record (R30). -/
structure Matches (c : Ctl) (f : PlantFrame) (k : StationClass) (e : Entry) (o : Outcome) : Prop where
  known : stationClass c.site.work f.src = some k
  found : c.link.table.find? (fun e => e.tag == f.tag && e.station == f.src && e.addr == f.dest) = some e
  outcome : ∃ first rest, f.payload = first :: rest ∧ outcomeOf first.toNat = some o
  unread : readAnswer k (answerFrame f) o (heard f c) = heard f c

theorem Matches.station {k : StationClass} (h : Matches c f k e o) : e.station = f.src := by
  have hp := List.find?_some h.found
  simp only [Bool.and_eq_true, beq_iff_eq] at hp
  obtain ⟨⟨-, hstation⟩, -⟩ := hp
  exact hstation

theorem Matches.ends {k : StationClass} (h : Matches c f k e o) (hrun : c.start.phase = .running) :
    plantFrameEnds (answerFrame f) c = matchedAnswer e (answerFrame f) o (heard f c) := by
  obtain ⟨first, rest, hpay, hout⟩ := h.outcome
  have hpay' : (answerFrame f).payload = first :: rest := hpay
  have hmatch : matchEntry (answerFrame f) (heard f c).link = some e := h.found
  rw [answer_ends hrun h.known, plantAnswer, hpay']
  simp only [hout, h.unread, hmatch]

/-- The refusal code that an ANSWER carries in its second octet. -/
def refusalCode (f : PlantFrame) : Nat := ((f.payload.drop 1).head?.map BitVec.toNat).getD 0

/-- The Link Interface after an ANSWER that ends its entry and is not forwarded. -/
def entryEnded (e : Entry) (f : PlantFrame) (k : Link) : Link :=
  { hearing f.src k with table := dropFirst (fun x => decide (x = e)) k.table }

/-- The entry ends, and the ANSWER goes into the place its order reserved (R30). -/
theorem matchedAnswer_ops {st tag : Nat} (ho : e.origin = .ops st tag) (hv : ∀ i k, e.verb ≠ .latchRead i k)
    (ha : c.agenda = []) : matchedAnswer e (answerFrame f) o (heard f c) =
      { c with link := withForwarded e f c.link, agenda := [.port, .ended e (some o) (refusalCode f)] } := by
  unfold matchedAnswer
  simp only [ho, push, forwardAnswer, endEntry, heard, Ctl.onLink, ha]
  rfl

/-- Only the operations side is forwarded an answer: the entry of another origin just ends (R30). -/
theorem matchedAnswer_own (ho : ∀ st tag, e.origin ≠ .ops st tag) (hv : ∀ i k, e.verb ≠ .latchRead i k)
    (ha : c.agenda = []) : matchedAnswer e (answerFrame f) o (heard f c) =
      { c with link := entryEnded e f c.link, agenda := [.port, .ended e (some o) (refusalCode f)] } := by
  unfold matchedAnswer
  split
  · next st tag hops => exact absurd hops (ho st tag)
  · split
    · next i k hread => exact absurd hread (hv i k)
    · simp only [push, endEntry, heard, Ctl.onLink, ha]
      rfl

/-! ## Drives -/

theorem verb_of_target {j : Job} {v : PlantVerb} (h : targetVerb j.target = some v) : ∀ i k, v ≠ .latchRead i k := by
  intro i k
  rintro rfl
  cases ht : j.target <;> simp [ht, targetVerb] at h

/-- What an ANSWER to the order of an OPERATIONS job does to the job is all that it does beside being forwarded. -/
theorem driveAnswer_forwards {st tag : Nat} {j : Job} {t : Table AntDyn} (h : Calm s.ctl) (hm : Matches s.ctl f .drive e o)
    (ho : e.origin = .ops st tag) (ht : targetVerb j.target = some e.verb)
    (he : ∀ code, exchangeEnded e (some o) code { s.ctl with link := withForwarded e f s.ctl.link, agenda := [] } =
      { s.ctl with link := withForwarded e f s.ctl.link, agenda := [], aerial := t }) :
    exec (.driveAnswer f) s = .next { s with ctl := { s.ctl with link := withForwarded e f s.ctl.link, aerial := t } } := by
  have hans := matchedAnswer_ops (c := s.ctl) (f := f) (o := o) ho (verb_of_target ht) h.settled
  have step := act_ended (c := { s.ctl with link := withForwarded e f s.ctl.link }) ((hm.ends h.running).trans hans)
    h.portTaken (he (refusalCode f)) (by simp) (by simp) ⟨rfl, rfl⟩ ⟨rfl, rfl⟩ h.opsTaken
  rwa [← h.settled] at step

/-- An ANSWER of a drive to another verb than QUERY sets no record. -/
theorem matches_drive (hc : stationClass c.site.work f.src = some .drive) (hv : f.verb ≠ 6)
    (hf : c.link.table.find? (fun e => e.tag == f.tag && e.station == f.src && e.addr == f.dest) = some e)
    (hpay : f.payload = first :: rest) (hout : outcomeOf first.toNat = some o) : Matches c f .drive e o where
  known := hc
  found := hf
  outcome := ⟨first, rest, hpay, hout⟩
  unread := if_neg (fun h => hv h.1)

/-! ## The matrix station -/

/-- The DONE of a CLEAR frees the slot that releases its coil, and the crosspoint's movement (R72). -/
theorem exchangeEnded_clear {slot code : Nat} {v : Movement} (ho : e.origin = .mi (.clear slot))
    (hv : e.verb = .latchClear (coilBit v.req)) (hslots : c.matrix.slots = [(slot, v)]) (hstage : v.stage = .releasingCoil)
    (hmove : (xpAt c v.req.row v.req.col).movement = some slot) (ha : c.agenda = []) :
    exchangeEnded e (some .done) code c =
      { setXp v.req.row v.req.col { xpAt c v.req.row v.req.col with movement := none } { c with
          matrix := { c.matrix with slots := [] } } with agenda := [.arbiter] } := by
  have hfind : c.matrix.slots.find? (fun s => s.2.stage == .releasingCoil && coilBit s.2.req == coilBit v.req) =
      some (slot, v) := by
    rw [hslots, List.find?_cons_of_pos (by simp [hstage])]
  have hget : tget slot c.matrix.slots = some v := by simp [hslots, tget]
  have herase : terase slot c.matrix.slots = [] := by simp [hslots, terase]
  simp only [exchangeEnded, ho, miEnded, hv, coilCleared, hfind, freeSlot, hget, hmove, if_true, Ctl.onMatrix, herase]
  rw [pushOnce_new (by simp [setXp, Ctl.onMatrix, ha])]
  simp [setXp, Ctl.onMatrix, ha]

/-! ## Auxiliary stations -/

theorem antOfDrive_auxiliary {addr : Nat} (h : stationClass c.site.work addr = some .auxiliary) :
    antOfDrive c.site.work addr = none := by
  unfold stationClass at h
  split at h
  · simp at h
  · split at h
    · simp at h
    · next hno => simpa using hno

/-- An ANSWER that matches no exchange (R33). -/
theorem strayAnswer_ends {k : StationClass} (hrun : c.start.phase = .running)
    (hc : stationClass c.site.work f.src = some k)
    (hf : c.link.table.find? (fun e => e.tag == f.tag && e.station == f.src && e.addr == f.dest) = none)
    (hpay : f.payload = first :: rest) (hout : outcomeOf first.toNat = some o)
    (hread : readAnswer k (answerFrame f) o (heard f c) = heard f c) :
    plantFrameEnds (answerFrame f) c = strayAnswer (answerFrame f) (heard f c) := by
  have hpay' : (answerFrame f).payload = first :: rest := hpay
  have hmatch : matchEntry (answerFrame f) (heard f c).link = none := hf
  rw [answer_ends hrun hc, plantAnswer, hpay']
  simp only [hout, hread, hmatch]

theorem strayAnswer_forwards (ht : f.tag < 128) (hlow : 121 ≤ f.dest) (hhigh : f.dest ≤ 126)
    (hroom : c.link.reserved + c.link.answers.length < 64) : strayAnswer (answerFrame f) (heard f c) =
      { c with link := withAnswer (forwarded f) (hearing f.src c.link) } := by
  have hops : isOpsAddress f.dest = true := by simp [isOpsAddress, Config.opsLow, Config.opsHigh, hlow, hhigh]
  have hplace : opsRoom (heard f c).link = true := decide_eq_true hroom
  have hgood : (answerFrame f).tag < 128 ∧ isOpsAddress (answerFrame f).dest = true := ⟨ht, hops⟩
  simp only [strayAnswer, if_pos hgood, forwardStray, hplace, if_true]
  rfl

theorem strayAnswer_dropped (h : 128 ≤ f.tag ∨ f.dest < 121 ∨ 126 < f.dest) :
    strayAnswer (answerFrame f) c = c := by
  refine if_neg (fun hgood => ?_)
  have ht : f.tag < 128 := hgood.1
  have hd : isOpsAddress f.dest = true := hgood.2
  have hlow : 121 ≤ f.dest := of_decide_eq_true (Bool.and_eq_true_iff.mp hd).1
  have hhigh : f.dest ≤ 126 := of_decide_eq_true (Bool.and_eq_true_iff.mp hd).2
  omega

/-- The three outcomes an ANSWER may begin with (R30). -/
theorem outcome_of_payload (h : f.payload = 1#8 :: rest ∨ f.payload = 2#8 :: rest ∨ f.payload = 3#8 :: rest) :
    ∃ first o, f.payload = first :: rest ∧ outcomeOf first.toNat = some o := by
  rcases h with h | h | h
  · exact ⟨_, .done, h, rfl⟩
  · exact ⟨_, .accepted, h, rfl⟩
  · exact ⟨_, .refused, h, rfl⟩

/-- Settles O45, class by class. -/
theorem otherAnswersReachTheirOrigin : Obligations.OtherAnswersReachTheirOrigin := by
  intro f s rest h found
  refine ⟨?_, ?_, fun hc hpay => ?_⟩
  case refine_1 =>
    intro e st tag a d j hc hv hf ho hant hdyn hjob hreq htarget hstage halone
    have hsent : ∀ o, Matches s.ctl f .drive e o →
        JobSent { s.ctl with link := withForwarded e f s.ctl.link, agenda := [] } e st tag a d j := fun o hm =>
      ⟨ho, by rw [hm.station]; exact hant, hdyn, hjob, hreq, htarget, hstage, halone⟩
    refine ⟨fun hpay => ?_, fun hpay => ?_⟩
    · have hgood : ∀ o, Matches s.ctl f .drive e o → o.good = true → _ := fun o hm hg =>
        driveAnswer_forwards h hm ho htarget (fun code => (hsent o hm).answered hg)
      rcases hpay with hpay | hpay
      · exact hgood .done (matches_drive hc hv hf hpay rfl) rfl
      · exact hgood .accepted (matches_drive hc hv hf hpay rfl) rfl
    · have hm : Matches s.ctl f .drive e .refused := matches_drive hc hv hf hpay rfl
      exact driveAnswer_forwards h hm ho htarget
        (fun code => ((hsent .refused hm).ends (.inl rfl)).trans (setJob_eq (hsent .refused hm).record none))
  case refine_2 =>
    intro e slot v hc hf ho hv hslots hstage hmove hpay
    have hm : Matches s.ctl f .matrix e .done := ⟨hc, hf, ⟨_, _, hpay, rfl⟩, rfl⟩
    have hans := matchedAnswer_own (c := s.ctl) (f := f) (o := .done) (e := e) (by simp [ho]) (by simp [hv]) h.settled
    have step := act_ended (c := { s.ctl with link := entryEnded e f s.ctl.link }) ((hm.ends h.running).trans hans)
      h.portTaken (exchangeEnded_clear ho hv hslots hstage hmove rfl)
      (fun x hx => by rw [List.mem_singleton.mp hx]; exact inert_arbiter h.moveEmpty) (by simp) ⟨rfl, rfl⟩ ⟨rfl, rfl⟩
      h.opsTaken
    refine step.trans ?_
    rw [← h.settled]
    rfl
  case refine_3 =>
    obtain ⟨first, o, hfirst, hout⟩ := outcome_of_payload hpay
    refine ⟨fun e st tag hf ho hread => ?_, fun hf => ⟨fun ht hlow hhigh hroom => ?_, fun hbad => ?_⟩⟩
    · have hm : Matches s.ctl f .auxiliary e o := ⟨hc, hf, ⟨_, _, hfirst, hout⟩, rfl⟩
      have hans := matchedAnswer_ops (c := s.ctl) (f := f) (o := o) ho hread h.settled
      have hno : jobOf { s.ctl with link := withForwarded e f s.ctl.link, agenda := [] } (entryFrame e) = none := by
        have hant : antOfDrive s.ctl.site.work (entryFrame e).dest = none := by
          rw [show (entryFrame e).dest = f.src from hm.station]; exact antOfDrive_auxiliary hc
        simp only [jobOf, hant]
      have step := act_ended (c := { s.ctl with link := withForwarded e f s.ctl.link }) ((hm.ends h.running).trans hans)
        h.portTaken (exchangeEnded_noJob ho hno) (by simp) (by simp) ⟨rfl, rfl⟩ ⟨rfl, rfl⟩ h.opsTaken
      rwa [← h.settled] at step
    · exact act_settled ((strayAnswer_ends h.running hc hf hfirst hout rfl).trans
        (strayAnswer_forwards ht hlow hhigh hroom)) rfl rfl h.settled h.opsTaken
    · exact act_settled ((strayAnswer_ends h.running hc hf hfirst hout rfl).trans (strayAnswer_dropped hbad)) rfl rfl
        h.settled h.opsTaken

end Sys2Proof.Proofs
end

section
/-! The answer timer, the hold and the idle timer of a burst run out (R31, R32, R59, R62, R99, R145, R149). -/

namespace Sys2Proof.Proofs
open Sys2Proof.Machine Sys2Proof.Laws

variable {s : State} {c : Ctl} {e : Entry} {st tag n a : Nat} {t : Millis} {d : TxDyn}

/-! ## The answer timer -/

/-- The Link Interface after an entry has ended by its timer, before its order is answered: a station not silent before
becomes silent, with its alarm (R31, R32). -/
def silencedLink (e : Entry) (c : Ctl) : Link :=
  let table := dropFirst (fun x => decide (x = e)) c.link.table
  if e.station ∈ c.link.silent then { c.link with table := table }
  else withReport (reportNow c .stationNoAnswer (.station e.station) 0 0 none none)
    { c.link with table := table, silent := nins e.station c.link.silent }

/-- The Link Interface after the order has been answered NO_ANSWER in the place that it reserved (R31). -/
def unansweredLink (e : Entry) (st tag : Nat) (c : Ctl) : Link :=
  withAnswer (ownAnswer st tag e.verb.code 3 17 []) { silencedLink e c with reserved := c.link.reserved - 1 }

/-- The controller after an answer timer, started at `t`, has run out, without what the station's class adds. -/
def unanswered (e : Entry) (t : Millis) (st tag : Nat) (c : Ctl) : Ctl :=
  { c with clock := max c.clock (t + 2000), link := unansweredLink e st tag c }

theorem silencedLink_keeps (e : Entry) (c : Ctl) : (silencedLink e c).plantQueue = c.link.plantQueue ∧
    (silencedLink e c).table = dropFirst (fun x => decide (x = e)) c.link.table ∧
    (silencedLink e c).plantTx = c.link.plantTx ∧ (silencedLink e c).reserved = c.link.reserved ∧
    (silencedLink e c).opsTx = c.link.opsTx ∧ (silencedLink e c).opsHeldOff = c.link.opsHeldOff := by
  unfold silencedLink
  split <;> exact ⟨rfl, rfl, rfl, rfl, rfl, rfl⟩

/-- The entry ends and the station falls silent (R31, R32). -/
theorem stationSilent_endEntry (hr : c.link.reports.length < 32) :
    stationSilent e.station (endEntry e (clockReaches t c)) =
      { c with clock := max c.clock t, link := silencedLink e c } := by
  unfold stationSilent silencedLink
  by_cases hs : e.station ∈ c.link.silent
  · rw [if_pos hs]
    exact if_pos hs
  · rw [if_neg hs]
    exact (if_neg hs).trans (raise_room hr)

theorem answerRefused_silenced {c' : Ctl} (st tag : Nat) (h : c'.link = silencedLink e c) :
    answerRefused st tag e.verb.code 17 [] c' = { c' with link := unansweredLink e st tag c } := by
  have hreserved : c.link.reserved = c'.link.reserved := by
    obtain ⟨-, -, -, hres, -, -⟩ := silencedLink_keeps e c
    rw [h, hres]
  unfold unansweredLink
  rw [← h, hreserved]
  rfl

theorem answerTimeout_none (h : ∀ e ∈ c.link.table, e.sent = none) : answerTimeout c = c := by
  have hfind : c.link.table.find? (fun e => e.sent.isSome) = none := by
    rw [List.find?_eq_none]
    intro e he
    simp [h e he]
  simp only [answerTimeout, hfind]

/-- The oldest running answer timer is that of an order of an operations station. -/
structure TimesOut (c : Ctl) (e : Entry) (t : Millis) (st tag : Nat) : Prop where
  oldest : c.link.table.find? (fun e => e.sent.isSome) = some e
  sent : e.sent = some t
  origin : e.origin = .ops st tag
  room : c.link.reports.length < 32

theorem TimesOut.answerTimeout (h : TimesOut c e t st tag) : answerTimeout c =
    push [.port, .ended e none 17] (answerRefused st tag e.verb.code 17 [] (applyTxTimeout e
      { c with clock := max c.clock (t + 2000), link := silencedLink e c })) := by
  rw [← stationSilent_endEntry h.room]
  simp only [Machine.answerTimeout, h.oldest, entryTimedOut, h.sent, h.origin]
  rfl

/-- The order is no transmitter's: the end of its exchange is all that is due. -/
theorem TimesOut.other (h : TimesOut c e t st tag) (hn : txOfStation c.site.work e.station = none)
    (ha : c.agenda = []) :
    Machine.answerTimeout c = { unanswered e t st tag c with agenda := [.port, .ended e none 17] } := by
  rw [h.answerTimeout]
  simp only [applyTxTimeout, hn]
  rw [answerRefused_silenced (c := c) st tag rfl]
  simp only [push, unanswered, ha, List.nil_append]

/-- The order is a transmitter's: its record is set, and what follows that is due too (R62). -/
theorem TimesOut.transmitter (h : TimesOut c e t st tag) (hn : txOfStation c.site.work e.station = some n)
    (hd : txDyn c n = some d) (ha : c.agenda = []) : ∃ before b, Machine.answerTimeout c =
      { recorded (max c.clock (t + 2000)) (unansweredLink e st tag c) n
          (timedOutTx e.verb (carrierOnUnderWay (silencedLink e c) e.station) d) c with
        agenda := recordSignals n false before b ++ [.port, .ended e none 17] } := by
  have hset : ∀ f, modTx n f { c with clock := max c.clock (t + 2000), link := silencedLink e c } =
      recorded (max c.clock (t + 2000)) (silencedLink e c) n (f d) c := by
    intro f
    have hd' : tget n c.gate.tx = some d := hd
    simp only [modTx, Ctl.onGate, tmod_some _ hd', recorded]
  rw [h.answerTimeout]
  simp only [applyTxTimeout, hn, h.origin]
  rw [hset, afterRecord_eq _ _ _ (c := recorded _ _ n _ c) ha]
  rw [answerRefused_silenced (c := c) st tag rfl]
  exact ⟨_, _, rfl⟩

/-- The end of the exchange is consumed by the job behind it, if one is. -/
theorem TimesOut.ends_other {t' : Table AntDyn} (h : TimesOut s.ctl e t st tag) (hs : Still s.ctl)
    (hport : s.ctl.link.plantTx.isSome = true) (hn : txOfStation s.ctl.site.work e.station = none)
    (he : exchangeEnded e none 17 { unanswered e t st tag s.ctl with agenda := [] } =
      { unanswered e t st tag s.ctl with agenda := [], aerial := t' }) :
    exec .answerTimeout s = .next { s with ctl := { unanswered e t st tag s.ctl with aerial := t' } } := by
  obtain ⟨-, -, htx, -, hops, hoff⟩ := silencedLink_keeps e s.ctl
  have step := act_ended (c := unanswered e t st tag s.ctl) (h.other hn hs.settled) (htx ▸ hport) he (by simp) (by simp)
    ⟨rfl, rfl⟩ ⟨rfl, rfl⟩ (by
      show ((silencedLink e s.ctl).opsTx.isSome || (silencedLink e s.ctl).opsHeldOff) = true
      rw [hops, hoff]; exact hs.opsTaken)
  refine step.trans ?_
  rw [← hs.settled]
  rfl

theorem TimesOut.ends_noJob (h : TimesOut s.ctl e t st tag) (hs : Still s.ctl)
    (hport : s.ctl.link.plantTx.isSome = true) (hn : txOfStation s.ctl.site.work e.station = none)
    (hj : jobOf s.ctl (entryFrame e) = none) :
    exec .answerTimeout s = .next { s with ctl := unanswered e t st tag s.ctl } :=
  h.ends_other hs hport hn (exchangeEnded_noJob h.origin hj)

/-- No job is behind an order to a transmitter: its record and what follows are all (R62). -/
theorem TimesOut.ends_transmitter {d' : TxDyn} (h : TimesOut s.ctl e t st tag) (hc : Calm s.ctl)
    (hn : txOfStation s.ctl.site.work e.station = some n) (hd : txDyn s.ctl n = some d) (hq : s.ctl.link.plantQueue = [])
    (ho : d'.owner ≠ .operations) (hi : (d'.live && unsupported s.ctl n) = false)
    (hslew : ∀ b, e.verb ≠ .slew b) (hsteer : ∀ i, e.verb ≠ .steer i)
    (hd' : timedOutTx e.verb (carrierOnUnderWay (silencedLink e s.ctl) e.station) d = d') :
    exec .answerTimeout s = .next { s with ctl := { unanswered e t st tag s.ctl with
      gate := { s.ctl.gate with tx := tset n d' s.ctl.gate.tx } } } := by
  obtain ⟨before, b, heq⟩ := h.transmitter hn hd hc.settled
  rw [hd'] at heq
  obtain ⟨hqueue, -, htx, -, hops, hoff⟩ := silencedLink_keeps e s.ctl
  refine act_recorded hc heq (hqueue.trans hq) ho hi (fun x hx => ?_) (by simp) ⟨hops, hoff⟩
  rcases List.mem_pair.mp hx with rfl | rfl
  · exact inert_port (htx ▸ hc.portTaken)
  · exact inert_ended_ops h.origin (jobOf_none_of_verb hslew hsteer)

/-! ## The hold -/

theorem holdExpiry_refuses {h : Held} {rest : List Held} (hh : c.gate.held = h :: rest) (ho : h.frame.origin = .ops st tag) :
    holdExpiry c = { c with
      clock := max c.clock (h.since + 20000)
      link := withAnswer (ownAnswer st tag h.frame.verb.code 3 (match h.waits with | .path => 7 | .power => 15) [])
        { c.link with reserved := c.link.reserved - 1 }
      gate := { c.gate with held := rest } } := by
  have hdrop : dropFirst (fun x => decide (x = h)) (h :: rest) = rest := by simp [dropFirst]
  simp only [holdExpiry, hh, refuseBy, refuseFrame, ho, dropHeld, Ctl.onGate, clockReaches, hdrop]
  cases h.waits <;> rfl

/-! ## The idle timer of a burst -/

/-- The code that an abandoned burst's report gives: the first error's, or IDLE_TIMEOUT (R149). -/
def idleCode (l : Load) : Nat :=
  match l.firstError with
  | some e => e.reason.code
  | none => 32

/-- The controller after the idle timer, started at `t`, has run out: the burst's queued write has left the store queue, and
its result is reported (R145, R149). -/
def idled (t : Millis) (c : Ctl) : Ctl :=
  { c with
    clock := max c.clock (t + 60000)
    link := withReport (reportNow c .loadResult (.bank c.load.bank c.load.number) (idleCode c.load) 0
      (some c.load.received) none) c.link
    store := { c.store with queue := c.store.queue.filter (fun r => !isBurstWrite c.load.bank c.load.number r) }
    load := { c.load with state := .none, buffer := [], flow := none, hand := .none, idleFrom := none } }

/-- The end of a burst that no close waits for and whose commit has not been given to the store (R147). -/
theorem endBurst_reports {r : Reason} (hclose : c.load.close = none) (hcommit : c.load.commit = .none)
    (hr : c.link.reports.length < 32) : endBurst (some r) c = { c with
      link := withReport (reportNow c .loadResult (.bank c.load.bank c.load.number) r.code 0 (some c.load.received) none)
        c.link
      load := { c.load with state := .none, buffer := [], flow := none, hand := .none, idleFrom := none } } := by
  simp only [endBurst, answerClose, hclose, loadResult]
  rw [raise_room hr]
  simp only [Ctl.onLoad, Load.ended, hcommit]

theorem idleExpired_abandons (ht : c.load.idleFrom = some t) (hopen : c.load.state ≠ .none) (hcommit : c.load.commit = .none)
    (hclose : c.load.close = none) (herase : c.store.eraseJob = none) (hr : c.link.reports.length < 32)
    (ha : c.agenda = []) : idleExpired c = { idled t c with agenda := [.engine] } := by
  have hburst : c.load.isOpen = true := decide_eq_true hopen
  have hstore : dropBurstWrite c.load.bank c.load.number c.store = { c.store with
      queue := c.store.queue.filter (fun r => !isBurstWrite c.load.bank c.load.number r) } := by
    simp only [dropBurstWrite, herase, Option.map_none]
  simp only [idleExpired, ht, abandonBurst, clockReaches, hburst, hcommit, and_self, if_true, Ctl.onStore, hstore]
  rw [pushOnce_new (by simp [ha]), endBurst_reports]
  · unfold idled idleCode
    rw [ha]
    cases c.load.firstError <;> rfl
  · exact hclose
  · exact hcommit
  · exact hr

/-- Settles O48, timer by timer. -/
theorem waitsRunOut : Obligations.WaitsRunOut := by
  intro s hs
  refine ⟨?_, ?_, ?_, ?_, ?_, ?_⟩
  case refine_1 => exact fun h => act_unchanged hs (answerTimeout_none h)
  case refine_2 =>
    intro e t st tag hf ht ho hport hr ended unans
    have h : TimesOut s.ctl e t st tag := ⟨hf, ht, ho, hr⟩
    have hun : unans = unanswered e t st tag s.ctl := by
      simp only [unans, ended, unanswered, unansweredLink, silencedLink]
      split <;> rfl
    rw [hun]
    refine ⟨fun hn => ⟨fun hslew hsteer => ?_, fun a y ha hy => ⟨fun hj => ?_, fun j hj hreq hstage htarget halone => ?_⟩⟩,
      ?_⟩
    · exact h.ends_noJob hs hport hn (jobOf_none_of_verb hslew hsteer)
    · have ha' : antOfDrive s.ctl.site.work (entryFrame e).dest = some a := ha
      exact h.ends_noJob hs hport hn (by simp only [jobOf, ha', hy, Option.bind_some, hj])
    · have hsent : JobSent { unanswered e t st tag s.ctl with agenda := [] } e st tag a y j := by
        refine ⟨ho, ha, hy, hj, hreq, htarget, hstage, ?_⟩
        obtain ⟨-, htable, -⟩ := silencedLink_keeps e s.ctl
        show ∀ x ∈ (silencedLink e s.ctl).table, _
        rw [htable]
        exact halone
      exact h.ends_other hs hport hn (hsent.ends (.inr rfl))
    · intro n x d hc hn hx hd hown hq recorded
      have sets : ∀ {d' : TxDyn}, d'.owner = d.owner → (d'.live && unsupported s.ctl n) = false →
          (∀ b, e.verb ≠ .slew b) → (∀ i, e.verb ≠ .steer i) →
          timedOutTx e.verb (carrierOnUnderWay (silencedLink e s.ctl) e.station) d = d' →
          exec .answerTimeout s = recorded d' := fun howner => h.ends_transmitter hc hn hd hq (howner ▸ hown)
      refine ⟨fun hi => ?_, fun hv hsup halone => ?_⟩
      · have hidle : (d.live && unsupported s.ctl n) = false := by rwa [interlockCondition, txLive, hd] at hi
        refine ⟨fun p hv => ?_, fun f hv => ?_, fun hv => ?_⟩
        · exact sets rfl hidle (by simp [hv]) (by simp [hv]) (by rw [hv]; rfl)
        · exact sets rfl hidle (by simp [hv]) (by simp [hv]) (by rw [hv]; rfl)
        · rcases hv with hv | hv | ⟨k, hv⟩ <;> exact sets rfl hidle (by simp [hv]) (by simp [hv]) (by rw [hv]; rfl)
      · obtain ⟨hqueue, htable, -, -, -, -⟩ := silencedLink_keeps e s.ctl
        have hfree : carrierOnUnderWay (silencedLink e s.ctl) e.station = false :=
          carrierOnUnderWay_none (hqueue.trans hq) (htable ▸ halone)
        exact sets rfl (by simp [hsup]) (by simp [hv]) (by simp [hv]) (by rw [hv, hfree]; rfl)
  case refine_3 => exact fun h => act_unchanged hs (by simp only [holdExpiry, h])
  case refine_4 =>
    intro h rest st tag hh ho
    exact act_settled (holdExpiry_refuses hh ho) rfl rfl hs.settled hs.opsTaken
  case refine_5 => exact fun h => act_unchanged hs (by simp only [idleExpired, h])
  case refine_6 =>
    intro t ht hopen hcommit hclose hop herase hr
    have step := act_unnoted_inert (idleExpired_abandons ht hopen hcommit hclose herase hr hs.settled) rfl rfl
      (fun x hx => by rw [List.mem_singleton.mp hx]; exact inert_engine (c := _) hop) (by simp) hs.opsTaken
    have hsettled : ({ idled t s.ctl with agenda := [] } : Ctl) = idled t s.ctl := by rw [← hs.settled]; rfl
    rw [hsettled] at step
    exact step

end Sys2Proof.Proofs
end

section
/-! The checks of the Traffic Gate, and the orders to transmitters and drives that set something when they are passed: the
checks before the rule of the verb in their order (R45 to R47), what a passed CARRIER_ON and a passed SLEW or STEER have
found (R48, R53, R94), POWER clamped (R51), CARRIER_OFF in every phase (R45, R46, R52), and the OPERATIONS jobs of SLEW,
STEER and STOP (R53, R102). -/

namespace Sys2Proof.Proofs
open Sys2Proof.Machine Sys2Proof.Laws

variable {s : State} {o : PlantOrder} {c : Ctl} {f : PFrame} {n : Nat} {st : TxStatic} {d : TxDyn}

/-! ## The verdict at a transmitter (R44 to R47) -/

theorem gateVerdict_transmitter (hc : stationClass c.site.work f.dest = some .transmitter)
    (hn : txOfStation c.site.work f.dest = some n) (hst : txStatic c n = some st) (hd : txDyn c n = some d) :
    gateVerdict f c = transmitterVerdict c n st d f := by
  simp only [gateVerdict, hc, hn, hst, hd]

/-- A frame to a transmitter passes only where the transmitter has its records, and then by their checks. -/
theorem gateVerdict_transmitter_pass {v : PlantVerb} {clamped : Option (Nat × Nat)}
    (hc : stationClass c.site.work f.dest = some .transmitter) (h : gateVerdict f c = .pass v clamped) :
    ∃ n st d, txOfStation c.site.work f.dest = some n ∧ txStatic c n = some st ∧ txDyn c n = some d ∧
      transmitterVerdict c n st d f = .pass v clamped := by
  simp only [gateVerdict, hc] at h
  split at h
  · cases h
  · next n hn =>
    split at h
    · next st d hst hd => exact ⟨n, st, d, hn, hst, hd, h⟩
    · cases h

theorem fillsRecords_iff {o : Origin} {v : PlantVerb} : fillsRecords o v = true ↔ v = .query ∧ ownOrigin o = true := by
  simp [fillsRecords]

theorem transmitterVerdict_fills (h : fillsRecords f.origin f.verb = true) :
    transmitterVerdict c n st d f = .pass f.verb none := if_pos h

/-- Past the checks of the phase and of the panel stands the one of the owner, and behind it the rule of the verb. -/
theorem transmitterVerdict_running (hfill : fillsRecords f.origin f.verb = false) (hrun : c.start.phase = .running)
    (hl : localFlag c n d = false) : transmitterVerdict c n st d f =
      if ownedByOther d f.origin ∧ f.verb.code ≤ 3 then .refuse .owned else transmitterVerbVerdict c n st d f.verb := by
  simp [transmitterVerdict, hfill, hrun, hl]

section
variable (hfill : fillsRecords f.origin f.verb = false) (hcode : f.verb.code ≠ 4)
include hfill hcode

theorem transmitterVerdict_survey (hrun : c.start.phase ≠ .running) :
    transmitterVerdict c n st d f = .refuse .survey := by
  simp [transmitterVerdict, hfill, hcode, hrun]

theorem transmitterVerdict_local (hrun : c.start.phase = .running) (hl : localFlag c n d = true) :
    transmitterVerdict c n st d f = .refuse .localControl := by
  simp [transmitterVerdict, hfill, hcode, hrun, hl]

/-- A frame that passes has been through the rule of its verb, in RUNNING and with the transmitter not local. -/
theorem transmitterVerdict_pass {v : PlantVerb} {clamped : Option (Nat × Nat)}
    (h : transmitterVerdict c n st d f = .pass v clamped) :
    c.start.phase = .running ∧ localFlag c n d = false ∧ transmitterVerbVerdict c n st d f.verb = .pass v clamped := by
  by_cases hrun : c.start.phase = .running
  case neg => rw [transmitterVerdict_survey hfill hcode hrun] at h; cases h
  cases hl : localFlag c n d
  case true => rw [transmitterVerdict_local hfill hcode hrun hl] at h; cases h
  rw [transmitterVerdict_running hfill hrun hl] at h
  split at h
  · cases h
  · exact ⟨hrun, rfl, h⟩

end

/-- A CARRIER_OFF passes the checks of the phase, of the panel and of the owner (R45 to R47). -/
theorem transmitterVerdict_carrierOff (hv : f.verb = .carrierOff) :
    transmitterVerdict c n st d f = .pass .carrierOff none := by
  simp [transmitterVerdict, hv, fillsRecords, PlantVerb.code, transmitterVerbVerdict]

theorem localFlag_iff : localFlag c n d = true ↔ n ∈ c.panel.cond.locals ∨ d.reportedLocal = true := by
  simp [localFlag]

/-- Settles O15, check by check. -/
theorem transmitterChecksComeInOrder : Obligations.TransmitterChecksComeInOrder := by
  intro c f n st d hc hn hst hd
  rw [gateVerdict_transmitter hc hn hst hd]
  refine ⟨localFlag_iff, fun hcode hq => ?_, transmitterVerdict_carrierOff, fun hv ho => ?_⟩
  · have hfill : fillsRecords f.origin f.verb = false := by
      rw [Bool.eq_false_iff, Ne, fillsRecords_iff]
      rintro ⟨hv, ho⟩
      rw [hq hv] at ho
      cases ho
    refine ⟨transmitterVerdict_survey hfill hcode, transmitterVerdict_local hfill hcode,
      fun hrun hl k station tag hlow howner horigin => ?_⟩
    have hother : ownedByOther d f.origin = true := by simp only [ownedByOther, howner, horigin]
    rw [transmitterVerdict_running hfill hrun hl, if_pos ⟨hother, hlow⟩]
  · rw [transmitterVerdict_fills (fillsRecords_iff.mpr ⟨hv, ho⟩), hv]

/-! ## What a CARRIER_ON has found (R48) -/

/-- The CARRIER_ON check passes over a rated path alone. -/
theorem ratedPath_of_carrierOnVerdict_pass {v : PlantVerb} {clamped : Option (Nat × Nat)}
    (h : carrierOnVerdict c n st d = .pass v clamped) : ∃ p k, RatedPath c n d p k := by
  cases hstop : c.hall.inForce
  case true => simp [carrierOnVerdict, hstop] at h
  cases hp : rowPath c n
  case none => simp [carrierOnVerdict, hstop, hp] at h
  case some p =>
  cases hstate : p.state
  case releasing => simp [carrierOnVerdict, hstop, hp, hstate] at h
  all_goals cases hlock : lockedOut c p.ant
  case setting.false | unproven.false | setting.true | unproven.true | proven.true =>
    simp [carrierOnVerdict, hstop, hp, hlock, hstate] at h
  case proven.false =>
  cases hband : ratableBand c d
  case none => simp [carrierOnVerdict, hstop, hp, hlock, hstate, hband] at h
  case some k =>
  by_cases hrated : ratingOf c.site.work p.ant k = 0
  case pos => simp [carrierOnVerdict, hstop, hp, hlock, hstate, hband, hrated] at h
  case neg => exact ⟨p, k, ⟨hstop, hp, hlock⟩, hstate, hband, hrated⟩

/-- The CARRIER_ON check passes with the power setting within the clamp value, and rewrites nothing. -/
theorem carrierOnVerdict_pass {v : PlantVerb} {clamped : Option (Nat × Nat)}
    (h : carrierOnVerdict c n st d = .pass v clamped) :
    v = .carrierOn ∧ clamped = none ∧ ∃ p k kW, RatedPath c n d p k ∧ d.power = some kW ∧
      kW ≤ min st.maxPower (ratingOf c.site.work p.ant k) := by
  obtain ⟨p, k, hpath⟩ := ratedPath_of_carrierOnVerdict_pass h
  rw [carrierOnVerdict_proven hpath, clampValue_rated hpath] at h
  split at h
  · cases h
  · next kW hkW =>
    split at h
    · cases h
    · next hle =>
      cases h
      exact ⟨rfl, rfl, p, k, kW, hpath, hkW, Nat.not_lt.mp hle⟩

/-- Settles O16, by what the CARRIER_ON check passes over. -/
theorem carrierOnNeedsAProvenRatedPath : Obligations.CarrierOnNeedsAProvenRatedPath := by
  intro c f v clamped hc hverb h
  obtain ⟨n, st, d, hn, hst, hd, h⟩ := gateVerdict_transmitter_pass hc h
  have hfill : fillsRecords f.origin f.verb = false := by simp [fillsRecords, hverb]
  obtain ⟨hrun, hl, h⟩ := transmitterVerdict_pass hfill (by rw [hverb]; decide) h
  rw [hverb] at h
  obtain ⟨hv, hcl, p, k, kW, hp, hkW, hle⟩ := carrierOnVerdict_pass h
  obtain ⟨hmax, hrat⟩ := Nat.le_min.mp hle
  exact ⟨hv, hcl, hp.noStop, hrun, n, st, d, p, k, kW, hn, hst, hd, hl, hp.path, hp.proven, hp.notLockedOut, hp.band, hkW,
    hp.rated, hrat, hmax⟩

/-! ## The verdict at a drive (R53, R94) -/

/-- A frame to a drive passes only where an antenna is served by it, and then by the checks of R53. -/
theorem gateVerdict_drive_pass {v : PlantVerb} {clamped : Option (Nat × Nat)}
    (hc : stationClass c.site.work f.dest = some .drive) (h : gateVerdict f c = .pass v clamped) :
    ∃ a s, antOfDrive c.site.work f.dest = some a ∧ antStatic c a = some s ∧ driveVerdict c a s f = .pass v clamped := by
  simp only [gateVerdict, hc] at h
  split at h
  · cases h
  · next a ha =>
    split at h
    · next s hs => exact ⟨a, s, ha, hs, h⟩
    · cases h

theorem columnLive_eq_false {a : Nat} :
    columnLive c a = false ↔ ∀ p ∈ c.matrix.paths, p.ant = a → txLive c p.tx = false := by
  simp [columnLive, columnPaths]

/-- A SLEW or a STEER: the frames whose target the gate tests (R53). -/
def Positions (v : PlantVerb) : Prop := (∃ b, v = .slew b) ∨ ∃ i, v = .steer i

/-- The checks of a SLEW or STEER in RUNNING: the column's transmitter, its owner, the target. -/
theorem driveVerdict_positions {a : Nat} {s : AntStatic} (hv : Positions f.verb) (hrun : c.start.phase = .running) :
    driveVerdict c a s f =
      if columnLive c a then .refuse .antennaLive
      else if columnOwned c a f.origin then .refuse .owned else targetVerdict s f.verb := by
  rcases hv with ⟨b, hv⟩ | ⟨i, hv⟩ <;> simp [driveVerdict, hv, fillsRecords, hrun]

/-- A SLEW or STEER that passes has found no live transmitter on the column and its target within travel. -/
theorem driveVerdict_positions_pass {a : Nat} {s : AntStatic} {v : PlantVerb} {clamped : Option (Nat × Nat)}
    (hv : Positions f.verb) (h : driveVerdict c a s f = .pass v clamped) :
    columnLive c a = false ∧ targetVerdict s f.verb = .pass v clamped := by
  by_cases hrun : c.start.phase = .running
  case neg =>
    rcases hv with ⟨b, hv⟩ | ⟨i, hv⟩ <;> simp [driveVerdict, hv, fillsRecords, hrun, PlantVerb.code] at h
  rw [driveVerdict_positions hv hrun] at h
  split at h
  · cases h
  · next hlive =>
    split at h
    · cases h
    · exact ⟨Bool.eq_false_iff.mpr hlive, h⟩

theorem targetVerdict_slew {s : AntStatic} {b : Nat} :
    targetVerdict s (.slew b) =
      if s.kind = .rotatable ∧ b < 3600 ∧ reachable s b then .pass (.slew b) none else .refuse .outOfTravel := rfl

theorem targetVerdict_steer {s : AntStatic} {i : Nat} :
    targetVerdict s (.steer i) =
      if s.kind = .steerable ∧ 1 ≤ i ∧ i ≤ (s.offsets.getD []).length then .pass (.steer i) none
      else .refuse .outOfTravel := rfl

/-- Settles O17, by what a passed SLEW or STEER has found. -/
theorem noAntennaMovesWhileLive : Obligations.NoAntennaMovesWhileLive := by
  intro c f v clamped hc h
  obtain ⟨a, s, ha, hs, h⟩ := gateVerdict_drive_pass hc h
  refine ⟨fun b hb => ⟨a, s, ha, hs, ?_⟩, fun i hi => ⟨a, s, ha, hs, ?_⟩⟩
  · obtain ⟨hlive, htarget⟩ := driveVerdict_positions_pass (.inl ⟨b, hb⟩) h
    rw [hb, targetVerdict_slew] at htarget
    split at htarget
    · next hin => exact ⟨columnLive_eq_false.mp hlive, hin⟩
    · cases htarget
  · obtain ⟨hlive, htarget⟩ := driveVerdict_positions_pass (.inr ⟨i, hi⟩) h
    rw [hi, targetVerdict_steer] at htarget
    split at htarget
    · next hin => exact ⟨columnLive_eq_false.mp hlive, hin⟩
    · cases htarget

/-! ## Orders whose admission sets something -/

/-- An order that the gate passes, rewritten or not, whose admission leaves nothing due and nothing that columns are judged
by. -/
theorem act_admitted {g : Ctl → Ctl} {v w : PlantVerb} {clamped : Option (Nat × Nat)} (hs : Still s.ctl)
    (hp : PortRoom s.ctl) (hf : g s.ctl = takeFrame (gateFrame o v) (reserve s.ctl))
    (hv : gateVerdict (gateFrame o v) s.ctl = .pass w clamped)
    (ha : clampNotice o.dest clamped (onAdmission { tag := o.tag, frame := gateFrame o w }
      { s.ctl with link := withPassed o w s.ctl.link }) = c)
    (hpaths : c.matrix.paths = s.ctl.matrix.paths) (htx : c.gate.tx = s.ctl.gate.tx) (hagenda : c.agenda = [])
    (hplant : c.link.plantTx = s.ctl.link.plantTx) (hops : c.link.opsTx = s.ctl.link.opsTx)
    (hheld : c.link.opsHeldOff = s.ctl.link.opsHeldOff) : act g s = .next { s with ctl := c } := by
  have htake := take_passed hv hp (by rw [ha, hplant]; exact hp.taken)
  rw [ha] at htake
  exact act_settled (hf.trans htake) hpaths htx hagenda (by rw [hops, hheld]; exact hs.opsTaken)

/-! ## CARRIER_OFF (R45, R46, R52) -/

/-- No context owns the transmitter, so that none is aborted. -/
theorem abortOwner_none {r : Failure} (hd : txDyn c n = some d) (ho : ownedByCtx d = false) : abortOwner n r c = c := by
  unfold abortOwner
  split
  · next k hk =>
    rw [hd] at hk
    cases hk
    cases ho
  · rfl

/-- Settles O22: the frame passes in every phase, and there is no owner to abort. -/
theorem carrierOffIsPassed : Obligations.CarrierOffIsPassed := by
  intro o s n st d hs ht hp hplant hc hn hst hd ho hpay
  have hf := takes_transmitter ht (no_slot_due hs) hplant hc (v := 4) (by omega)
  rw [hpay] at hf
  have hv : gateVerdict (gateFrame o .carrierOff) s.ctl = .pass .carrierOff none :=
    (gateVerdict_transmitter hc hn hst hd).trans (transmitterVerdict_carrierOff rfl)
  refine act_passed hs hp hf hv ?_
  simp only [onAdmission, gateFrame, hn]
  exact abortOwner_none (c := { s.ctl with link := withPassed o .carrierOff s.ctl.link }) hd ho

/-! ## SLEW, STEER and STOP (R53, R102) -/

section
variable {a : Nat} {ant : AntStatic} {ad : AntDyn} {station tag : Nat} {t : Target}

/-- An OPERATIONS job takes the place of a job that is no context's. -/
theorem opsJob_opens (ha : antOfDrive c.site.work o.dest = some a) (hd : antDyn c a = some ad)
    (hj : ∀ j k w, ad.job = some j → j.requester ≠ .ctx k w) :
    opsJob station tag o.dest t c =
      { c with
        aerial := tset a { ad with job := some (newJob (.operations { station := station, tag := tag }) t) } c.aerial } := by
  simp only [opsJob, ha, hd]
  split
  · next k w _ _ _ hjob => exact absurd rfl (hj _ k w hjob)
  · rfl

/-- A STOP supersedes an open OPERATIONS job. -/
theorem opsStopJob_ends {j : Job} {ref : Ref} (ha : antOfDrive c.site.work o.dest = some a) (hd : antDyn c a = some ad)
    (hj : ad.job = some j) (hr : j.requester = .operations ref) :
    opsStopJob o.dest c = { c with aerial := tset a { ad with job := none } c.aerial } := by
  have hd' : tget a c.aerial = some ad := hd
  obtain ⟨req, target, stage, moved⟩ := j
  subst hr
  simp only [opsStopJob, ha, Ctl.onAerial, tmod, hd', hj]

/-- A SLEW or STEER within travel passes where no live transmitter and no context's path holds the column. -/
theorem gateVerdict_positions {v : PlantVerb} (hr : DriveReady c o.dest a ant ad) (hv : Positions v)
    (hlive : columnLive c a = false) (howned : columnOwned c a (.ops o.src o.tag) = false)
    (ht : targetVerdict ant v = .pass v none) : gateVerdict (gateFrame o v) c = .pass v none := by
  have howned' : columnOwned c a (gateFrame o v).origin = false := howned
  rw [verdict_drive hr, driveVerdict_positions hv hr.running, hlive, howned']
  exact ht

end

/-- Settles O23, order by order. -/
theorem slewAndSteerOpenJobs : Obligations.SlewAndSteerOpenJobs := by
  intro o s a st d hs ht hp h hlive howned hj
  have hslot := no_slot_due hs
  refine ⟨fun b hkind hb hreach hpay => ?_, fun i hkind h1 hi h256 hpay => ?_, fun j ref hjob hreq hpay => ?_⟩
  case refine_1 =>
    have hf := takes_drive ht hslot h.plant h.known (v := 7) (by omega)
    obtain ⟨x, y, hxy, hr⟩ := be2_octets (n := b) (by omega)
    have hverb : parseDriveVerb 7 o.payload = .slew b :=
      (congrArg (parseDriveVerb 7) (hpay.trans hxy)).trans (congrArg PlantVerb.slew hr)
    rw [hverb] at hf
    have hv := gateVerdict_positions h (.inl ⟨b, rfl⟩) hlive howned (targetVerdict_slew.trans (if_pos ⟨hkind, hb, hreach⟩))
    exact act_admitted hs hp hf hv
      (opsJob_opens (c := { s.ctl with link := withPassed o (.slew b) s.ctl.link }) h.here h.dynamic hj)
      rfl rfl hs.settled rfl rfl rfl
  case refine_2 =>
    have hf := takes_drive ht hslot h.plant h.known (v := 8) (by omega)
    obtain ⟨x, hx, hr⟩ := u8_octet h256
    have hverb : parseDriveVerb 8 o.payload = .steer i := 
      (congrArg (parseDriveVerb 8) (hpay.trans hx)).trans (congrArg PlantVerb.steer hr)
    rw [hverb] at hf
    have hv := gateVerdict_positions h (.inr ⟨i, rfl⟩) hlive howned (targetVerdict_steer.trans (if_pos ⟨hkind, h1, hi⟩))
    exact act_admitted hs hp hf hv
      (opsJob_opens (c := { s.ctl with link := withPassed o (.steer i) s.ctl.link }) h.here h.dynamic hj)
      rfl rfl hs.settled rfl rfl rfl
  case refine_3 =>
    have hf := takes_drive ht hslot h.plant h.known (v := 9) (by omega)
    rw [hpay] at hf
    have hv : gateVerdict (gateFrame o .stop) s.ctl = .pass .stop none := by
      rw [verdict_drive h, driveVerdict]
      simp [gateFrame, ops_fills, h.running]
    exact act_admitted hs hp hf hv
      (opsStopJob_ends (c := { s.ctl with link := withPassed o .stop s.ctl.link }) h.here h.dynamic hjob hreq)
      rfl rfl hs.settled rfl rfl rfl

/-! ## POWER (R51) -/

/-- The verdict on a POWER that is brought down to `q`, by the rating of antenna `a` or by the maximum alone. -/
def loweredTo (p q a : Nat) : Verdict := if q < p then .pass (.power q) (some (a, q)) else .pass (.power p) none

theorem powerVerdict_range {p : Nat} (h : p < 1 ∨ 999 < p) : powerVerdict c n st d p = .refuse .badRecord := if_pos h

section
variable {p : Nat} (hrange : 1 ≤ p ∧ p ≤ 999)
include hrange

theorem powerVerdict_unrated {path : Path} {k : Nat} (hp : rowPath c n = some path) (hproven : path.state = .proven)
    (hb : ratableBand c d = some k) (hr : ratingOf c.site.work path.ant k = 0) :
    powerVerdict c n st d p = .refuse .bandUnrated := by
  have hin : ¬ (p < 1 ∨ 999 < p) := by omega
  simp only [powerVerdict, hin, hp, hb, hproven, hr, if_true, if_false]

theorem powerVerdict_rated {path : Path} {k : Nat} (hp : rowPath c n = some path) (hproven : path.state = .proven)
    (hb : ratableBand c d = some k) (hr : ratingOf c.site.work path.ant k ≠ 0) :
    powerVerdict c n st d p = loweredTo p (min (min p st.maxPower) (ratingOf c.site.work path.ant k))
      (if min (min p st.maxPower) (ratingOf c.site.work path.ant k) < min p st.maxPower then path.ant else 0) := by
  have hin : ¬ (p < 1 ∨ 999 < p) := by omega
  simp only [powerVerdict, hin, hp, hb, hproven, hr, if_true, if_false, loweredTo]

/-- Without a PROVEN path and a known band the maximum alone is the limit. -/
theorem powerVerdict_byMax (h : ∀ path, rowPath c n = some path → path.state ≠ .proven ∨ ratableBand c d = none) :
    powerVerdict c n st d p = loweredTo p (min p st.maxPower) 0 := by
  have hin : ¬ (p < 1 ∨ 999 < p) := by omega
  simp only [powerVerdict, hin, if_false, loweredTo]
  split
  · next path k hp hb =>
    have hunproven : path.state ≠ .proven := (h path hp).resolve_right (by simp [hb])
    rw [if_neg hunproven]
  · rfl

end

/-- The notice of a rewritten POWER, where the queue of reports has room. -/
theorem clampNotice_raises {q a : Nat} (hn : txOfStation c.site.work o.dest = some n)
    (hrep : c.link.reports.length < 32) :
    clampNotice o.dest (some (a, q)) c =
      { c with link := withReport (reportNow c .powerClamped (.pair n a) 0 0 (some q) none) c.link } := by
  simp only [clampNotice, hn]
  exact raise_room hrep

/-- A POWER brought down to `q` joins the plant queue with that value, and where this is lower than asked NOTICE
POWER_CLAMPED says so. -/
theorem power_lowered {p q a : Nat} (hs : Still s.ctl) (ht : Takes s.ctl o.src o.tag o.payload) (hp : PortRoom s.ctl)
    (h : TxReady s.ctl o.dest n st d) (hverb : parseTransmitterVerb 2 o.payload = .power p)
    (hrep : s.ctl.link.reports.length < 32) (hle : q ≤ p) (hv : powerVerdict s.ctl n st d p = loweredTo p q a) :
    exec (.opsPower o) s = .next { s with ctl := { s.ctl with
      link :=
        let k := withPassed o (.power q) s.ctl.link
        if q < p then withReport (reportNow s.ctl .powerClamped (.pair n a) 0 0 (some q) none) k else k } } := by
  have hf := takes_transmitter ht (no_slot_due hs) h.plant h.known (v := 2) (by omega)
  rw [hverb] at hf
  have hverdict : gateVerdict (gateFrame o (.power p)) s.ctl = loweredTo p q a := (verdict_transmitter h).trans hv
  by_cases hlt : q < p
  · rw [loweredTo, if_pos hlt] at hverdict
    simp only [hlt, if_true]
    exact act_admitted hs hp hf hverdict
      (clampNotice_raises (c := { s.ctl with link := withPassed o (.power q) s.ctl.link }) h.here hrep)
      rfl rfl hs.settled rfl rfl rfl
  · rw [loweredTo, if_neg hlt] at hverdict
    obtain rfl : q = p := by omega
    simp only [hlt, if_false]
    exact act_passed hs hp hf hverdict rfl

/-- Settles O20, by the rule's cases. -/
theorem powerIsClamped : Obligations.PowerIsClamped := by
  intro o s n st d p hs ht hp h hlt hpay hrep
  obtain ⟨x, y, hxy, hr⟩ := be2_octets hlt
  have hverb : parseTransmitterVerb 2 o.payload = .power p :=
    (congrArg (parseTransmitterVerb 2) (hpay.trans hxy)).trans (congrArg PlantVerb.power hr)
  have hgate : gateVerdict (gateFrame o (parseTransmitterVerb 2 o.payload)) s.ctl = powerVerdict s.ctl n st d p := by
    rw [hverb]; exact verdict_transmitter h
  refine ⟨fun hout => ?_, fun h1 h999 => ⟨fun path k hpath hproven hband => ⟨fun hr => ?_, fun hr => ?_⟩, fun hno => ?_⟩⟩
  case refine_1 =>
    exact transmitterOrder_refused hs ht h.plant h.known (by omega) (hgate.trans (powerVerdict_range hout))
  case refine_2 =>
    exact transmitterOrder_refused hs ht h.plant h.known (by omega)
      (hgate.trans (powerVerdict_unrated ⟨h1, h999⟩ hpath hproven hband hr))
  case refine_3 =>
    exact power_lowered hs ht hp h hverb hrep (Nat.le_trans (Nat.min_le_left _ _) (Nat.min_le_left _ _))
      (powerVerdict_rated ⟨h1, h999⟩ hpath hproven hband hr)
  case refine_4 =>
    exact power_lowered hs ht hp h hverb hrep (Nat.min_le_left _ _) (powerVerdict_byMax ⟨h1, h999⟩ hno)

end Sys2Proof.Proofs
end

section
/-! TUNE of the operations side (R50). What it leaves behind is refuted on site tables that list one transmitter number twice,
and proved where they list each once. -/

namespace Sys2Proof.Proofs
open Sys2Proof.Machine Sys2Proof.Laws

variable {s : State} {o : PlantOrder} {c : Ctl} {n k : Nat} {st : TxStatic} {d : TxDyn}

/-! ## One transmitter number listed twice -/

/-- The controller whose site tables list transmitter 1 at address 10 and again at address 11, now with a band, and with a
CARRIER_ON queued for address 10, whose transmitter a report has left not live. -/
def carrierOnAt10 : Ctl :=
  { listedTwice with
    link := { listedTwice.link with
      plantQueue := [{ tag := 7, frame := { dest := 10, verb := .carrierOn, cls := .passed, origin := .ops 122 7 } }] }
    site := { listedTwice.site with work := { listedTwice.site.work with bands := [(1, { low := 9400, high := 9900 })] } } }

/-- The operations station 121 tunes the transmitter at address 11 to 9410 kHz. -/
def tuneAt11 : PlantOrder := { dest := 11, src := 121, tag := 6, payload := be2 9410 }

theorem carrierOnAt10_still : Still carrierOnAt10 := ⟨rfl, rfl⟩

theorem carrierOnAt10_takes : Takes carrierOnAt10 tuneAt11.src tuneAt11.tag tuneAt11.payload :=
  ⟨by decide, by decide, by decide, by decide, by decide, rfl⟩

theorem carrierOnAt10_room : PortRoom carrierOnAt10 := ⟨rfl, rfl⟩

theorem carrierOnAt10_ready : TxReady carrierOnAt10 tuneAt11.dest 1 (listedAt 10) silentTx :=
  ⟨by decide, rfl, rfl, rfl, rfl, rfl, rfl, rfl⟩

/-- The verbs of the frames that a step leaves in the plant queue. -/
def verbsAfter : Host.Outcome State Fault Refusal → List PlantVerb
  | .next t => t.ctl.link.plantQueue.map (·.frame.verb)
  | _ => []

/-- The TUNE takes the ground of the CARRIER_ON queued for the other address, which a withdrawal CARRIER_OFF displaces. -/
theorem tuneAt11_withdraws :
    verbsAfter (exec (.opsTune tuneAt11) { ctl := carrierOnAt10, pending := [] }) = [.tune 9410, .carrierOff] := by
  decide +kernel

/-- Refutes O19: no CARRIER_ON is queued for the address tuned, but the withdrawal that the TUNE sets going is for the station
of the transmitter's record, and where the site tables list the number of the transmitter twice, that is another address, with
a CARRIER_ON queued. -/
theorem not_tuneIsPassedOrRefused : ¬ Obligations.TuneIsPassedOrRefused := by
  intro h
  have hnext := h tuneAt11 { ctl := carrierOnAt10, pending := [] } 1 (listedAt 10) silentTx 9410 carrierOnAt10_still
    carrierOnAt10_takes carrierOnAt10_room carrierOnAt10_ready (by decide) rfl (by decide)
  have hclaimed : verbsAfter (exec (.opsTune tuneAt11) { ctl := carrierOnAt10, pending := [] }) =
      [.carrierOn, .tune 9410] := by
    rw [hnext]; decide
  rw [tuneAt11_withdraws] at hclaimed
  exact absurd hclaimed (by decide)

/-! ## No number listed twice -/

/-- In a map in canonical form a key is listed once. -/
theorem tget_of_mem {α : Type} {i : Nat} {x : α} {t : Table α} (hr : Rising t) (h : (i, x) ∈ t) : tget i t = some x := by
  induction t with
  | nil => cases h
  | cons p t ih =>
    obtain ⟨hlow, hrest⟩ := List.pairwise_cons.mp hr
    rcases List.mem_cons.mp h with rfl | h
    · exact if_pos rfl
    · exact (if_neg (Nat.ne_of_lt (hlow _ h))).trans (ih hrest h)

/-- The record of the transmitter at an address has that address. -/
theorem station_of_rising {t : Tables} {addr : Nat} (hr : tableRising t.tx = true) (hn : txOfStation t addr = some n)
    (hst : tget n t.tx = some st) : st.station = addr := by
  obtain ⟨⟨m, x⟩, hfind, rfl⟩ := Option.map_eq_some_iff.mp hn
  rw [tget_of_mem ((tableRising_iff _).mp hr) (List.mem_of_find?_eq_some hfind)] at hst
  cases hst
  have hat := List.find?_some hfind
  exact eq_of_beq hat

/-- The TUNE rule's cases (R50). -/
theorem tuneVerdict_eq : tuneVerdict c d k =
    if d.live then .refuse .carrierOn
    else if k < 2300 ∨ 26100 < k ∨ bandOf c.site.work k = none then .refuse .outOfBand
    else .pass (.tune k) none := by
  simp only [tuneVerdict, Option.isNone_iff_eq_none]

/-- A TUNE of the operations side is admitted: tune state TUNING is recorded, with its former value (R50). -/
theorem onAdmission_tune (h : TxReady c o.dest n st d) (ha : c.agenda = []) :
    onAdmission { tag := o.tag, frame := gateFrame o (.tune k) } c =
      { c with
        agenda := [.withdraw n]
        gate := { c.gate with tx := tset n (setTuning o.src o.tag d) c.gate.tx } } := by
  have hd : tget n c.gate.tx = some d := h.dynamic
  simp only [onAdmission, gateFrame, h.here, ofWork, modTx, Ctl.onGate, tmod, hd, originAddr, push, ha, List.nil_append]

/-- Columns are not judged by the tune state. -/
theorem txDyn_setTuning_view {addr tag j : Nat} (hd : txDyn c n = some d) :
    (txDyn { c with gate := { c.gate with tx := tset n (setTuning addr tag d) c.gate.tx } } j).map TxDyn.view =
      (txDyn c j).map TxDyn.view := by
  have hd' : tget n c.gate.tx = some d := hd
  have hview := txDyn_modTx_view (n := n) (k := j) (c := c) (f := setTuning addr tag) (fun _ => rfl)
  simpa only [modTx, Ctl.onGate, tmod, hd'] using hview

/-- A step that changes no path and, of the transmitters, nothing that columns are judged by, whose consequences find nothing
to do. -/
theorem act_unjudged_inert {g : Ctl → Ctl} (hg : g s.ctl = c) (hp : c.matrix.paths = s.ctl.matrix.paths)
    (ht : ∀ j, (txDyn c j).map TxDyn.view = (txDyn s.ctl j).map TxDyn.view) (hi : ∀ x ∈ c.agenda, Inert x c)
    (hl : c.agenda.length ≤ 16384) (ho : (c.link.opsTx.isSome || c.link.opsHeldOff) = true) :
    act g s = .next { s with ctl := { c with agenda := [] } } := by
  subst hg
  rw [act, noteColumns_same (sameColumns_of_reads (by rw [hp]) ht), finish_inert hi hl ho]

/-- A passed TUNE joins the plant queue with TUNING recorded, where no CARRIER_ON is queued for its transmitter. -/
theorem tune_passed (hs : Still s.ctl) (ht : Takes s.ctl o.src o.tag o.payload) (hp : PortRoom s.ctl)
    (h : TxReady s.ctl o.dest n st d) (hstation : st.station = o.dest)
    (hverb : parseTransmitterVerb 1 o.payload = .tune k) (hv : tuneVerdict s.ctl d k = .pass (.tune k) none)
    (hq : ∀ q ∈ s.ctl.link.plantQueue, q.frame.dest ≠ o.dest ∨ q.frame.verb ≠ .carrierOn) :
    exec (.opsTune o) s = .next { s with ctl := { s.ctl with
      link := withPassed o (.tune k) s.ctl.link
      gate := { s.ctl.gate with tx := tset n (setTuning o.src o.tag d) s.ctl.gate.tx } } } := by
  have hf := takes_transmitter ht (no_slot_due hs) h.plant h.known (v := 1) (by omega)
  rw [hverb] at hf
  have hverdict : gateVerdict (gateFrame o (.tune k)) s.ctl = .pass (.tune k) none := (verdict_transmitter h).trans hv
  have hready : TxReady { s.ctl with link := withPassed o (.tune k) s.ctl.link } o.dest n st d :=
    ⟨h.plant, h.known, h.here, h.static, h.dynamic, h.running, h.notLocal, h.notOwned⟩
  have hadm := onAdmission_tune (k := k) hready hs.settled
  have hn : ∀ c, clampNotice o.dest none c = c := fun _ => rfl
  have htake := take_passed hverdict hp (by rw [hn, hadm]; exact hp.taken)
  rw [hn, hadm] at htake
  have hinert : ∀ q ∈ s.ctl.link.plantQueue ++ [{ tag := o.tag, frame := gateFrame o (.tune k) }],
      q.frame.verb ≠ .carrierOn ∨ ∀ st', txStatic s.ctl n = some st' → q.frame.dest ≠ st'.station := by
    intro q hmem
    rcases List.mem_append.mp hmem with hmem | hmem
    · refine (hq q hmem).symm.imp_right (fun hdest st' hst' => ?_)
      rw [h.static] at hst'
      cases hst'
      rwa [hstation]
    · rw [List.mem_singleton.mp hmem]
      exact .inl PlantVerb.noConfusion
  have step := act_unjudged_inert (hf.trans htake) rfl (fun j => txDyn_setTuning_view h.dynamic)
    (fun x hx => by rw [List.mem_singleton.mp hx]; exact inert_withdraw hinert) (by simp) hs.opsTaken
  rwa [← hs.settled] at step

/-- What O19 says of a TUNE holds where the site tables list each transmitter once. -/
theorem tune_passed_or_refused (hs : Still s.ctl) (ht : Takes s.ctl o.src o.tag o.payload) (hp : PortRoom s.ctl)
    (h : TxReady s.ctl o.dest n st d) (hrising : tableRising s.ctl.site.work.tx = true) (hlt : k < 65536)
    (hpay : o.payload = be2 k)
    (hq : d.live = false → ∀ q ∈ s.ctl.link.plantQueue, q.frame.dest ≠ o.dest ∨ q.frame.verb ≠ .carrierOn) :
    exec (.opsTune o) s = .next { s with ctl :=
      if d.live then { s.ctl with link := withAnswer (ownAnswer o.src o.tag 1 3 4 []) s.ctl.link }
      else if k < 2300 ∨ 26100 < k ∨ bandOf s.ctl.site.work k = none then
        { s.ctl with link := withAnswer (ownAnswer o.src o.tag 1 3 5 []) s.ctl.link }
      else { s.ctl with
        link := withPassed o (.tune k) s.ctl.link
        gate := { s.ctl.gate with tx := tset n (setTuning o.src o.tag d) s.ctl.gate.tx } } } := by
  obtain ⟨x, y, hxy, hr⟩ := be2_octets hlt
  have hverb : parseTransmitterVerb 1 o.payload = .tune k :=
    (congrArg (parseTransmitterVerb 1) (hpay.trans hxy)).trans (congrArg PlantVerb.tune hr)
  have hgate : gateVerdict (gateFrame o (parseTransmitterVerb 1 o.payload)) s.ctl = tuneVerdict s.ctl d k := by
    rw [hverb]; exact verdict_transmitter h
  have hrule := tuneVerdict_eq (c := s.ctl) (d := d) (k := k)
  split
  · next hlive =>
    rw [if_pos hlive] at hrule
    exact transmitterOrder_refused hs ht h.plant h.known (by omega) (hgate.trans hrule)
  · next hlive =>
    rw [if_neg hlive] at hrule
    split
    · next hband =>
      rw [if_pos hband] at hrule
      exact transmitterOrder_refused hs ht h.plant h.known (by omega) (hgate.trans hrule)
    · next hband =>
      rw [if_neg hband] at hrule
      exact tune_passed hs ht hp h (station_of_rising hrising h.here h.static) hverb hrule (hq (Bool.eq_false_iff.mpr hlive))

end Sys2Proof.Proofs
end

section
/-! What the Matrix Interlocking's operations do where no request, no frame and no hold waits, said once: requests of movements
(R75), paths that act or fail (R79, R80, R85), LATCH frames that join the plant queue (R28, R56), and rounds of the arbiter that
grant nothing (R77). -/

namespace Sys2Proof.Proofs
open Sys2Proof.Machine Sys2Proof.Laws

variable {s : State} {c c' : Ctl} {p : Path}

/-! ## Steps whose consequences find nothing to do -/

/-- A step whose command leaves only consequences that find nothing to do ends as the command left it. -/
theorem act_leaves {f : Ctl → Ctl} {l : List Signal} (hf : f s.ctl = { c with agenda := l }) (ha : c.agenda = [])
    (hi : ∀ x ∈ l, Inert x c) (hc : Inert .columns c) (hl : l.length < 16384)
    (ho : (c.link.opsTx.isSome || c.link.opsHeldOff) = true) : act f s = .next { s with ctl := c } := by
  have step := act_inert hf hi hc hl (opsChoose_taken (c := { c with agenda := [] }) ho)
  have hempty : ({ c with agenda := [] } : Ctl) = c := by rw [← ha]
  rwa [← hempty]

/-- A step whose first consequence does something, and all others find nothing to do, ends as the first leaves it. -/
theorem act_leads {f : Ctl → Ctl} {x : Signal} {l : List Signal} (hf : f s.ctl = { c with agenda := x :: l })
    (hx : ∀ m, handle x { c with agenda := m } = { c' with agenda := m }) (ha : c'.agenda = [])
    (hi : ∀ y ∈ l, Inert y c') (hc : Inert .columns c') (hl : l.length < 16382)
    (ho : (c'.link.opsTx.isSome || c'.link.opsHeldOff) = true) : act f s = .next { s with ctl := c' } := by
  have hempty : ({ c' with agenda := [] } : Ctl) = c' := by rw [← ha]
  have hcolumns : ∀ m : List Signal, (∀ y ∈ m, Inert y c') → ∀ y ∈ m ++ [.columns], Inert y c' := fun m hm y hy =>
    (List.mem_append.mp hy).elim (hm y) (fun hy => List.mem_singleton.mp hy ▸ hc)
  have hsettle : ∀ m : List Signal, (∀ y ∈ m, Inert y c') → m.length ≤ 16383 →
      settle 16383 { c' with agenda := m } = c' := fun m hm hlen =>
    (settle_inert 16383 { c' with agenda := m } hm hlen).trans hempty
  have hfinish : ∀ m : List Signal, (∀ y ∈ m, Inert y c') → m.length < 16383 →
      finish { c with agenda := x :: m } = c' := by
    intro m hm hlen
    rw [finish, settleLimit, settle_cons, hx]
    rcases noteColumns_eq { c with agenda := x :: m } { c' with agenda := m } with h | h <;> rw [h]
    · rw [hsettle m hm (Nat.le_of_lt hlen)]
      exact opsChoose_taken ho
    · have hall := hsettle (m ++ [.columns]) (hcolumns m hm) (by simp only [List.length_append, List.length_singleton]; omega)
      exact (congrArg opsChoose hall).trans (opsChoose_taken ho)
  rcases act_eq f s with h | h <;> rw [h, hf]
  · rw [hfinish l hi (by omega)]
  · rw [← hfinish (l ++ [.columns]) (hcolumns l hi) (by simp only [List.length_append, List.length_singleton]; omega)]
    rfl

/-- Only contexts in RELEASING and AWAIT_ANTENNA judge columns (R175). -/
theorem inert_columns_unjudged
    (h : ∀ x ∈ c.cu, x.2.busy = true → x.2.phase ≠ .releasing ∧ x.2.phase ≠ .awaitAntenna) : Inert .columns c := by
  intro l
  refine forEach_id _ (fun n _ => ?_)
  have hphase : ∀ y, busyCtx { c with agenda := l } n = some y → y.phase ≠ .releasing ∧ y.phase ≠ .awaitAntenna := by
    intro y hy
    unfold busyCtx at hy
    split at hy
    · next hz =>
      split at hy
      · next hb => cases hy; exact h (n, y) (tget_mem hz) hb
      · cases hy
    · cases hy
  split
  · next y hy =>
    obtain ⟨hreleasing, hawait⟩ := hphase y hy
    cases hp : y.phase <;> simp_all
  · rfl

/-- The arbiter grants nothing while no slot is free (R77). -/
theorem inert_arbiter_noSlot (h : freeSlotOf c.matrix = none) : Inert .arbiter c := by
  intro l
  have hslot : freeSlotOf ({ c with agenda := l } : Ctl).matrix = none := h
  simp only [handle, arbiter, Config.moveSlots]
  rw [show 4 + ({ c with agenda := l } : Ctl).matrix.queue.length + ({ c with agenda := l } : Ctl).matrix.waiting.length =
    (3 + c.matrix.queue.length + c.matrix.waiting.length) + 1 by simp only; omega]
  simp only [arbiterRound, hslot]

/-! ## Requests of movements (R75) -/

theorem settleQueue_nobody {m : Matrix} (h : m.waiting = []) : settleQueue m = m := by
  simp only [settleQueue, h, List.length_nil, fillQueue]

theorem settleQueue_full {m : Matrix} (h : 32 ≤ m.queue.length) : settleQueue m = m := by
  have hno : ¬ m.queue.length < Config.moveQueueSize := Nat.not_lt.mpr h
  cases hw : m.waiting with
  | nil => exact settleQueue_nobody hw
  | cons r rest => simp only [settleQueue, hw, List.length_cons, fillQueue, hno, if_false]

/-- The request of a path's movement, with its age. -/
def moveRequest (p : Path) (coil : Coil) (age : Nat) : MoveReq :=
  { pid := p.pid, row := p.row, col := p.col, coil := coil, priority := p.priority, age := age }

theorem hasRequest_nobody {m : Matrix} {pid : Nat} (hq : m.queue = []) (hw : m.waiting = []) :
    hasRequest m pid = false := by simp [hasRequest, hq, hw]

/-- A path's request enters an empty queue at once. -/
theorem requestMove_enters {coil : Coil} (hq : c.matrix.queue = []) (hw : c.matrix.waiting = []) :
    requestMove p coil c = pushOnce .arbiter { c with matrix := { c.matrix with
      queue := [moveRequest p coil c.matrix.nextAge], nextAge := c.matrix.nextAge + 1 } } := by
  have hm : settleQueue { c.matrix with waiting := c.matrix.waiting ++
      [{ pid := p.pid, row := p.row, col := p.col, coil := coil, priority := p.priority, age := 0 }] } =
      { c.matrix with queue := [moveRequest p coil c.matrix.nextAge], nextAge := c.matrix.nextAge + 1 } := by
    simp [settleQueue, hq, hw, fillQueue, Config.moveQueueSize, moveRequest]
  simp only [requestMove, hasRequest_nobody hq hw, Bool.false_eq_true, if_false, Ctl.onMatrix, hm]

theorem matrix_noRequests {m : Matrix} (hq : m.queue = []) (hw : m.waiting = []) :
    { m with queue := [], waiting := [] } = m := by
  cases m; cases hq; cases hw; rfl

theorem withdrawRequest_none {pid : Nat} (hq : c.matrix.queue = []) (hw : c.matrix.waiting = []) :
    withdrawRequest pid c = pushOnce .arbiter c := by
  simp only [withdrawRequest, Ctl.onMatrix, hq, hw, List.filter_nil, matrix_noRequests hq hw, settleQueue_nobody hw]

/-! ## Paths -/

theorem dropWaitingRead_none {pid : Nat} (h : c.link.internalWaiters = []) : dropWaitingRead pid c = c := by
  simp only [dropWaitingRead, Ctl.onLink, h, List.filter_nil]
  rw [← h]

theorem failPathHolds_none {n : Nat} (h : c.gate.held = []) : failPathHolds n c = c := refuseHeld_empty h

theorem tableChanged_running (h : c.start.phase = .running) : tableChanged c = pushOnce .arbiter c := by
  have hadopt : (pushOnce .arbiter c).start.phase ≠ .adopt := by rw [pushOnce_start, h]; decide
  simp only [tableChanged, if_neg hadopt]

/-- Where no frame is held and the arbiter is to look, the end of a path's holds and the change of the table add nothing. -/
theorem tableChanged_noHolds {n : Nat} (hheld : c.gate.held = []) (hrun : c.start.phase = .running)
    (harbiter : Signal.arbiter ∈ c.agenda) : tableChanged (failPathHolds n c) = c := by
  rw [failPathHolds_none hheld, tableChanged_running hrun, pushOnce_again harbiter]

theorem enter_eq {st : PathState} (h : p.state ≠ st) : p.enter c st = { p with state := st, since := c.clock } := if_neg h

/-- The path table with a path's record in the place of each record of its number. -/
def pathsWith (p : Path) (l : List Path) : List Path := l.map (fun q => if q.pid = p.pid then p else q)

theorem setPathRec_eq (p : Path) (c : Ctl) :
    setPathRec p c = { c with matrix := { c.matrix with paths := pathsWith p c.matrix.paths } } := rfl

theorem pathsWith_pathsWith {p q : Path} (h : q.pid = p.pid) (l : List Path) :
    pathsWith p (pathsWith q l) = pathsWith p l := by
  simp only [pathsWith, List.map_map]
  refine List.map_congr_left (fun x _ => ?_)
  by_cases hx : x.pid = p.pid <;> simp [hx, h]

theorem pathsWith_one {p q : Path} (h : q.pid = p.pid) : pathsWith p [q] = [p] := by simp [pathsWith, h]

theorem setPathRec_only {p q : Path} (hp : c.matrix.paths = [q]) (h : q.pid = p.pid) :
    setPathRec p c = { c with matrix := { c.matrix with paths := [p] } } := by
  rw [setPathRec_eq, hp, pathsWith_one h]

theorem find_pathsWith {p q : Path} {l : List Path} (h : l.find? (fun x => x.pid == p.pid) = some q) :
    (pathsWith p l).find? (fun x => x.pid == p.pid) = some p := by
  induction l with
  | nil => cases h
  | cons x t ih =>
    by_cases hx : x.pid = p.pid
    · simp [pathsWith, hx]
    · have ht : t.find? (fun y => y.pid == p.pid) = some q := by
        rwa [List.find?_cons_of_neg (by simpa using hx)] at h
      rw [pathsWith, List.map_cons, if_neg hx, List.find?_cons_of_neg (by simpa using hx)]
      exact ih ht

/-- The claiming path of a transmitter is one of the path table. -/
theorem claimPath_mem {n : Nat} (h : claimPath c n = some p) : p ∈ c.matrix.paths ∧ p.tx = n := by
  have hp := List.find?_some h
  simp only [Bool.and_eq_true, beq_iff_eq] at hp
  exact ⟨List.mem_of_find?_eq_some h, hp.1⟩

/-! ## Frames of the controller's own that join the plant queue -/

/-- A frame of the controller's own, in the INTERNAL class, that the gate passes as it is joins the plant queue with the next
part tag, and has the effects of its admission (R24, R28, R43). -/
theorem offer_joins {f : PFrame} (hown : ownOrigin f.origin = true) (hcls : f.cls = .internal) (hr : OwnRoom c.link)
    (hv : gateVerdict f c = .pass f.verb none)
    (hadm : onAdmission { tag := nextTag c.link, frame := f } { c with link := withOwn f c.link } = c')
    (ht : c'.link.plantTx.isSome = true) : offer f c = c' := by
  have hslot : slotForInternal c.link = true := by
    simp [slotForInternal, Config.plantQueueSize, hr.room, hr.urgent, hr.internal]
  have htag : tagFor f c.link = nextTag c.link := by
    unfold tagFor
    split
    · next h => rw [h] at hown; cases hown
    · rfl
  have hlink : c.onLink (fun k => { k with
      plantQueue := k.plantQueue ++ [{ tag := nextTag c.link, frame := f }]
      lastTag := if ownOrigin f.origin then nextTag c.link else k.lastTag }) = { c with link := withOwn f c.link } := by
    simp only [Ctl.onLink, withOwn, hown, if_true]
  have htake : takeFrame f c = enqueue f none c := by
    have hplace : takeFrame f c = place f none c := by simp only [takeFrame, hv]
    simp only [hplace, place, hcls]
  rw [offer, fillSlots_empty hr.urgent hr.internal]
  simp only [offerNow, hcls, hslot, if_true, htake, enqueue, htag, hlink, hadm, clampNotice]
  exact portChoose_taken ht

/-- A LATCH of the Matrix Interlocking (R70, R71, R81). -/
def latchFrame (station : Nat) (v : PlantVerb) (purpose : MiPurpose) : PFrame :=
  { dest := station, verb := v, cls := .internal, origin := .mi purpose }

/-- The matrix station can be sent a LATCH. -/
structure LatchRoom (c : Ctl) (station : Nat) : Prop extends OwnRoom c.link where
  here : matrixStation c.site.work = some station
  known : stationClass c.site.work station = some .matrix

variable {station : Nat} {v : PlantVerb} {purpose : MiPurpose}

theorem offerLatch_joins (h : LatchRoom c station) (hv : matrixVerdict c (latchFrame station v purpose) = .pass v none)
    (hadm : onAdmission { tag := nextTag c.link, frame := latchFrame station v purpose }
      { c with link := withOwn (latchFrame station v purpose) c.link } = c')
    (ht : c'.link.plantTx.isSome = true) : offerLatch v (.mi purpose) c = c' := by
  have hgate : gateVerdict (latchFrame station v purpose) c = .pass v none := by
    have hk : stationClass c.site.work (latchFrame station v purpose).dest = some .matrix := h.known
    simp only [gateVerdict, hk, hv]
  simp only [offerLatch, h.here]
  exact offer_joins (f := latchFrame station v purpose) rfl rfl h.toOwnRoom hgate hadm ht

/-- A CLEAR of a coil joins the plant queue (R71). -/
theorem offerLatch_clear {b slot : Nat} (h : LatchRoom c station) (hb : b ≤ 3839) :
    offerLatch (.latchClear b) (.mi (.clear slot)) c =
      { c with link := withOwn (latchFrame station (.latchClear b) (.clear slot)) c.link } :=
  offerLatch_joins h (by simp only [matrixVerdict, latchFrame, if_pos hb]) rfl h.taken

/-- A SET of a coil within the geometry, its row without RF, joins the plant queue (R56, R70). -/
theorem offerLatch_set {b slot : Nat} (h : LatchRoom c station) (hb : coilBitInGeometry c.site.work b = true)
    (hoff : rowOff c (xpRow (b / 2)) = true) : offerLatch (.latchSet b) (.mi (.set slot)) c =
      { c with link := withOwn (latchFrame station (.latchSet b) (.set slot)) c.link } :=
  offerLatch_joins h (by simp [matrixVerdict, latchFrame, hb, hoff]) rfl h.taken

/-- The READ of a proof joins the plant queue, and the proof of its path has the tag of it (R78, R81). -/
theorem offerLatch_read {b pid : Nat} (h : LatchRoom c station) (hb : b ≤ 3839) :
    offerLatch (.latchRead b 2) (.mi (.proof pid)) c = setProofTag pid none (some (nextTag c.link))
      { c with link := withOwn (latchFrame station (.latchRead b 2) (.proof pid)) c.link } :=
  offerLatch_joins h (by simp [matrixVerdict, latchFrame, hb]) rfl h.taken

theorem setProofTag_pathsWith {tag : Nat} {l : List Path} (hp : p.proof = .inProgress none)
    (hl : c.matrix.paths = pathsWith p l) : setProofTag p.pid none (some tag) c =
      { c with matrix := { c.matrix with paths := pathsWith { p with proof := .inProgress (some tag) } l } } := by
  have hmap : (pathsWith p l).map (fun q => if q.pid = p.pid then q.retag none (some tag) else q) =
      pathsWith { p with proof := .inProgress (some tag) } l := by
    simp only [pathsWith, List.map_map]
    refine List.map_congr_left (fun x _ => ?_)
    by_cases hx : x.pid = p.pid <;> simp [hx, Path.retag, hp]
  simp only [setProofTag, Ctl.onMatrix, hl, hmap]

end Sys2Proof.Proofs
end

section
/-! XP_CLEAR and PATH_FREE (R74, R85, R89). -/

namespace Sys2Proof.Proofs
open Sys2Proof.Machine Sys2Proof.Laws

variable {s : State} {o : OwnOrder} {c : Ctl} {p : Path} {n : Nat}

/-! ## XP_CLEAR (R74) -/

variable {row col : Byte}

theorem actPathsOf_none {row col : Nat} (h : ∀ p ∈ c.matrix.paths, p.row ≠ row ∨ p.col ≠ col) :
    actPathsOf row col c = c := by
  have hno : c.matrix.paths.filter (fun p => p.row == row && p.col == col) = [] := by
    rw [List.filter_eq_nil_iff]
    intro p hp
    rcases h p hp with hne | hne <;> simp [hne]
  simp only [actPathsOf, hno, List.map_nil, push, List.append_nil]

/-- An XP_CLEAR whose payload names a crosspoint of the geometry, once start-up is over. -/
structure Clears (c : Ctl) (o : OwnOrder) (row col : Byte) : Prop where
  payload : o.payload = [row, col]
  running : c.start.phase = .running
  inside : inGeometry c.site.work row.toNat col.toNat = true

theorem Clears.notStuck (h : Clears c o row col) (hx : (xpAt c row.toNat col.toNat).state ≠ .stuck) :
    xpClear o c = answerDone o.src o.tag 34 [] c := by
  simp [xpClear, h.payload, xpClearOrder, h.running, h.inside, hx]

theorem Clears.noPosition (h : Clears c o row col) (hx : (xpAt c row.toNat col.toNat).state = .stuck)
    (hopened : (xpAt c row.toNat col.toNat).position ≠ .opened)
    (hclosed : (xpAt c row.toNat col.toNat).position ≠ .closed) : xpClear o c = refuseOrder o 34 .xpStuck [] c := by
  simp only [xpClear, h.payload, xpClearOrder, h.running, h.inside, hx]
  cases hp : (xpAt c row.toNat col.toNat).position <;> simp_all [refuseOrder]

/-- The mirror shows a position, and the crosspoint takes it for its state. -/
def Shows (x : Xp) (st : XpState) : Prop :=
  x.position = .opened ∧ st = .opened ∨ x.position = .closed ∧ st = .closed

theorem Clears.follows (h : Clears c o row col) {st : XpState} (hx : (xpAt c row.toNat col.toNat).state = .stuck)
    (hst : Shows (xpAt c row.toNat col.toNat) st)
    (hp : ∀ p ∈ c.matrix.paths, p.row ≠ row.toNat ∨ p.col ≠ col.toNat) : xpClear o c = answerDone o.src o.tag 34 []
      (pushOnce .arbiter (setXp row.toNat col.toNat { xpAt c row.toNat col.toNat with state := st } c)) := by
  have hact := actPathsOf_none (c := setXp row.toNat col.toNat { xpAt c row.toNat col.toNat with state := st } c) hp
  rcases hst with ⟨hpos, rfl⟩ | ⟨hpos, rfl⟩ <;>
    simp [xpClear, h.payload, xpClearOrder, h.running, h.inside, hx, hpos, hact]

/-- A STUCK crosspoint without a path takes its position's state: the arbiter looks, and finds no request. -/
theorem xpClear_clears {st : XpState} (h : Calm s.ctl) (ht : Takes s.ctl o.src o.tag o.payload)
    (hc : Clears s.ctl o row col) (hp : ∀ p ∈ s.ctl.matrix.paths, p.row ≠ row.toNat ∨ p.col ≠ col.toNat)
    (hx : (xpAt s.ctl row.toNat col.toNat).state = .stuck) (hst : Shows (xpAt s.ctl row.toNat col.toNat) st) :
    exec (.xpClear o) s = .next { s with ctl := (setXp row.toNat col.toNat
      { xpAt s.ctl row.toNat col.toNat with state := st } { s.ctl with link := answered o 34 1 0 [] s.ctl.link }) } := by
  have hr : Clears (reserve s.ctl) o row col := ⟨hc.payload, hc.running, hc.inside⟩
  have hf := (takes_ownOrder ht (v := 34) rfl).trans (hr.follows hx hst hp)
  rw [pushOnce_new (by simp [setXp, reserve, h.settled])] at hf
  have hans := answerDone_reserve (o := o) (v := 34) [] { (setXp row.toNat col.toNat
    { xpAt s.ctl row.toNat col.toNat with state := st } s.ctl) with agenda := s.ctl.agenda ++ [.arbiter] }
  exact act_leaves (hf.trans hans) h.settled (by
      rw [h.settled]
      exact fun x hx => List.mem_singleton.mp hx ▸ inert_arbiter h.moveEmpty)
    (inert_columns h.noContext) (by simp [h.settled]) h.opsTaken

/-- Settles O37, by what the mirror shows. -/
theorem stuckCrosspointIsCleared : Obligations.StuckCrosspointIsCleared := by
  intro o s r k h ht hpay hin hp x cleared
  have hc : Clears s.ctl o r k := ⟨hpay, h.running, hin⟩
  have hr : Clears (reserve s.ctl) o r k := ⟨hpay, h.running, hin⟩
  refine ⟨fun hx => ?_, fun hx => ⟨fun hpos => ?_, fun hpos => ?_, fun hopened hclosed => ?_⟩⟩
  · exact ownOrder_done (v := 34) h.toStill ht rfl (hr.notStuck hx)
  · exact xpClear_clears h ht hc hp hx (.inl ⟨hpos, rfl⟩)
  · exact xpClear_clears h ht hc hp hx (.inr ⟨hpos, rfl⟩)
  · exact ownOrder_refused (v := 34) h.toStill ht rfl (hr.noPosition hx hopened hclosed)

/-! ## PATH_FREE (R85, R89) -/

theorem calm_reserve (h : Calm c) : Calm (reserve c) := { h with }

/-- A path as it is released at a priority (R85). -/
def released (priority : Nat) (now : Millis) (p : Path) : Path :=
  { p with state := .releasing, since := now, stage := none, proof := .none, reference := none, priority := priority }

/-- The controller with its only path just released, before the path has acted: the interlock and the arbiter are to look. -/
def releasing (priority : Nat) (p : Path) (c : Ctl) : Ctl := { c with
  agenda := [.arbiter, .interlock p.tx, .withdraw p.tx]
  matrix := { c.matrix with paths := [released priority c.clock p] } }

/-- A RELEASING path at its CLOSED crosspoint asks for its open movement (R85). -/
theorem actPath_releasing (hp : pathOf c p.pid = some p) (hst : p.state = .releasing)
    (hx : (xpAt c p.row p.col).state = .closed) : actPath p.pid c = requestMove p .openCoil c := by
  simp only [actPath, hp, hst, hx]

/-- The only path is released and asks for its open movement (R54, R64, R77, R85). -/
theorem releasePath_requests (h : Calm c) (hp : c.matrix.paths = [p]) (hst : p.state ≠ .releasing)
    (hx : (xpAt c p.row p.col).state = .closed) (priority : Nat) : releasePath p.pid priority c = { c with
      agenda := [.arbiter, .interlock p.tx, .withdraw p.tx]
      matrix := { c.matrix with
        nextAge := c.matrix.nextAge + 1
        queue := [moveRequest (released priority c.clock p) .openCoil c.matrix.nextAge]
        paths := [released priority c.clock p] } } := by
  have hof : pathOf c p.pid = some p := by simp [pathOf, hp]
  have hwithdraw : dropWaitingRead p.pid (withdrawRequest p.pid c) = { c with agenda := [.arbiter] } := by
    rw [withdrawRequest_none h.moveEmpty h.moveWaitingEmpty, pushOnce_new (by simp [h.settled]), h.settled]
    exact dropWaitingRead_none h.internalEmpty
  have hinvoke : invokeInterlock p.tx (setPathRec (released priority c.clock p) { c with agenda := [.arbiter] }) =
      releasing priority p c :=
    congrArg (push _) (setPathRec_only (c := { c with agenda := [.arbiter] }) (p := released priority c.clock p) hp rfl)
  have hact := actPath_releasing (p := released priority c.clock p) (c := releasing priority p c)
    (by simp [pathOf, releasing]) rfl hx
  rw [requestMove_enters (c := releasing priority p c) h.moveEmpty h.moveWaitingEmpty,
    pushOnce_again (by simp [releasing])] at hact
  simp only [releasePath, hof, if_neg hst, hwithdraw, enter_eq hst]
  refine Eq.trans (congrArg (fun c => actPath p.pid (tableChanged (failPathHolds p.tx c))) hinvoke) ?_
  rw [tableChanged_noHolds (c := releasing priority p c) h.heldEmpty h.running (by simp [releasing])]
  exact hact

theorem interlock_idle (h : txLive c n = false) : Inert (.interlock n) c :=
  inert_interlock (by simp [interlockCondition, h])

/-- A PATH_FREE that passes its checks is for a transmitter that is not live (R89). -/
theorem pathFreeCheck_notLive (h : pathFreeCheck n c = none) : txLive c n = false := by
  unfold pathFreeCheck at h
  split at h
  · cases h
  · split at h
    · cases h
    · split at h
      · cases h
      · next d hd =>
        split at h
        · cases h
        · split at h
          · cases h
          · next hlive => simpa [txLive, hd] using hlive

theorem pathFree_refused {b : Byte} {r : Reason} {d : List Byte} (hb : o.payload = [b])
    (hc : pathFreeCheck b.toNat c = some (r, d)) : pathFree o c = refuseOrder o 33 r d c := by
  simp only [pathFree, hb, hc]

theorem pathFree_releases {b : Byte} (hb : o.payload = [b]) (hc : pathFreeCheck b.toNat c = none)
    (hp : c.matrix.paths = [p]) (htx : p.tx = b.toNat) (hst : p.state ≠ .releasing) :
    pathFree o c = answerDone o.src o.tag 33 [] (releasePath p.pid c.site.work.site.manualPriority c) := by
  have hclaim : claimPath c b.toNat = some p := by simp [claimPath, hp, htx, Path.claims, hst]
  simp only [pathFree, hb, hc, pathFreeAct, hclaim]

/-- Settles O36: a released path asks for its open movement, for which no slot is free, and its transmitter, not live, is no
matter for the interlock. -/
theorem pathFreeReleasesThePath : Obligations.PathFreeReleasesThePath := by
  intro o s b ht hb
  refine ⟨fun r detail hs hc => ?_, fun p h hc hp htx hst hx hslot => ?_⟩
  · exact ownOrder_refused (v := 33) hs ht rfl (pathFree_refused hb hc)
  · have hne : p.state ≠ .releasing := by rcases hst with hst | hst <;> simp [hst]
    have hlive : txLive s.ctl p.tx = false := htx ▸ pathFreeCheck_notLive hc
    have hf := (takes_ownOrder ht (v := 33) rfl).trans (pathFree_releases (c := reserve s.ctl) hb hc hp htx hne)
    rw [releasePath_requests (calm_reserve h) hp hne hx] at hf
    refine act_leaves (hf.trans (answerDone_reserve (o := o) (v := 33) [] { s.ctl with
      agenda := [.arbiter, .interlock p.tx, .withdraw p.tx]
      matrix := _ })) h.settled ?_ (inert_columns h.noContext) (by simp) h.opsTaken
    simp only [List.forall_mem_cons, List.not_mem_nil, false_imp_iff, implies_true, and_true]
    exact ⟨inert_arbiter_noSlot hslot, interlock_idle hlive, inert_withdraw_live h.carriersLive hlive⟩

end Sys2Proof.Proofs
end

section
/-! The READ of a proof is answered with the bits that the mirror already shows (R68, R81): the path becomes PROVEN, OPERATIONS is
told by NOTICE PATH_RESULT (R82), and a context in PROVING goes on to RAISING (R181, R182). -/

namespace Sys2Proof.Proofs
open Sys2Proof.Machine Sys2Proof.Laws

variable {s : State} {c : Ctl} {f : PlantFrame} {e : Entry} {p : Path} {n pid code : Nat}

/-! ## The mirror -/

theorem xpKey_xpRow_xpCol (k : Nat) : xpKey (xpRow k) (xpCol k) = k := by
  simp only [xpKey, xpRow, xpCol, Nat.add_sub_cancel]
  exact Nat.div_add_mod' k 40

/-- The crosspoint that a base index, or the index behind it, belongs to (R67). -/
theorem xpAt_ofBit {b row col : Nat} (hb : b / 2 = xpKey row col) :
    xpAt c (xpRow (b / 2)) (xpCol (b / 2)) = xpAt c row col := by
  simp only [xpAt, xpKey_xpRow_xpCol, hb]

theorem setContact_unchanged {b : Nat} {v : Bool} {l : List (Nat × Nat)}
    (h : withBit b v (xpAt c (xpRow (b / 2)) (xpCol (b / 2))) = xpAt c (xpRow (b / 2)) (xpCol (b / 2))) :
    setContact (c, l) (b, v) = (c, l) := by
  unfold setContact
  split
  · exact if_pos h
  · rfl

/-- The bits of the READ of a path's proof: the closed contact is made and the open contact is not (R67, R81). -/
def proofBits (p : Path) : List (Nat × Bool) := [(xpBase p.row p.col, true), (xpBase p.row p.col + 1, false)]

/-- A proof's bits change nothing in a mirror that already shows them. -/
theorem takeBits_shown (hp : c.matrix.paths = [p]) (hclosed : (xpAt c p.row p.col).closedContact = .made)
    (hopen : (xpAt c p.row p.col).openContact = .notMade) : takeBits (proofBits p) (some p.pid) c = c := by
  have heven : xpBase p.row p.col / 2 = xpKey p.row p.col := Nat.mul_div_cancel_left _ (by omega)
  have hodd : (xpBase p.row p.col + 1) / 2 = xpKey p.row p.col := by unfold xpBase; omega
  have hmade : setContact (c, []) (xpBase p.row p.col, true) = (c, []) := by
    refine setContact_unchanged ?_
    rw [xpAt_ofBit heven, withBit, if_pos (by unfold xpBase; omega), contactOf, if_pos rfl, ← hclosed]
  have hnot : setContact (c, []) (xpBase p.row p.col + 1, false) = (c, []) := by
    refine setContact_unchanged ?_
    rw [xpAt_ofBit hodd, withBit, if_neg (by unfold xpBase; omega), contactOf, if_neg (by decide), ← hopen]
  simp [takeBits, proofBits, hmade, hnot, hp, forEach]

/-! ## The proof -/

/-- The conditions of R81 beside the bits that the READ carries. -/
structure Provable (c : Ctl) (p : Path) : Prop where
  others : ∀ q ∈ rowColOthers c.site.work p.row p.col, (xpAt c q.1 q.2).state ≠ .stuck ∧ (xpAt c q.1 q.2).position = .opened
  notLocked : lockedOut c p.ant = false
  still : antMotion c p.ant = .still
  known : positionKnown c p.ant = true

theorem Provable.noFault (h : Provable c p) : proofFault c p (proofBits p) = none := by
  have hothers : (rowColOthers c.site.work p.row p.col).any (fun q =>
      (xpAt c q.1 q.2).state == .stuck || (xpAt c q.1 q.2).position != .opened) = false := by
    rw [List.any_eq_false]
    intro q hq
    obtain ⟨hstuck, hopened⟩ := h.others q hq
    simp [hstuck, hopened]
  simp [proofFault, proofBits, hothers, h.notLocked, h.still, h.known]

/-- A path as its proof succeeds (R82). -/
def proved (now : Millis) (p : Path) : Path :=
  { p with state := .proven, since := now, stage := none, proof := .none, reference := none }

/-- The controller with its only path just proven. -/
def provenCtl (p : Path) (c : Ctl) : Ctl := { c with matrix := { c.matrix with paths := [proved c.clock p] } }

/-- What a proven path leaves due. -/
def provenSignals (p : Path) : List Signal := [.recheckPath p.tx, .fitPower p.tx, .arbiter]

theorem setPathRec_proven (hp : c.matrix.paths = [p]) (hst : p.state ≠ .proven) :
    setPathRec { p.enter c .proven with stage := none, proof := .none, reference := none } c = provenCtl p c := by
  rw [enter_eq hst]
  exact setPathRec_only hp rfl

theorem tableChanged_proven (hrun : c.start.phase = .running) (ha : Signal.arbiter ∉ c.agenda) :
    tableChanged (push [.recheckPath p.tx, .fitPower p.tx] c) = { c with agenda := c.agenda ++ provenSignals p } := by
  rw [tableChanged_running (c := push _ c) hrun, pushOnce_new (by simp [ha])]
  simp [push, provenSignals]

/-- The owner OPERATIONS is told of the proof by NOTICE PATH_RESULT (R82). -/
theorem proofDone_operations (hp : c.matrix.paths = [p]) (hst : p.state ≠ .proven) (ho : p.owner = .operations)
    (hrun : c.start.phase = .running) (ha : c.agenda = []) (hr : c.link.reports.length < 32) :
    proofDone p c = { provenCtl p c with
      link := withReport (reportNow c .pathResult (.pair p.tx p.ant) 0 0 none p.reference) c.link
      agenda := provenSignals p } := by
  have hmanual : p.manual = true := by simp [Path.manual, ho]
  have hresult : pathResult p 0 (provenCtl p c) = { provenCtl p c with
      link := withReport (reportNow c .pathResult (.pair p.tx p.ant) 0 0 none p.reference) c.link } := raise_room hr
  simp only [proofDone, setPathRec_proven hp hst, ho, hmanual, if_true, hresult]
  refine (tableChanged_proven (c := { provenCtl p c with link := _ }) hrun (by simp [provenCtl, ha])).trans ?_
  simp only [provenCtl, ha, List.nil_append]

/-- A BUSY context that owns the path is told of the proof (R82). -/
theorem proofDone_context {x : Ctx} (hp : c.matrix.paths = [p]) (hst : p.state ≠ .proven) (ho : p.owner = .ctx n)
    (hrun : c.start.phase = .running) (ha : c.agenda = []) (hx : busyCtx c n = some x) :
    proofDone p c = { provenCtl p c with
      agenda := .pathNews n { occ := x.occ, isEnd := x.isEnd } .proven :: provenSignals p } := by
  have hx' : busyCtx (provenCtl p c) n = some x := hx
  simp only [proofDone, setPathRec_proven hp hst, ho, tellCtx, hx']
  refine (tableChanged_proven (c := push _ (provenCtl p c)) hrun (by simp [provenCtl, ha])).trans ?_
  simp only [provenCtl, push, ha, List.nil_append, List.singleton_append]

/-! ## The READ answered -/

/-- The end of a proof's READ by an ANSWER DONE is dealt with when the READ is taken (R81). -/
theorem inert_ended_read (ho : e.origin = .mi (.proof pid)) : Inert (.ended e (some .done) code) c := by
  intro l
  simp only [handle, exchangeEnded, ho, miEnded]

theorem parseRead_two {b1 b2 o : Byte} : parseRead [b1, b2, 2#8, o] =
    some [(rd2 b1 b2, octetBit [o] 0), (rd2 b1 b2 + 1, octetBit [o] 1)] := by
  simp [parseRead, ceilDiv, List.range_succ]

/-- An ANSWER DONE to the READ of a path's proof, with the bits of a path that is CLOSED. -/
structure ReadDone (c : Ctl) (f : PlantFrame) (e : Entry) (p : Path) : Prop where
  matched : Matches c f .matrix e .done
  origin : e.origin = .mi (.proof p.pid)
  read : ∃ b k, e.verb = .latchRead b k
  bits : parseRead (f.payload.drop 2) = some (proofBits p)
  alone : c.matrix.paths = [p]
  proof : p.proof = .inProgress (some e.tag)
  closed : (xpAt c p.row p.col).closedContact = .made
  notOpen : (xpAt c p.row p.col).openContact = .notMade
  provable : Provable c p

theorem ReadDone.answered (h : ReadDone c f e p) (hrun : c.start.phase = .running) :
    plantFrameEnds (answerFrame f) c = push [.port, .ended e (some .done) (refusalCode f)]
      (proofDone p { c with link := entryEnded e f c.link }) := by
  obtain ⟨b, k, hverb⟩ := h.read
  have hbits : parseRead ((answerFrame f).payload.drop 2) = some (proofBits p) := h.bits
  have hof : pathOf { c with link := entryEnded e f c.link } p.pid = some p := by simp [pathOf, h.alone]
  have htake : takeBits (proofBits p) (some p.pid) { c with link := entryEnded e f c.link } =
      { c with link := entryEnded e f c.link } := takeBits_shown h.alone h.closed h.notOpen
  have hprov : Provable { c with link := entryEnded e f c.link } p :=
    ⟨h.provable.others, h.provable.notLocked, h.provable.still, h.provable.known⟩
  have hread : readAnswered e (proofBits p) { c with link := entryEnded e f c.link } =
      proofDone p { c with link := entryEnded e f c.link } := by
    simp only [readAnswered, h.origin, hof, h.proof, if_true, htake, hprov.noFault]
  have hend : endEntry e (heard f c) = { c with link := entryEnded e f c.link } := rfl
  rw [h.matched.ends hrun]
  simp only [matchedAnswer, h.origin, hverb, hbits, hend, Option.getD_some, Outcome.good, if_true, hread]
  rfl

/-! ## From PROVING to RAISING (R181, R182) -/

/-- A START context in PROVING, the only context, with its transmitter. -/
structure ProvingCtx (c : Ctl) (n : Nat) (x : Ctx) (st : TxStatic) (d : TxDyn) : Prop where
  contexts : c.cu = [(n, x)]
  busy : x.busy = true
  start : x.isEnd = false
  phase : x.phase = .proving
  feed : 1 ≤ x.tFeed ∧ x.tFeed ≤ 32
  static : txStatic c x.tx = some st
  dynamic : txDyn c x.tx = some d
  owner : d.owner = .ctx n
  notLocal : localFlag c x.tx d = false
  known : stationClass c.site.work st.station = some .transmitter
  here : txOfStation c.site.work st.station = some x.tx

variable {x : Ctx} {st : TxStatic} {d : TxDyn}

/-- The context as it enters RAISING (R182). -/
def raising (now : Millis) (tu : Nat) (x : Ctx) : Ctx :=
  { x with phase := .raising, deadline := some (now + (tu + 10) * 1000), raised := false }

/-- The FEED by which a context begins RAISING. -/
def feedFrame (n : Nat) (x : Ctx) (st : TxStatic) : PFrame :=
  { dest := st.station, verb := .feed x.tFeed, cls := .internal, origin := .ctx n { occ := x.occ, isEnd := false } }

/-- The controller with the context in RAISING and its FEED offered. -/
def raisingCtl (n : Nat) (x : Ctx) (st : TxStatic) (c : Ctl) : Ctl :=
  { c with link := withOwn (feedFrame n x st) c.link, cu := [(n, raising c.clock st.tu x)] }

theorem ProvingCtx.busyCtx (h : ProvingCtx c n x st d) : busyCtx c n = some x := by
  simp [Machine.busyCtx, h.contexts, tget, h.busy]

theorem ProvingCtx.verdict (h : ProvingCtx c n x st d) (hrun : c.start.phase = .running) :
    gateVerdict (feedFrame n x st) c = .pass (.feed x.tFeed) none := by
  have hfills : fillsRecords (feedFrame n x st).origin (.feed x.tFeed) = false := by simp [fillsRecords]
  have howned : ownedByOther d (feedFrame n x st).origin = false := by simp [ownedByOther, feedFrame, h.owner]
  simp only [gateVerdict, feedFrame, h.known, h.here, h.static, h.dynamic]
  simp only [feedFrame] at hfills howned
  simp [transmitterVerdict, hfills, hrun, h.notLocal, howned, transmitterVerbVerdict, h.feed]

/-- The proven path takes its context from PROVING to RAISING (R181, R182). -/
theorem ProvingCtx.raises (h : ProvingCtx c n x st d) (hrun : c.start.phase = .running) (hr : OwnRoom c.link) :
    handle (.pathNews n { occ := x.occ, isEnd := x.isEnd } .proven) c = raisingCtl n x st c := by
  have hat : ctxAt c n { occ := x.occ, isEnd := x.isEnd } = some x := by simp [ctxAt, h.busyCtx, ctxWork]
  have hmod : modCtx n (fun y => { y with
      phase := .raising, deadline := some (afterSeconds c (st.tu + 10)), raised := false }) c =
      { c with cu := [(n, raising c.clock st.tu x)] } := by
    simp only [modCtx, Ctl.onCu, h.contexts, tmod, tget, tset, if_true, Nat.lt_irrefl, if_false]
    rfl
  have hfeed : offerTx n x (.feed x.tFeed) { c with cu := [(n, raising c.clock st.tu x)] } = raisingCtl n x st c := by
    have hst : txStatic { c with cu := [(n, raising c.clock st.tu x)] } x.tx = some st := h.static
    have hverdict : gateVerdict (feedFrame n x st) { c with cu := [(n, raising c.clock st.tu x)] } =
      .pass (.feed x.tFeed) none := h.verdict hrun
    simp only [offerTx, hst, ctxWork, h.start]
    exact offer_joins (f := feedFrame n x st) rfl rfl hr hverdict rfl hr.taken
  simp only [handle, ctxPathNews, hat, h.phase, enterRaising, h.busyCtx, h.static, hmod, hfeed]

/-- A FEED is no POWER to be fitted (R51). -/
theorem inert_fitPower_feed {q : Queued} {k : Nat} (h : c.link.plantQueue = [q]) (hq : q.frame.verb = .feed k) :
    Inert (.fitPower n) c := by
  intro l
  have hno : ∀ station limit, powerAbove station limit q = false := by simp [powerAbove, hq]
  simp only [handle, fitPower, removeQueued, h, rewritePowers, Ctl.onLink, List.filter_cons, List.map_cons, hno,
    List.filter_nil, List.map_nil, List.isEmpty_nil, Bool.false_eq_true, if_true, if_false, forEach_nil]
  rw [← h]
  repeat' split
  all_goals rfl

/-- What a proven path and the end of its READ leave due finds nothing to do where no frame is held, no POWER is to be fitted, no
movement is requested and the port is occupied. -/
theorem inert_afterProof (hheld : c.gate.held = []) (hfit : Inert (.fitPower p.tx) c) (hmoves : c.matrix.queue = [])
    (hport : c.link.plantTx.isSome = true) (ho : e.origin = .mi (.proof pid)) :
    ∀ y ∈ provenSignals p ++ [.port, .ended e (some .done) code], Inert y c := by
  simp only [provenSignals, List.cons_append, List.nil_append, List.forall_mem_cons, List.not_mem_nil, false_imp_iff,
    implies_true, and_true]
  exact ⟨inert_recheckPath hheld _, hfit, inert_arbiter hmoves, inert_port hport, inert_ended_read ho⟩

/-- Settles O46, by the owner that is told of the proof. -/
theorem aProofMakesThePathProven : Obligations.AProofMakesThePathProven := by
  intro f s e p b1 b2 o h hclass hp hfound horigin hverb hproof hst hpay hrd hb0 hb1 hclosed hopen hothers hlock hstill
    hknown hqueue hreports heard proven
  have hm : Matches s.ctl f .matrix e .done := ⟨hclass, hfound, ⟨_, _, hpay, rfl⟩, rfl⟩
  have hbits : parseRead (f.payload.drop 2) = some (proofBits p) := by
    rw [hpay]
    exact parseRead_two.trans (by rw [hrd, hb0, hb1, proofBits])
  have hread : ReadDone s.ctl f e p := ⟨hm, horigin, ⟨_, _, hverb⟩, hbits, hp, hproof, hclosed, hopen, hothers, hlock,
    hstill, hknown⟩
  have hans := hread.answered h.running
  refine ⟨fun ho hidle => ?_, fun n x st d ho hcu hbusy hisEnd hphase htx hfeed1 hfeed32 hs hd howner hlocal hk hhere => ?_⟩
  case refine_1 =>
    rw [proofDone_operations (c := { s.ctl with link := entryEnded e f s.ctl.link }) hp hst ho h.running h.settled
      hreports] at hans
    exact act_leaves (c := { provenCtl p s.ctl with link := _ }) hans h.settled
      (inert_afterProof h.heldEmpty (inert_fitPower_empty hqueue) h.moveEmpty h.portTaken horigin) (inert_columns hidle)
      (by simp [provenSignals]) h.opsTaken
  case refine_2 =>
    have hctx : ∀ m : List Signal, ProvingCtx { provenCtl p s.ctl with
        link := entryEnded e f s.ctl.link, agenda := m } n x st d := fun _ =>
      ⟨hcu, hbusy, hisEnd, hphase, ⟨hfeed1, hfeed32⟩, hs, hd, howner, hlocal, hk, hhere⟩
    have hroom : OwnRoom (entryEnded e f s.ctl.link) :=
      ⟨by simp [entryEnded, hearing, hqueue], h.urgentEmpty, h.internalEmpty, h.portTaken⟩
    rw [proofDone_context (c := { s.ctl with link := entryEnded e f s.ctl.link }) hp hst ho h.running h.settled
      (hctx []).busyCtx] at hans
    have hfit : Inert (.fitPower p.tx) (raisingCtl n x st { provenCtl p s.ctl with link := entryEnded e f s.ctl.link }) :=
      inert_fitPower_feed (q := { tag := nextTag (entryEnded e f s.ctl.link), frame := feedFrame n x st })
        (by simp [raisingCtl, entryEnded, hearing, hqueue, withOwn]) rfl
    exact act_leads (c := { provenCtl p s.ctl with link := entryEnded e f s.ctl.link })
      (c' := raisingCtl n x st { provenCtl p s.ctl with link := entryEnded e f s.ctl.link }) hans
      (fun m => (hctx m).raises h.running hroom) h.settled
      (inert_afterProof h.heldEmpty hfit h.moveEmpty h.portTaken horigin) (inert_columns_unjudged (by simp [raisingCtl, raising]))
      (by simp [provenSignals]) h.opsTaken

end Sys2Proof.Proofs
end

section
/-! PATH_SET (R70, R75, R77 to R79, R87). What a granted movement leaves behind is refuted on a transmitter whose row lies outside the
geometry, and holds where its crosspoint lies within. -/

namespace Sys2Proof.Proofs
open Sys2Proof.Machine Sys2Proof.Laws

variable {s : State} {o : OwnOrder} {c : Ctl} {p : Path} {n a row col slot : Nat} {b1 b2 : Byte}

/-! ## Refused, and kept -/

theorem pathSet_refuses {r : Reason} {d : List Byte} (hb : o.payload = [b1, b2])
    (hc : pathSetCheck b1.toNat b2.toNat c = some (r, d)) : pathSet o c = refuseOrder o 32 r d c := by
  simp only [pathSet, hb, hc]

/-- A PATH_SET that passes its checks names a transmitter and an antenna that the site tables have (R87). -/
theorem pathSetCheck_static (h : pathSetCheck n a c = none) :
    ∃ st x, txStatic c n = some st ∧ antStatic c a = some x := by
  unfold pathSetCheck at h
  split at h
  · cases h
  · split at h
    · cases h
    · split at h
      · next st _ x hs _ ha => exact ⟨st, x, hs, ha⟩
      · cases h

/-- The path stands PROVEN to the antenna asked for: OPERATIONS becomes its owner (R87). -/
theorem pathSet_keeps (hb : o.payload = [b1, b2]) (hc : pathSetCheck b1.toNat b2.toNat c = none)
    (hp : claimPath c b1.toNat = some p) (ha : p.ant = b2.toNat) (hst : p.state = .proven) :
    pathSet o c = answerDone o.src o.tag 32 [] (setPathRec { p with owner := .operations } c) := by
  obtain ⟨st, x, hs, hx⟩ := pathSetCheck_static hc
  have hact : pathSetAct b1.toNat b2.toNat (orderRef o) c = (setPathRec { p with owner := .operations } c, false) := by
    simp only [pathSetAct, hs, hx, hp, if_pos ha, if_pos hst]
  simp only [pathSet, hb, hc, hact, Bool.false_eq_true, if_false]

/-- A PATH_SET that fails a check (R87). -/
theorem pathSet_refused {r : Reason} {d : List Byte} (hs : Still s.ctl) (ht : Takes s.ctl o.src o.tag o.payload)
    (hb : o.payload = [b1, b2]) (hc : pathSetCheck b1.toNat b2.toNat s.ctl = some (r, d)) :
    exec (.pathSet o) s = .next { s with ctl := { s.ctl with link := answered o 32 3 r.code d s.ctl.link } } :=
  ownOrder_refused (v := 32) hs ht rfl (pathSet_refuses (c := reserve s.ctl) hb hc)

/-- A PROVEN path kept for OPERATIONS, where no context judges columns (R175). -/
theorem pathSet_kept (hs : Still s.ctl) (ht : Takes s.ctl o.src o.tag o.payload) (hb : o.payload = [b1, b2])
    (hc : pathSetCheck b1.toNat b2.toNat s.ctl = none) (hp : claimPath s.ctl b1.toNat = some p) (ha : p.ant = b2.toNat)
    (hst : p.state = .proven)
    (hcu : ∀ x ∈ s.ctl.cu, x.2.busy = true → x.2.phase ≠ .releasing ∧ x.2.phase ≠ .awaitAntenna) :
    exec (.pathSet o) s = .next { s with ctl := { s.ctl with
      link := answered o 32 1 0 [] s.ctl.link
      matrix := { s.ctl.matrix with paths := pathsWith { p with owner := .operations } s.ctl.matrix.paths } } } := by
  have hf := (takes_ownOrder ht (v := 32) rfl).trans (pathSet_keeps (c := reserve s.ctl) hb hc hp ha hst)
  have hans := answerDone_reserve (o := o) (v := 32) [] (setPathRec { p with owner := .operations } s.ctl)
  exact act_leaves (l := s.ctl.agenda) (hf.trans hans) hs.settled (by simp [hs.settled]) (inert_columns_unjudged hcu)
    (by simp [hs.settled]) hs.opsTaken

/-! ## Set -/

/-- A path as PATH_SET sets it (R79, R87). -/
def freshPath (c : Ctl) (n a row col : Nat) (ref : Ref) : Path :=
  { pid := c.matrix.nextPid, tx := n, ant := a, row := row, col := col, state := .setting, owner := .operations,
    stage := some .waiting, proof := .none, priority := c.site.work.site.manualPriority, since := c.clock,
    reference := some ref, granted := false, settleFrom := c.clock, awaits := [] }

/-- The controller with a path set whose close movement is requested. -/
def requested (p : Path) (c : Ctl) : Ctl := { c with matrix := { c.matrix with
  nextPid := c.matrix.nextPid + 1
  nextAge := c.matrix.nextAge + 1
  queue := [moveRequest p .closeCoil c.matrix.nextAge]
  paths := c.matrix.paths ++ [p] } }

/-- The records of the path table have numbers below the next one. -/
def Numbered (c : Ctl) : Prop := ∀ p ∈ c.matrix.paths, p.pid < c.matrix.nextPid

theorem Numbered.find_new (h : Numbered c) (hp : p.pid = c.matrix.nextPid) :
    (c.matrix.paths ++ [p]).find? (fun q => q.pid == c.matrix.nextPid) = some p := by
  have hold : c.matrix.paths.find? (fun q => q.pid == c.matrix.nextPid) = none := by
    rw [List.find?_eq_none]
    intro q hq
    simpa using Nat.ne_of_lt (h q hq)
  simp [List.find?_append, hold, hp]

/-- A WAITING path at its OPEN crosspoint asks for its close movement (R79). -/
theorem actPath_waiting (hp : pathOf c p.pid = some p) (hst : p.state = .setting) (hstage : p.stage = some .waiting)
    (hx : (xpAt c p.row p.col).state = .opened) : actPath p.pid c = requestMove p .closeCoil c := by
  simp only [actPath, hp, hst, hstage, hx]

/-- The controller with a new record in the path table, before the path has acted. -/
def added (p : Path) (c : Ctl) : Ctl := { c with
  agenda := [.arbiter]
  matrix := { c.matrix with nextPid := c.matrix.nextPid + 1, paths := c.matrix.paths ++ [p] } }

theorem setPath_requests {ref : Ref} (h : Calm c) (hx : (xpAt c row col).state = .opened) (hnew : Numbered c) :
    setPath n a row col .operations c.site.work.site.manualPriority (some ref) [] c =
      { requested (freshPath c n a row col ref) c with agenda := [.arbiter] } := by
  have htable : tableChanged (c.onMatrix (fun m => { m with
      nextPid := c.matrix.nextPid + 1, paths := m.paths ++ [freshPath c n a row col ref] })) =
      added (freshPath c n a row col ref) c := by
    rw [tableChanged_running (c := Ctl.onMatrix _ c) h.running, pushOnce_new (by simp [h.settled])]
    simp only [Ctl.onMatrix, h.settled, List.nil_append, added]
  have hact := actPath_waiting (c := added (freshPath c n a row col ref) c) (p := freshPath c n a row col ref)
    (hnew.find_new rfl) rfl rfl hx
  rw [requestMove_enters (c := added _ c) h.moveEmpty h.moveWaitingEmpty, pushOnce_again (by simp [added])] at hact
  exact (congrArg (actPath c.matrix.nextPid) htable).trans hact

/-- A PATH_SET that passes its checks where neither row nor column is claimed: the path is set and asks for its movement (R79). -/
structure SetsNew (c : Ctl) (o : OwnOrder) (b1 b2 : Byte) (st : TxStatic) (x : AntStatic) : Prop where
  payload : o.payload = [b1, b2]
  passes : pathSetCheck b1.toNat b2.toNat c = none
  row : claimPath c b1.toNat = none
  static : txStatic c b1.toNat = some st
  antenna : antStatic c b2.toNat = some x
  column : columnClaim c b1.toNat x.column = none
  opened : (xpAt c st.row x.column).state = .opened
  numbered : Numbered c

variable {st : TxStatic} {x : AntStatic}

/-- The path that a PATH_SET sets. -/
def setBy (o : OwnOrder) (b1 b2 : Byte) (st : TxStatic) (x : AntStatic) (c : Ctl) : Path :=
  freshPath c b1.toNat b2.toNat st.row x.column (orderRef o)

theorem SetsNew.accepted (h : SetsNew c o b1 b2 st x) (hc : Calm c) : pathSet o c = answerAccepted o.src o.tag 32
    { requested (setBy o b1 b2 st x c) c with agenda := [.arbiter] } := by
  have hact : pathSetAct b1.toNat b2.toNat (orderRef o) c =
      ({ requested (setBy o b1 b2 st x c) c with agenda := [.arbiter] }, true) := by
    simp only [pathSetAct, h.static, h.antenna, h.row, h.column, Option.map_none, Option.toList_none,
      setPath_requests hc h.opened h.numbered]
    rfl
  simp only [pathSet, h.payload, h.passes, hact, if_true]

theorem setsNew_reserve (h : SetsNew c o b1 b2 st x) : SetsNew (reserve c) o b1 b2 st x := { h with }

/-- The order is taken and answered ACCEPTED, and the arbiter is to look. -/
theorem SetsNew.taken (h : SetsNew s.ctl o b1 b2 st x) (hc : Calm s.ctl) (ht : Takes s.ctl o.src o.tag o.payload) :
    opsFrameEnds (ownOrder 32 o) s.ctl = { requested (setBy o b1 b2 st x s.ctl)
      { s.ctl with link := answered o 32 2 0 [] s.ctl.link } with agenda := [.arbiter] } :=
  ((takes_ownOrder ht (v := 32) rfl).trans ((setsNew_reserve h).accepted (calm_reserve hc))).trans
    (reserve_answerAccepted _ _ _ { requested (setBy o b1 b2 st x s.ctl) s.ctl with agenda := [.arbiter] })

/-- With no slot free the path waits for its movement (R77). -/
theorem pathSet_waits (h : SetsNew s.ctl o b1 b2 st x) (hc : Calm s.ctl) (ht : Takes s.ctl o.src o.tag o.payload)
    (hslot : freeSlotOf s.ctl.matrix = none) : exec (.pathSet o) s = .next { s with ctl :=
      (requested (setBy o b1 b2 st x s.ctl) { s.ctl with link := answered o 32 2 0 [] s.ctl.link }) } :=
  act_leaves (h.taken hc ht) hc.settled
    (fun _ hy => List.mem_singleton.mp hy ▸ inert_arbiter_noSlot (c := requested _ _) hslot)
    (inert_columns hc.noContext) (by simp) hc.opsTaken

/-! ## Granted at once (R70, R76) -/

/-- The path whose close movement is granted. -/
def movingPath (p : Path) : Path := { p with granted := true, stage := some .moving }

/-- The matrix with a path set whose close movement has been granted a slot, but for the crosspoint (R70). -/
def movingMatrix (slot : Nat) (p : Path) (c : Ctl) : Matrix := { c.matrix with
  nextPid := c.matrix.nextPid + 1
  nextAge := c.matrix.nextAge + 1
  queue := []
  slots := tset slot { req := moveRequest p .closeCoil c.matrix.nextAge, stage := .driving,
                       limit := 3 * c.site.work.site.sx * 1000, started := none, before := .opened } c.matrix.slots
  paths := c.matrix.paths ++ [movingPath p] }

/-- The controller with a path set and its movement granted, the SET not yet offered (R70). -/
def granted (slot : Nat) (p : Path) (c : Ctl) : Ctl :=
  setXp p.row p.col { xpAt c p.row p.col with state := .closing, movement := some slot }
    { c with matrix := movingMatrix slot p c }

/-- A path of OPERATIONS to be set whose close movement passes the re-check of the arbiter: the crosspoints of its row and column
are OPEN, the row is off, the antenna is not locked out and no other path claims the column (R76). -/
structure Grantable (c : Ctl) (p : Path) (slot : Nat) : Prop where
  free : freeSlotOf c.matrix = some slot
  nobody : c.matrix.waiting = []
  numbered : Numbered c
  newest : p.pid = c.matrix.nextPid
  owner : p.owner = .operations
  opened : (xpAt c p.row p.col).state = .opened
  others : ∀ q ∈ rowColOthers c.site.work p.row p.col, (xpAt c q.1 q.2).state = .opened
  off : rowOff c p.row = true
  antenna : antOfCol c.site.work p.col = some p.ant
  notLocked : lockedOut c p.ant = false
  alone : ∀ q ∈ c.matrix.paths, q.claims = true → q.col ≠ p.col

theorem Grantable.allowed (h : Grantable c p slot) :
    moveAllowed (requested p c) (moveRequest p .closeCoil c.matrix.nextAge) = true := by
  have hothers : (rowColOthers c.site.work p.row p.col).all (fun q => (xpAt c q.1 q.2).state == .opened) = true := by
    rw [List.all_eq_true]
    exact fun q hq => beq_iff_eq.mpr (h.others q hq)
  have halone : (c.matrix.paths ++ [p]).any (fun q => q.claims && q.col == p.col && q.pid != p.pid) = false := by
    rw [List.any_eq_false]
    intro q hq
    rcases List.mem_append.mp hq with hq | hq
    · cases hc : q.claims <;> simp [h.alone q hq, hc]
    · simp [List.mem_singleton.mp hq]
  show (decide ((xpAt c p.row p.col).state = .opened) &&
    (rowColOthers c.site.work p.row p.col).all (fun q => (xpAt c q.1 q.2).state == .opened) && rowOff c p.row &&
    (match antOfCol c.site.work p.col with | some a => !lockedOut c a | none => true) &&
    !(c.matrix.paths ++ [p]).any (fun q => q.claims && q.col == p.col && q.pid != p.pid)) = true
  simp only [h.opened, hothers, h.off, h.antenna, h.notLocked, halone, decide_true, Bool.not_false, Bool.and_self]

/-- The matrix as a grant leaves it, but for the crosspoint (R70). -/
def grantMatrix (slot : Nat) (r : MoveReq) (before : XpState) (limit : Millis) (m : Matrix) : Matrix :=
  settleQueue { m with
    queue := dropFirst (fun q => decide (q = r)) m.queue
    slots := tset slot { req := r, stage := .driving, limit := limit, started := none, before := before } m.slots
    paths := m.paths.map (fun p =>
      if p.pid = r.pid ∧ r.coil = .closeCoil then { p with granted := true, stage := some .moving } else p) }

/-- A close movement is granted for a path that is no context's (R70). -/
theorem grant_close {r : MoveReq} {c' : Ctl} (hcoil : r.coil = .closeCoil)
    (hc' : setXp r.row r.col { xpAt c r.row r.col with state := .closing, movement := some slot }
      (c.onMatrix (grantMatrix slot r (xpAt c r.row r.col).state (3 * c.site.work.site.sx * 1000))) = c')
    (hp : pathOf c' r.pid = some p) (ho : p.owner = .operations) :
    grant slot r c = offerLatch (.latchSet (coilBit r)) (.mi (.set slot)) c' := by
  subst hc'
  unfold grantMatrix at hp ⊢
  simp only [grant, hcoil]
  simp only [hcoil] at hp
  simp only [hp, Option.map_some, ho]

theorem Grantable.paths (h : Grantable c p slot) : (c.matrix.paths ++ [p]).map (fun q =>
    if q.pid = p.pid then { q with granted := true, stage := some .moving } else q) = c.matrix.paths ++ [movingPath p] := by
  have hold : c.matrix.paths.map (fun q =>
      if q.pid = p.pid then { q with granted := true, stage := some .moving } else q) = c.matrix.paths := by
    refine (List.map_congr_left (fun q hq => ?_)).trans (List.map_id _)
    exact if_neg (h.newest ▸ Nat.ne_of_lt (h.numbered q hq))
  rw [List.map_append, hold]
  simp [movingPath]

theorem Grantable.matrix (h : Grantable c p slot) : grantMatrix slot (moveRequest p .closeCoil c.matrix.nextAge) .opened
    (3 * c.site.work.site.sx * 1000) (requested p c).matrix = movingMatrix slot p c := by
  have hqueue : dropFirst (fun q => decide (q = moveRequest p .closeCoil c.matrix.nextAge))
      [moveRequest p .closeCoil c.matrix.nextAge] = [] := by simp [dropFirst]
  have hpaths := h.paths
  unfold grantMatrix
  rw [settleQueue_nobody (by exact h.nobody)]
  simp only [requested, hqueue]
  simp only [moveRequest, and_true, hpaths, movingMatrix]

theorem Grantable.grants (h : Grantable c p slot) : grant slot (moveRequest p .closeCoil c.matrix.nextAge) (requested p c) =
    offerLatch (.latchSet (xpBase p.row p.col)) (.mi (.set slot)) (granted slot p c) := by
  have hof : pathOf (granted slot p c) p.pid = some (movingPath p) := by
    rw [h.newest]
    exact h.numbered.find_new (p := movingPath p) h.newest
  refine grant_close (r := moveRequest p .closeCoil c.matrix.nextAge) (c := requested p c) rfl ?_ hof h.owner
  have hbefore : (xpAt (requested p c) p.row p.col).state = .opened := h.opened
  show setXp p.row p.col _ ((requested p c).onMatrix (grantMatrix slot (moveRequest p .closeCoil c.matrix.nextAge)
    (xpAt (requested p c) p.row p.col).state (3 * c.site.work.site.sx * 1000))) = _
  rw [hbefore]
  unfold Ctl.onMatrix
  rw [h.matrix]
  rfl

/-- A round of the arbiter with one close request that passes, and no other behind it (R77). -/
theorem arbiter_grants {r : MoveReq} {c' : Ctl} (hq : c.matrix.queue = [r]) (hw : c.matrix.waiting = [])
    (hslot : freeSlotOf c.matrix = some slot) (hcoil : r.coil = .closeCoil) (hallow : moveAllowed c r = true)
    (hg : grant slot r c = c') (hq' : c'.matrix.queue = []) : arbiter c = c' := by
  have hneedless : moveNeedless c r = false := by simp [moveNeedless, hcoil]
  have hfind : (insertSort moveBefore [r]).find? (fun r => moveNeedless c r || moveAllowed c r) = some r := by
    simp [insertSort, orderedInsert, hallow]
  have hround : arbiterRound 5 c = c' := by
    rw [arbiterRound, hslot]
    simp only [hq, hfind, hneedless, Bool.false_eq_true, if_false, hg, arbiterRound_empty hq']
  rw [arbiter, hq, hw]
  exact hround

/-- A coil bit belongs to the crosspoint of its row and column (R67). -/
theorem xpRow_xpBase (hr : 1 ≤ row) (hk : col ≤ 40) : xpRow (xpBase row col / 2) = row := by
  unfold xpRow xpBase xpKey
  omega

theorem xpCol_xpBase (hk : 1 ≤ col) (hk40 : col ≤ 40) : xpCol (xpBase row col / 2) = col := by
  unfold xpCol xpBase xpKey
  omega

/-- A crosspoint of the geometry, its column one of the 40 that the sensor bits number (R67). -/
structure Inside (c : Ctl) (row col : Nat) : Prop where
  geometry : inGeometry c.site.work row col = true
  column : col ≤ 40

theorem Inside.first (h : Inside c row col) : 1 ≤ row ∧ 1 ≤ col := by
  have hg := h.geometry
  unfold inGeometry at hg
  split at hg
  · simp only [Bool.and_eq_true, decide_eq_true_eq] at hg
    omega
  · cases hg

/-- The SET of a granted movement joins the plant queue (R56, R70). -/
theorem Grantable.sets {station : Nat} (h : Grantable c p slot) (hin : Inside c p.row p.col) (hroom : LatchRoom c station) :
    arbiter (requested p c) = { granted slot p c with
      link := withOwn (latchFrame station (.latchSet (xpBase p.row p.col)) (.set slot)) c.link } := by
  obtain ⟨hrow, hcol⟩ := hin.first
  have hbit : coilBitInGeometry c.site.work (xpBase p.row p.col) = true := by
    rw [coilBitInGeometry, xpRow_xpBase hrow hin.column, xpCol_xpBase hcol hin.column, hin.geometry]
  have hoff : rowOff c (xpRow (xpBase p.row p.col / 2)) = true := by rw [xpRow_xpBase hrow hin.column, h.off]
  have hset := offerLatch_set (c := granted slot p c) (slot := slot) (station := station)
    ⟨⟨hroom.room, hroom.urgent, hroom.internal, hroom.taken⟩, hroom.here, hroom.known⟩ hbit hoff
  exact arbiter_grants (c := requested p c) rfl h.nobody h.free rfl h.allowed (h.grants.trans hset) rfl

theorem mem_of_find_none {α : Type} {l : List α} {q : α → Bool} (h : l.find? q = none) {y : α} (hy : y ∈ l) :
    q y = false := by simpa using List.find?_eq_none.mp h y hy

/-- Where neither the row nor the column is claimed, no path claims the column. -/
theorem SetsNew.alone (h : SetsNew c o b1 b2 st x) : ∀ q ∈ c.matrix.paths, q.claims = true → q.col ≠ x.column := by
  intro q hq hclaims hcol
  have hrow := mem_of_find_none h.row hq
  have hcolumn := mem_of_find_none h.column hq
  simp only [hclaims, hcol, Bool.and_true, beq_eq_false_iff_ne, ne_eq, beq_self_eq_true, Bool.true_and,
    bne_eq_false_iff_eq] at hrow hcolumn
  exact hrow hcolumn

/-- What O35 says of a movement granted at once holds where the crosspoint lies in the geometry. -/
theorem pathSet_granted {station : Nat} (h : SetsNew s.ctl o b1 b2 st x) (hc : Calm s.ctl)
    (ht : Takes s.ctl o.src o.tag o.payload) (hslot : freeSlotOf s.ctl.matrix = some slot)
    (hothers : ∀ q ∈ rowColOthers s.ctl.site.work st.row x.column, (xpAt s.ctl q.1 q.2).state = .opened)
    (hoff : rowOff s.ctl st.row = true) (hant : antOfCol s.ctl.site.work x.column = some b2.toNat)
    (hlock : lockedOut s.ctl b2.toNat = false) (hin : Inside s.ctl st.row x.column)
    (hmatrix : matrixStation s.ctl.site.work = some station)
    (hknown : stationClass s.ctl.site.work station = some .matrix) (hq : s.ctl.link.plantQueue.length < 32) :
    exec (.pathSet o) s = .next { s with ctl := { granted slot (setBy o b1 b2 st x s.ctl) s.ctl with
      link := withOwn (latchFrame station (.latchSet (xpBase st.row x.column)) (.set slot))
        (answered o 32 2 0 [] s.ctl.link) } } := by
  have hgrant : ∀ m : List Signal, Grantable { s.ctl with link := answered o 32 2 0 [] s.ctl.link, agenda := m }
      (setBy o b1 b2 st x s.ctl) slot := fun _ =>
    ⟨hslot, hc.moveWaitingEmpty, h.numbered, rfl, rfl, h.opened, hothers, hoff, hant, hlock, h.alone⟩
  have hround := fun m : List Signal =>
    (hgrant m).sets (station := station) ⟨hin.geometry, hin.column⟩
      ⟨⟨hq, hc.urgentEmpty, hc.internalEmpty, hc.portTaken⟩, hmatrix, hknown⟩
  exact act_leads (c := requested (setBy o b1 b2 st x s.ctl) { s.ctl with link := answered o 32 2 0 [] s.ctl.link })
    (c' := { granted slot (setBy o b1 b2 st x s.ctl) s.ctl with link := _ }) (h.taken hc ht) hround hc.settled
    (by simp) (inert_columns hc.noContext) (by simp) hc.opsTaken

/-! ## A row outside the geometry -/

/-- A step of the settling is counted off its fuel. -/
theorem settle_add : ∀ (m n : Nat) (c : Ctl), settle (m + n) c = settle n (settle m c)
  | 0, n, c => by rw [Nat.zero_add]; rfl
  | m + 1, n, c => by
    rw [Nat.add_right_comm]
    cases hc : c.agenda with
    | nil => rw [settle_nil hc, settle_nil hc, settle_nil hc]
    | cons x rest =>
      simp only [settle, hc]
      exact settle_add m n _

/-- Consequences that come round to where they began never settle. -/
theorem settle_period {k : Nat} (h : settle k c = c) : ∀ m, settle (m * k) c = c
  | 0 => by rw [Nat.zero_mul]; rfl
  | m + 1 => by rw [Nat.succ_mul, settle_add, settle_period h m, h]

/-- A crosspoint that stands OPEN. -/
def openXp : Xp := { state := .opened, closedContact := .notMade, openContact := .made, movement := none }

/-- A dummy antenna on column 1. -/
def columnOne : AntStatic :=
  { kind := .dummy, column := 1, drive := none, boresight := none, stopBearing := none, margin := none, slewRate := none,
    settle := none, offsets := none, phasing := none }

/-- A calm controller whose geometry has one row, and whose transmitter 1 stands on row 2. No SITE_WRITE makes such tables, but
the statement takes every calm state. -/
def rowOutside : Ctl :=
  { Ctl.reset with
    link := { Link.initial with
      opsHeldOff := true
      plantTx := some { tag := 6, frame := { dest := 12, verb := .query, cls := .internal, origin := .au } } }
    gate := { Ctl.reset.gate with tx := [(1, silentTx)] }
    matrix := { Matrix.initial with xps := [(xpKey 1 1, openXp), (xpKey 2 1, openXp)] }
    site := { Ctl.reset.site with work := { Tables.erased with
      tx := [(1, { listedAt 10 with row := 2 })]
      ant := [(1, columnOne)]
      site := { Tables.erased.site with geometry := some { rows := 1, cols := 1, station := 30 } } } }
    store := { Ctl.reset.store with op := some (.erasePage .a 1) }
    start := { Ctl.reset.start with phase := .running } }

theorem rowOutside_calm : Calm rowOutside where
  settled := rfl
  opsTaken := rfl
  inputEmpty := rfl
  portTaken := rfl
  urgentEmpty := rfl
  internalEmpty := rfl
  heldEmpty := rfl
  carriersLive := fun _ hq => absurd hq (by simp [rowOutside, Link.initial])
  moveEmpty := rfl
  moveWaitingEmpty := rfl
  noBurst := rfl
  engineTaken := rfl
  planEmpty := rfl
  running := rfl
  noStop := rfl
  noContext := fun _ hp => absurd hp (by simp [rowOutside, Ctl.reset])

/-- PATH_SET of the operations station 121: transmitter 1 to antenna 1. -/
def setOneToOne : OwnOrder := { src := 121, tag := 5, payload := [1#8, 1#8] }

theorem setOneToOne_taken : Takes rowOutside setOneToOne.src setOneToOne.tag setOneToOne.payload :=
  ⟨by decide, by decide, by decide, by decide, by decide, rfl⟩

theorem setOneToOne_new : SetsNew rowOutside setOneToOne 1#8 1#8 { listedAt 10 with row := 2 } columnOne :=
  ⟨rfl, by decide, rfl, rfl, rfl, rfl, rfl, fun _ hp => absurd hp (by simp [rowOutside, Matrix.initial])⟩

/-- The controller when the order has been answered and the path has asked for its movement. -/
def roundBegins : Ctl := noteColumns rowOutside (opsFrameEnds (ownOrder 32 setOneToOne) rowOutside)

/-- The gate refuses the SET, its coil bit outside the geometry; the undone movement is requested again, and the arbiter, whose
own tests it passes, grants it once more: four consequences lead back to where they began. -/
theorem roundBegins_returns : settle 4 roundBegins = roundBegins := by decide +kernel

theorem roundBegins_agenda : roundBegins.agenda = [.arbiter, .columns] := by decide +kernel

theorem roundBegins_opsTaken : (roundBegins.link.opsTx.isSome || roundBegins.link.opsHeldOff) = true := by decide +kernel

/-- So the step ends with consequences still due. -/
theorem setOneToOne_unsettled : exec (.pathSet setOneToOne) { ctl := rowOutside, pending := [] } =
    .next { ctl := roundBegins, pending := [] } := by
  have hsettle : settle settleLimit roundBegins = roundBegins := settle_period roundBegins_returns 4096
  have hfinish : finish roundBegins = roundBegins := by
    rw [finish, hsettle]
    exact opsChoose_taken roundBegins_opsTaken
  exact congrArg (fun c : Ctl => (.next { ctl := c, pending := [] } : Host.Outcome State Fault Refusal)) hfinish

/-- The consequences that a step leaves due. -/
def dueAfter : Host.Outcome State Fault Refusal → List Signal
  | .next t => t.ctl.agenda
  | _ => []

/-- Refutes O35: the statement asks that the coil bit be one of the 3840, not that the crosspoint lie in the geometry, and a SET
outside the geometry is refused by the gate (R56). -/
theorem not_pathSetSetsAPath : ¬ Obligations.PathSetSetsAPath := by
  intro h
  have hnew := setOneToOne_new
  obtain ⟨-, hpasses⟩ := h setOneToOne { ctl := rowOutside, pending := [] } 1#8 1#8 setOneToOne_taken rfl
  obtain ⟨-, hset⟩ := hpasses hnew.passes
  obtain ⟨-, hgranted⟩ := hset _ _ rowOutside_calm hnew.row hnew.static hnew.antenna hnew.column hnew.opened hnew.numbered
  have hnext := hgranted 1 30 rfl (by decide) rfl rfl rfl rfl rfl (by decide) (by decide)
  have hclaimed : dueAfter (exec (.pathSet setOneToOne) { ctl := rowOutside, pending := [] }) = [] := by rw [hnext]; rfl
  rw [setOneToOne_unsettled] at hclaimed
  exact absurd (roundBegins_agenda.symm.trans hclaimed) (by decide)

end Sys2Proof.Proofs
end

section
/-! The timers of movements and paths (R71, R79 to R81, R85, R88). What a movement's limit leaves behind is refuted on a path table
with one record more often than one step has consequences, and holds where the path table is no longer than that; what O49 says of
settles and of the path limit holds as it stands. -/

namespace Sys2Proof.Proofs
open Sys2Proof.Machine Sys2Proof.Laws

variable {s : State} {c : Ctl} {p : Path} {n slot station code : Nat} {v : Movement} {t : Millis}

/-! ## A path fails (R80) -/

/-- A path as its setting or proof fails (R80, R82). -/
def unproven (now : Millis) (p : Path) : Path :=
  { p with state := .unproven, since := now, stage := none, proof := .none, reference := none }

/-- The owner of a path set by hand is told of its failure by PATH_RESULT (R80, R87). -/
theorem tellFailure_manual {news : PathNews} (h : p.manual = true) : tellFailure p news code c = pathResult p code c := by
  unfold tellFailure
  split
  · next k ho => simp [Path.manual, ho] at h
  · exact if_pos h

/-- A SETTING path of OPERATIONS for which a movement was granted becomes UNPROVEN, with NOTICE PATH_RESULT (R80). -/
theorem failSetting_granted (h : Calm c) (hr : c.link.reports.length < 32) (hst : p.state = .setting) (hg : p.granted = true)
    (ho : p.owner = .operations) : failSetting p code c = { c with
      agenda := [.arbiter]
      link := withReport (reportNow c .pathResult (.pair p.tx p.ant) code 0 none p.reference) c.link
      matrix := { c.matrix with paths := pathsWith (unproven c.clock p) c.matrix.paths } } := by
  have hwithdraw : dropWaitingRead p.pid (withdrawRequest p.pid c) = { c with agenda := [.arbiter] } := by
    rw [withdrawRequest_none h.moveEmpty h.moveWaitingEmpty, pushOnce_new (by simp [h.settled]), h.settled]
    exact dropWaitingRead_none h.internalEmpty
  have hmanual : p.manual = true := by simp [Path.manual, ho]
  have hresult : pathResult p code (setPathRec (unproven c.clock p) { c with agenda := [.arbiter] }) = { c with
      agenda := [.arbiter]
      link := withReport (reportNow c .pathResult (.pair p.tx p.ant) code 0 none p.reference) c.link
      matrix := { c.matrix with paths := pathsWith (unproven c.clock p) c.matrix.paths } } := raise_room hr
  have henter : p.enter { c with agenda := [.arbiter] } .unproven = { p with state := .unproven, since := c.clock } :=
    enter_eq (by simp [hst])
  simp only [failSetting, hwithdraw]
  rw [if_neg (by simp [hg]), henter, tellFailure_manual hmanual]
  exact (congrArg (fun c => tableChanged (failPathHolds p.tx c)) hresult).trans
    (tableChanged_noHolds h.heldEmpty h.running (by simp))

/-! ## The movement's limit (R71) -/

/-- The controller with a movement failed: its crosspoint STUCK with ALARM XP_STUCK, and its coil's CLEAR offered (R71). -/
def stuckCtl (slot : Nat) (v : Movement) (station : Nat) (now : Millis) (c : Ctl) : Ctl :=
  setXp v.req.row v.req.col { xpAt c v.req.row v.req.col with state := .stuck } { c with
    clock := now
    link := withOwn (latchFrame station (.latchClear (coilBit v.req)) (.clear slot))
      (withReport (reportNow c .xpStuck (.crosspoint v.req.row v.req.col) 0 0 none none) c.link)
    matrix := { c.matrix with slots := tset slot { v with stage := .releasingCoil } c.matrix.slots } }

/-- A DRIVING movement whose SET left at `t`, and the path that it is for (R70, R71). -/
structure Drives (c : Ctl) (slot : Nat) (v : Movement) (t : Millis) (station : Nat) (p : Path) : Prop where
  here : tget slot c.matrix.slots = some v
  driving : v.stage = .driving
  started : v.started = some t
  room : LatchRoom c station
  bit : coilBit v.req ≤ 3839
  reports : c.link.reports.length < 31
  path : pathOf c v.req.pid = some p
  row : p.row = v.req.row
  col : p.col = v.req.col
  alone : ∀ q ∈ c.matrix.paths, q.pid ≠ p.pid → q.row ≠ p.row ∨ q.col ≠ p.col

theorem Drives.expires (h : Drives c slot v t station p) : limitExpired slot c = pushOnce .arbiter
    (actPathsOf v.req.row v.req.col (moveEnded v.req (stuckCtl slot v station (max c.clock (t + v.limit)) c))) := by
  have hstuck : becomeStuck v.req.row v.req.col (clockReaches (t + v.limit) c) =
      setXp v.req.row v.req.col { xpAt c v.req.row v.req.col with state := .stuck } { c with
        clock := max c.clock (t + v.limit)
        link := withReport (reportNow c .xpStuck (.crosspoint v.req.row v.req.col) 0 0 none none) c.link } :=
    raise_room (Nat.lt_succ_of_lt h.reports)
  have hslots : tmod slot (fun v => { v with stage := .releasingCoil }) c.matrix.slots =
      tset slot { v with stage := .releasingCoil } c.matrix.slots := tmod_some _ h.here
  have hclear := offerLatch_clear (c := setXp v.req.row v.req.col { xpAt c v.req.row v.req.col with state := .stuck } { c with
      clock := max c.clock (t + v.limit)
      link := withReport (reportNow c .xpStuck (.crosspoint v.req.row v.req.col) 0 0 none none) c.link
      matrix := { c.matrix with slots := tset slot { v with stage := .releasingCoil } c.matrix.slots } })
    (slot := slot) (station := station)
    ⟨⟨h.room.room, h.room.urgent, h.room.internal, h.room.taken⟩, h.room.here, h.room.known⟩ h.bit
  simp only [limitExpired, h.here, h.driving, h.started, moveFailed, releaseCoil, hstuck, offerClear]
  simp only [setXp, Ctl.onMatrix, hslots] at hclear ⊢
  rw [hclear]
  rfl

/-- The paths of a crosspoint act. -/
def actsAt (row col : Nat) (c : Ctl) : List Signal :=
  (c.matrix.paths.filter (fun p => p.row == row && p.col == col)).map (fun p => .actPath p.pid)

theorem length_actsAt_le (row col : Nat) (c : Ctl) : (actsAt row col c).length ≤ c.matrix.paths.length := by
  rw [actsAt, List.length_map]
  exact List.length_filter_le ..

/-- A crosspoint on which no path but those of one number stands. -/
theorem mem_actsAt {row col pid : Nat} (h : ∀ q ∈ c.matrix.paths, q.pid ≠ pid → q.row ≠ row ∨ q.col ≠ col) :
    ∀ x ∈ actsAt row col c, x = .actPath pid := by
  intro x hx
  obtain ⟨q, hq, rfl⟩ := List.mem_map.mp hx
  obtain ⟨hmem, hat⟩ := List.mem_filter.mp hq
  simp only [Bool.and_eq_true, beq_iff_eq] at hat
  by_cases hpid : q.pid = pid
  · rw [hpid]
  · rcases h q hmem hpid with hne | hne
    · exact absurd hat.1 hne
    · exact absurd hat.2 hne

theorem mem_pathsWith {p q : Path} {l : List Path} (h : q ∈ pathsWith p l) : q = p ∨ q ∈ l := by
  obtain ⟨y, hy, rfl⟩ := List.mem_map.mp h
  by_cases hp : y.pid = p.pid <;> simp [hp, hy]

/-- A CLEAR in the plant queue, a report and a STUCK crosspoint leave a calm controller calm. -/
theorem calm_stuckCtl {now : Millis} (h : Calm c) : Calm (stuckCtl slot v station now c) := { h with
  carriersLive := fun q hq hv => by
    rcases List.mem_append.mp hq with hq | hq
    · exact h.carriersLive q hq hv
    · rw [List.mem_singleton.mp hq] at hv
      cases hv }

/-- The controller with a movement failed and its SETTING path of OPERATIONS with it (R71, R80). -/
def failedCtl (slot : Nat) (v : Movement) (station : Nat) (now : Millis) (p : Path) (c : Ctl) : Ctl :=
  { stuckCtl slot v station now c with
    link := withReport (reportNow c .pathResult (.pair p.tx p.ant) 18 0 none p.reference) (stuckCtl slot v station now c).link
    matrix := { (stuckCtl slot v station now c).matrix with paths := pathsWith (unproven now p) c.matrix.paths } }

theorem moveEnded_closing (h : Drives c slot v t station p) (hc : Calm c) {now : Millis} (hst : p.state = .setting)
    (hstage : p.stage = some .moving) (hg : p.granted = true) (ho : p.owner = .operations) :
    moveEnded v.req (stuckCtl slot v station now c) = { failedCtl slot v station now p c with agenda := [.arbiter] } := by
  have hpath : pathOf (stuckCtl slot v station now c) v.req.pid = some p := h.path
  have hstuck : (xpAt (stuckCtl slot v station now c) v.req.row v.req.col).state = .stuck := by
    rw [stuckCtl, xpAt_setXp]
  have hreports : (stuckCtl slot v station now c).link.reports.length < 32 := by
    have := h.reports
    simp only [stuckCtl, setXp, Ctl.onMatrix, withOwn, withReport, List.length_append, List.length_singleton]
    omega
  simp only [moveEnded, hpath, hst, hstage, and_self, if_true, hstuck]
  exact failSetting_granted (calm_stuckCtl hc) hreports hst hg ho

theorem Drives.closes (h : Drives c slot v t station p) (hc : Calm c) (hst : p.state = .setting)
    (hstage : p.stage = some .moving) (hg : p.granted = true) (ho : p.owner = .operations) :
    limitExpired slot c = { failedCtl slot v station (max c.clock (t + v.limit)) p c with
      agenda := .arbiter :: actsAt v.req.row v.req.col (failedCtl slot v station (max c.clock (t + v.limit)) p c) } := by
  rw [h.expires, moveEnded_closing h hc hst hstage hg ho]
  exact pushOnce_again (c := push _ _) (by simp)

/-- A path that has failed wants nothing more. -/
theorem inert_actPath_unproven {pid : Nat} (hp : pathOf c pid = some p) (hst : p.state = .unproven) :
    Inert (.actPath pid) c := by
  intro l
  have hp' : pathOf { c with agenda := l } pid = some p := hp
  simp only [handle, actPath, hp', hst]

theorem Drives.failed_inert (h : Drives c slot v t station p) (hc : Calm c) {now : Millis} :
    ∀ x ∈ Signal.arbiter :: actsAt v.req.row v.req.col (failedCtl slot v station now p c),
      Inert x (failedCtl slot v station now p c) := by
  have hpid : p.pid = v.req.pid := by simpa using List.find?_some h.path
  have hpath : pathOf (failedCtl slot v station now p c) p.pid = some (unproven now p) :=
    find_pathsWith (p := unproven now p) (q := p) (hpid ▸ h.path)
  have hacts := mem_actsAt (c := failedCtl slot v station now p c) (row := v.req.row) (col := v.req.col) (pid := p.pid)
    (fun q hq hne => by
      rcases mem_pathsWith hq with rfl | hq
      · exact absurd rfl hne
      · exact h.row ▸ h.col ▸ h.alone q hq hne)
  intro x hx
  rcases List.mem_cons.mp hx with rfl | hx
  · exact inert_arbiter hc.moveEmpty
  · exact hacts x hx ▸ inert_actPath_unproven hpath rfl

/-- What O49 says of a closing movement's limit holds where one step has a consequence for each path (log entry 3). -/
theorem movementLimit_closing (h : Drives s.ctl slot v t station p) (hc : Calm s.ctl) (hst : p.state = .setting)
    (hstage : p.stage = some .moving) (hg : p.granted = true) (ho : p.owner = .operations)
    (hpaths : s.ctl.matrix.paths.length ≤ 16382) : exec (.movementLimitExpiry slot) s =
      .next { s with ctl := (failedCtl slot v station (max s.ctl.clock (t + v.limit)) p s.ctl) } := by
  refine act_leaves (h.closes hc hst hstage hg ho) hc.settled (h.failed_inert hc) (inert_columns hc.noContext) ?_ hc.opsTaken
  have hlen := length_actsAt_le v.req.row v.req.col (failedCtl slot v station (max s.ctl.clock (t + v.limit)) p s.ctl)
  have hsame : (failedCtl slot v station (max s.ctl.clock (t + v.limit)) p s.ctl).matrix.paths.length =
    s.ctl.matrix.paths.length := List.length_map _
  rw [List.length_cons]
  omega

/-! ## The limit of an opening movement (R71, R85) -/

/-- Consequences that find nothing to do while a certain one stands behind them. -/
theorem settle_behind {y : Signal} (fuel : Nat) : ∀ l : List Signal,
    (∀ x ∈ l, ∀ m, y ∈ m → handle x { c with agenda := m } = { c with agenda := m }) →
    settle (l.length + fuel) { c with agenda := l ++ [y] } = settle fuel { c with agenda := [y] }
  | [], _ => by simp
  | x :: l, h => by
    rw [List.length_cons, Nat.add_right_comm, List.cons_append, settle_cons, h x (by simp) _ (by simp),
      noteColumns_of (before := { c with agenda := x :: (l ++ [y]) }) (c := { c with agenda := l ++ [y] }) rfl rfl]
    exact settle_behind fuel l (fun z hz => h z (by simp [hz]))

/-- A RELEASING path on a STUCK crosspoint waits, with no request to be withdrawn (R85). -/
theorem actPath_releasing_stuck {pid : Nat} (hp : pathOf c pid = some p) (hst : p.state = .releasing)
    (hx : (xpAt c p.row p.col).state = .stuck) (hq : c.matrix.queue = []) (hw : c.matrix.waiting = [])
    (ha : Signal.arbiter ∈ c.agenda) : actPath pid c = c := by
  simp only [actPath, hp, hst, hx]
  rw [withdrawRequest_none hq hw, pushOnce_again ha]

theorem Drives.opens (h : Drives c slot v t station p) (hc : Calm c) (hst : p.state = .releasing) :
    limitExpired slot c = { stuckCtl slot v station (max c.clock (t + v.limit)) c with
      agenda := actsAt v.req.row v.req.col c ++ [.arbiter] } := by
  have hpath : pathOf (stuckCtl slot v station (max c.clock (t + v.limit)) c) v.req.pid = some p := h.path
  have hmove : moveEnded v.req (stuckCtl slot v station (max c.clock (t + v.limit)) c) =
      stuckCtl slot v station (max c.clock (t + v.limit)) c := by
    simp [moveEnded, hpath, hst]
  have hempty : (stuckCtl slot v station (max c.clock (t + v.limit)) c).agenda = [] := hc.settled
  have hno : ∀ x ∈ actsAt v.req.row v.req.col c, x ≠ .arbiter := by
    intro x hx
    obtain ⟨q, -, rfl⟩ := List.mem_map.mp hx
    exact Signal.noConfusion
  rw [h.expires, hmove]
  refine (pushOnce_new (c := push (actsAt v.req.row v.req.col c) _) (fun hmem => ?_)).trans ?_
  · rw [push_agenda, hempty, List.nil_append] at hmem
    exact hno _ hmem rfl
  · simp only [push_agenda, hempty, List.nil_append]
    rfl

/-- What O49 says of an opening movement's limit holds where one step has a consequence for each path (log entry 3). -/
theorem movementLimit_opening (h : Drives s.ctl slot v t station p) (hc : Calm s.ctl) (hst : p.state = .releasing)
    (hpaths : s.ctl.matrix.paths.length ≤ 16382) : exec (.movementLimitExpiry slot) s =
      .next { s with ctl := (stuckCtl slot v station (max s.ctl.clock (t + v.limit)) s.ctl) } := by
  have hpid : p.pid = v.req.pid := by simpa using List.find?_some h.path
  have hlen := length_actsAt_le v.req.row v.req.col s.ctl
  have hstuck : (xpAt (stuckCtl slot v station (max s.ctl.clock (t + v.limit)) s.ctl) p.row p.col).state = .stuck := by
    rw [h.row, h.col, stuckCtl, xpAt_setXp]
  have hacts : ∀ x ∈ actsAt v.req.row v.req.col s.ctl, ∀ m, Signal.arbiter ∈ m →
      handle x { stuckCtl slot v station (max s.ctl.clock (t + v.limit)) s.ctl with agenda := m } =
        { stuckCtl slot v station (max s.ctl.clock (t + v.limit)) s.ctl with agenda := m } := by
    intro x hx m hm
    rw [mem_actsAt (pid := p.pid) (fun q hq hne => h.row ▸ h.col ▸ h.alone q hq hne) x hx]
    exact actPath_releasing_stuck (hpid ▸ h.path) hst hstuck hc.moveEmpty hc.moveWaitingEmpty hm
  have hsettle : settle settleLimit { stuckCtl slot v station (max s.ctl.clock (t + v.limit)) s.ctl with
      agenda := actsAt v.req.row v.req.col s.ctl ++ [.arbiter] } =
      { stuckCtl slot v station (max s.ctl.clock (t + v.limit)) s.ctl with agenda := [] } := by
    have hfuel : settleLimit = (actsAt v.req.row v.req.col s.ctl).length +
      (16384 - (actsAt v.req.row v.req.col s.ctl).length) := by rw [settleLimit]; omega
    rw [hfuel, settle_behind _ _ hacts]
    exact settle_inert _ { stuckCtl slot v station (max s.ctl.clock (t + v.limit)) s.ctl with agenda := [.arbiter] }
      (fun x hx => by
        rw [List.mem_singleton.mp hx]
        exact inert_arbiter (c := { stuckCtl slot v station (max s.ctl.clock (t + v.limit)) s.ctl with agenda := [.arbiter] })
          hc.moveEmpty)
      (by simp only [List.length_singleton]; omega)
  have hend : finish (limitExpired slot s.ctl) = stuckCtl slot v station (max s.ctl.clock (t + v.limit)) s.ctl := by
    rw [h.opens hc hst, finish, hsettle]
    refine (opsChoose_taken (c := { stuckCtl slot v station (max s.ctl.clock (t + v.limit)) s.ctl with agenda := [] })
      hc.opsTaken).trans ?_
    exact congrArg (fun l => { stuckCtl slot v station (max s.ctl.clock (t + v.limit)) s.ctl with agenda := l }) hc.settled.symm
  refine (act_unnoted (by rw [h.opens hc hst]; rfl) (by rw [h.opens hc hst]; rfl)).trans ?_
  rw [hend]

/-! ## The settle (R79, R81) -/

/-- The settle of a path that is no context's ends (R79). -/
theorem settleEnded_settling (hp : claimPath c n = some p) (hst : p.state = .setting) (hstage : p.stage = some .settling)
    (ho : ∀ k, p.owner ≠ .ctx k) : settleEnded n c = if ({ p with stage := some .closed } : Path).manual
      then beginProof { p with stage := some .closed }
        (setPathRec { p with stage := some .closed } (clockReaches (p.settleFrom + 500) c))
      else setPathRec { p with stage := some .closed } (clockReaches (p.settleFrom + 500) c) := by
  simp only [settleEnded, hp]
  rw [if_pos ⟨hst, hstage⟩]
  rfl

/-- The settle of an IDLE path that no PATH_SET has set: its stage becomes CLOSED (R79). -/
theorem pathSettleEnd_idle (hc : Calm s.ctl) (hp : claimPath s.ctl n = some p) (hst : p.state = .setting)
    (hstage : p.stage = some .settling) (ho : p.owner = .idle) (href : p.reference = none) :
    exec (.pathSettleEnd n) s = .next { s with ctl := { s.ctl with
      clock := max s.ctl.clock (p.settleFrom + 500)
      matrix := { s.ctl.matrix with paths := pathsWith { p with stage := some .closed } s.ctl.matrix.paths } } } := by
  have hf := settleEnded_settling hp hst hstage (by simp [ho])
  rw [if_neg (by simp [Path.manual, ho, href])] at hf
  exact act_leaves (l := s.ctl.agenda) (c := { s.ctl with clock := _, matrix := _ }) hf hc.settled (by simp [hc.settled])
    (inert_columns hc.noContext) (by simp [hc.settled]) hc.opsTaken

/-- The proof of a path at its CLOSED crosspoint begins with the READ of its two sensor bits (R81). -/
theorem beginProof_closed (hx : (xpAt c p.row p.col).state = .closed) (hroom : LatchRoom c station)
    (hb : xpBase p.row p.col ≤ 3839) : beginProof p c = { c with
      link := withOwn (latchFrame station (.latchRead (xpBase p.row p.col) 2) (.proof p.pid)) c.link
      matrix := { c.matrix with
        paths := pathsWith { p with proof := .inProgress (some (nextTag c.link)) } c.matrix.paths } } := by
  have hread := offerLatch_read (c := setPathRec { p with proof := .inProgress none } c) (pid := p.pid) (station := station)
    ⟨⟨hroom.room, hroom.urgent, hroom.internal, hroom.taken⟩, hroom.here, hroom.known⟩ hb
  simp only [beginProof, hx]
  exact hread.trans (setProofTag_pathsWith (p := { p with proof := .inProgress none })
    (c := { setPathRec { p with proof := .inProgress none } c with link := _ }) rfl rfl)

/-- The settle of a path set by hand: its stage becomes CLOSED and its proof begins (R79, R81). -/
theorem pathSettleEnd_manual (hc : Calm s.ctl) (hp : claimPath s.ctl n = some p) (hst : p.state = .setting)
    (hstage : p.stage = some .settling) (hm : p.manual = true) (ho : ∀ k, p.owner ≠ .ctx k)
    (hx : (xpAt s.ctl p.row p.col).state = .closed) (hroom : LatchRoom s.ctl station) (hb : xpBase p.row p.col ≤ 3839) :
    exec (.pathSettleEnd n) s = .next { s with ctl := { s.ctl with
      clock := max s.ctl.clock (p.settleFrom + 500)
      link := withOwn (latchFrame station (.latchRead (xpBase p.row p.col) 2) (.proof p.pid)) s.ctl.link
      matrix := { s.ctl.matrix with
        paths := pathsWith { p with stage := some .closed, proof := .inProgress (some (nextTag s.ctl.link)) }
          s.ctl.matrix.paths } } } := by
  have hf := settleEnded_settling hp hst hstage ho
  rw [if_pos (by exact hm)] at hf
  have hproof := beginProof_closed (p := { p with stage := some .closed }) (station := station)
    (c := setPathRec { p with stage := some .closed } (clockReaches (p.settleFrom + 500) s.ctl)) hx
    ⟨⟨hroom.room, hroom.urgent, hroom.internal, hroom.taken⟩, hroom.here, hroom.known⟩ hb
  have hpaths := pathsWith_pathsWith (q := { p with stage := some .closed })
    (p := { p with stage := some .closed, proof := .inProgress (some (nextTag s.ctl.link)) }) rfl s.ctl.matrix.paths
  have hproved := hproof.trans (congrArg (fun l => { s.ctl with
    clock := max s.ctl.clock (p.settleFrom + 500)
    link := withOwn (latchFrame station (.latchRead (xpBase p.row p.col) 2) (.proof p.pid)) s.ctl.link
    matrix := { s.ctl.matrix with paths := l } }) hpaths)
  exact act_leaves (l := s.ctl.agenda) (c := { s.ctl with clock := _, link := _, matrix := _ }) (hf.trans hproved) hc.settled
    (by simp [hc.settled]) (inert_columns hc.noContext) (by simp [hc.settled]) hc.opsTaken

/-! ## The path limit (R80, R88) -/

/-- The requests of other paths. -/
def requestsBut (pid : Nat) (l : List MoveReq) : List MoveReq := l.filter (fun r => r.pid != pid)

/-- A request withdrawn lets no other in where none waits, or where it was not in a full queue. -/
theorem withdrawRequest_of {pid : Nat} (h : c.matrix.waiting = [] ∨
    (32 ≤ c.matrix.queue.length ∧ ∀ r ∈ c.matrix.queue, r.pid ≠ pid)) : withdrawRequest pid c =
      pushOnce .arbiter { c with matrix := { c.matrix with
        queue := requestsBut pid c.matrix.queue, waiting := requestsBut pid c.matrix.waiting } } := by
  have hsettle : settleQueue { c.matrix with
      queue := requestsBut pid c.matrix.queue, waiting := requestsBut pid c.matrix.waiting } =
      { c.matrix with queue := requestsBut pid c.matrix.queue, waiting := requestsBut pid c.matrix.waiting } := by
    rcases h with hnone | ⟨hfull, hothers⟩
    · exact settleQueue_nobody (by simp [hnone, requestsBut])
    · have hsame : requestsBut pid c.matrix.queue = c.matrix.queue :=
        List.filter_eq_self.mpr (fun r hr => bne_iff_ne.mpr (hothers r hr))
      exact settleQueue_full (by
        show 32 ≤ (requestsBut pid c.matrix.queue).length
        rwa [hsame])
  exact congrArg (fun m => pushOnce .arbiter { c with matrix := m }) hsettle

/-- The controller with a path's record and its request gone. -/
def withoutPath (p : Path) (c : Ctl) : Ctl := { c with matrix := { c.matrix with
  queue := requestsBut p.pid c.matrix.queue
  waiting := requestsBut p.pid c.matrix.waiting
  paths := c.matrix.paths.filter (fun q => q.pid != p.pid) } }

/-- What a removed path leaves due. -/
def removedSignals (p : Path) : List Signal := [.arbiter, .interlock p.tx, .withdraw p.tx]

/-- A SETTING path with no movement granted, set by hand, is removed with its request (R80). -/
theorem failSetting_removed (ha : c.agenda = []) (hi : c.link.internalWaiters = []) (hheld : c.gate.held = [])
    (hrun : c.start.phase = .running) (hr : c.link.reports.length < 32)
    (hm : p.manual = true) (hg : p.granted = false) (hx : (xpAt c p.row p.col).state = .opened)
    (hq : c.matrix.waiting = [] ∨ (32 ≤ c.matrix.queue.length ∧ ∀ r ∈ c.matrix.queue, r.pid ≠ p.pid)) :
    failSetting p code c = { withoutPath p c with
      agenda := removedSignals p
      link := withReport (reportNow c .pathResult (.pair p.tx p.ant) code 0 none p.reference) c.link } := by
  have hwithdraw : dropWaitingRead p.pid (withdrawRequest p.pid c) = { c with
      agenda := [.arbiter]
      matrix := { c.matrix with
        queue := requestsBut p.pid c.matrix.queue, waiting := requestsBut p.pid c.matrix.waiting } } := by
    rw [withdrawRequest_of hq, pushOnce_new (by simp [ha])]
    refine (dropWaitingRead_none (by exact hi)).trans ?_
    simp only [ha, List.nil_append]
  have hremove : invokeInterlock p.tx (removePath p.pid { c with
      agenda := [.arbiter]
      matrix := { c.matrix with
        queue := requestsBut p.pid c.matrix.queue, waiting := requestsBut p.pid c.matrix.waiting } }) =
      { withoutPath p c with agenda := removedSignals p } := rfl
  have hresult : pathResult p code { withoutPath p c with agenda := removedSignals p } = { withoutPath p c with
      agenda := removedSignals p
      link := withReport (reportNow c .pathResult (.pair p.tx p.ant) code 0 none p.reference) c.link } := raise_room hr
  simp only [failSetting, hwithdraw]
  rw [if_pos ⟨by simp [hg], by exact hx⟩, hremove, tellFailure_manual hm, hresult]
  exact tableChanged_noHolds hheld hrun (by simp [removedSignals])

/-- The reason found at the limit of a path whose crosspoint is OPEN (R88). -/
theorem waitingReason_opened (h : (xpAt c p.row p.col).state = .opened) : (waitingReason c p).code =
    if stuckInRowOrCol c p.row p.col = true then 18 else if lockedOut c p.ant = true then 9
    else if rowOff c p.row = true then 15 else 4 := by
  simp only [waitingReason, h]
  cases hs : stuckInRowOrCol c p.row p.col
  · cases hl : lockedOut c p.ant
    · cases ho : rowOff c p.row <;> rfl
    · rfl
  · rfl

theorem freeSlotOf_taken {m : Matrix} (h : ∀ k ∈ [1, 2, 3, 4], (tget k m.slots).isSome = true) : freeSlotOf m = none :=
  List.find?_eq_none.mpr (fun k hk => by simp [Option.isSome_iff_ne_none.mp (h k hk)])

/-- What O49 says of the limit of a WAITING path holds: its request is withdrawn and its record removed (R80, R88). -/
theorem operationsPathLimit_waiting
    (hc : Calm { s.ctl with matrix := { s.ctl.matrix with queue := [], waiting := [] } })
    (hp : claimPath s.ctl n = some p) (hst : p.state = .setting) (hstage : p.stage = some .waiting) (hm : p.manual = true)
    (hg : p.granted = false) (hx : (xpAt s.ctl p.row p.col).state = .opened) (hlive : txLive s.ctl p.tx = false)
    (hr : s.ctl.link.reports.length < 32)
    (hslots : (∀ k ∈ [1, 2, 3, 4], (tget k s.ctl.matrix.slots).isSome = true) ∨
      requestsBut p.pid s.ctl.matrix.queue = [])
    (hq : s.ctl.matrix.waiting = [] ∨
      (32 ≤ s.ctl.matrix.queue.length ∧ ∀ r ∈ s.ctl.matrix.queue, r.pid ≠ p.pid)) :
    exec (.operationsPathLimit n) s = .next { s with ctl := { withoutPath p s.ctl with
      clock := max s.ctl.clock (p.since + 60000)
      link := withReport (reportNow s.ctl .pathResult (.pair p.tx p.ant)
        (if stuckInRowOrCol s.ctl p.row p.col = true then 18 else if lockedOut s.ctl p.ant = true then 9
         else if rowOff s.ctl p.row = true then 15 else 4) 0 none p.reference) s.ctl.link } } := by
  have hcode := waitingReason_opened (c := clockReaches (p.since + 60000) s.ctl) hx
  have hf : pathLimitExpired n s.ctl =
      failSetting p (waitingReason (clockReaches (p.since + 60000) s.ctl) p).code (clockReaches (p.since + 60000) s.ctl) := by
    simp only [pathLimitExpired, hp]
    exact if_pos ⟨hst, hstage, hm⟩
  rw [hcode, failSetting_removed (c := clockReaches (p.since + 60000) s.ctl) hc.settled hc.internalEmpty hc.heldEmpty
    hc.running hr hm hg hx hq] at hf
  refine act_leaves (c := { withoutPath p s.ctl with clock := _, link := _ }) hf hc.settled ?_ (inert_columns hc.noContext)
    (by simp [removedSignals]) hc.opsTaken
  simp only [removedSignals, List.forall_mem_cons, List.not_mem_nil, false_imp_iff, implies_true, and_true]
  refine ⟨?_, inert_interlock ?_, inert_withdraw_live hc.carriersLive hlive⟩
  · rcases hslots with htaken | hnone
    · exact inert_arbiter_noSlot (freeSlotOf_taken htaken)
    · exact inert_arbiter hnone
  · exact (congrArg (· && _) hlive).trans (Bool.false_and _)

/-! ## More consequences than one step takes -/

/-- Consequences that find nothing to do are taken as far as the fuel goes. -/
theorem settle_drop : ∀ (fuel : Nat) (l : List Signal), (∀ x ∈ l, Inert x c) →
    settle fuel { c with agenda := l } = { c with agenda := l.drop fuel }
  | 0, _, _ => rfl
  | fuel + 1, [], _ => settle_nil rfl _
  | fuel + 1, x :: l, h => by
    rw [settle_cons, h x (by simp) l,
      noteColumns_of (before := { c with agenda := x :: l }) (c := { c with agenda := l }) rfl rfl]
    exact settle_drop fuel l (fun y hy => h y (by simp [hy]))

theorem finish_overdue {l : List Signal} (hi : ∀ x ∈ l, Inert x c) (hl : 16384 < l.length)
    (ho : (c.link.opsTx.isSome || c.link.opsHeldOff) = true) : (finish { c with agenda := l }).agenda ≠ [] := by
  have hend : finish { c with agenda := l } = { c with agenda := l.drop settleLimit } := by
    rw [finish, settle_drop _ l hi]
    exact opsChoose_taken (c := { c with agenda := l.drop settleLimit }) ho
  rw [hend]
  exact fun hnil => Nat.not_lt.mpr (List.drop_eq_nil_iff.mp hnil) hl

/-- A command with more consequences than one step takes leaves some of them due. -/
theorem act_overdue {f : Ctl → Ctl} {l : List Signal} (hf : f s.ctl = { c with agenda := l }) (hi : ∀ x ∈ l, Inert x c)
    (hc : Inert .columns c) (hl : 16384 < l.length) (ho : (c.link.opsTx.isSome || c.link.opsHeldOff) = true) :
    dueAfter (act f s) ≠ [] := by
  rcases act_eq f s with h | h <;> rw [h, hf]
  · exact finish_overdue hi hl ho
  · refine finish_overdue (c := c) (l := l ++ [.columns]) (fun y hy => ?_) (by rw [List.length_append]; omega) ho
    rcases List.mem_append.mp hy with hy | hy
    · exact hi y hy
    · exact List.mem_singleton.mp hy ▸ hc

/-- A SETTING path of OPERATIONS at the crosspoint (1, 1), its close movement under way. -/
def closingPath : Path :=
  { pid := 1, tx := 1, ant := 1, row := 1, col := 1, state := .setting, owner := .operations, stage := some .moving,
    proof := .none, priority := 5, since := 0, reference := none, granted := true, settleFrom := 0, awaits := [] }

/-- Its movement, with Sx 6 s. -/
def closingMove : Movement :=
  { req := moveRequest closingPath .closeCoil 0, stage := .driving, limit := 3 * 6 * 1000, started := some 0, before := .opened }

/-- A calm controller whose path table holds one record over and over. No step makes such a table, but the statement takes
every calm state. -/
def crowd (k : Nat) : Ctl :=
  { Ctl.reset with
    link := { Link.initial with
      opsHeldOff := true
      plantTx := some { tag := 6, frame := { dest := 12, verb := .query, cls := .internal, origin := .au } } }
    matrix := { Matrix.initial with slots := [(4, closingMove)], paths := List.replicate (k + 1) closingPath }
    site := { Ctl.reset.site with work := { Tables.erased with
      site := { Tables.erased.site with geometry := some { rows := 1, cols := 1, station := 30 } } } }
    store := { Ctl.reset.store with op := some (.erasePage .a 1) }
    start := { Ctl.reset.start with phase := .running } }

theorem crowd_calm (k : Nat) : Calm (crowd k) where
  settled := rfl
  opsTaken := rfl
  inputEmpty := rfl
  portTaken := rfl
  urgentEmpty := rfl
  internalEmpty := rfl
  heldEmpty := rfl
  carriersLive := fun _ hq => absurd hq (by simp [crowd, Link.initial])
  moveEmpty := rfl
  moveWaitingEmpty := rfl
  noBurst := rfl
  engineTaken := rfl
  planEmpty := rfl
  running := rfl
  noStop := rfl
  noContext := fun _ hp => absurd hp (by simp [crowd, Ctl.reset])

theorem crowd_alone (k : Nat) : ∀ q ∈ (crowd k).matrix.paths, q.pid ≠ closingPath.pid →
    q.row ≠ closingPath.row ∨ q.col ≠ closingPath.col :=
  fun _ hq hne => absurd (congrArg Path.pid (List.eq_of_mem_replicate hq)) hne

theorem crowd_drives (k : Nat) : Drives (crowd k) 4 closingMove 0 30 closingPath where
  here := rfl
  driving := rfl
  started := rfl
  room := ⟨⟨Nat.zero_lt_succ 31, rfl, rfl, rfl⟩, rfl, rfl⟩
  bit := by decide
  reports := Nat.zero_lt_succ 30
  path := rfl
  row := rfl
  col := rfl
  alone := crowd_alone k

/-- Every record of the path table acts. -/
theorem length_actsAt_crowd (k : Nat) {now : Millis} :
    (actsAt 1 1 (failedCtl 4 closingMove 30 now closingPath (crowd k))).length = k + 1 := by
  have hpaths : (failedCtl 4 closingMove 30 now closingPath (crowd k)).matrix.paths =
      List.replicate (k + 1) (unproven now closingPath) :=
    (List.map_replicate ..).trans (congrArg (List.replicate (k + 1)) (if_pos rfl))
  have hall : ((unproven now closingPath).row == 1 && (unproven now closingPath).col == 1) = true := rfl
  rw [actsAt, hpaths, List.length_map, List.filter_replicate, if_pos hall, List.length_replicate]

theorem crowd_overdue {k : Nat} (hk : 16383 ≤ k) :
    dueAfter (exec (.movementLimitExpiry 4) { ctl := crowd k, pending := [] }) ≠ [] := by
  have hd := crowd_drives k
  have hc := crowd_calm k
  refine act_overdue (s := { ctl := crowd k, pending := [] }) (hd.closes hc rfl rfl rfl rfl) (hd.failed_inert hc)
    (inert_columns hc.noContext) ?_ hc.opsTaken
  have hlen := length_actsAt_crowd k (now := max (crowd k).clock (0 + closingMove.limit))
  rw [List.length_cons]
  exact Nat.lt_succ_of_le ((Nat.succ_le_succ hk).trans hlen.ge)

/-- What O49 says of a closing movement's limit leaves nothing due. -/
theorem crowd_claimed (h : Obligations.MovementsAndPathsRunOut) (k : Nat) :
    dueAfter (exec (.movementLimitExpiry 4) { ctl := crowd k, pending := [] }) = [] := by
  have hd := crowd_drives k
  obtain ⟨hcalm, -⟩ := h
  obtain ⟨hlimit, -⟩ := hcalm { ctl := crowd k, pending := [] } (crowd_calm k)
  obtain ⟨hclosing, -⟩ := hlimit 4 closingMove 0 30 hd.here rfl rfl hd.room.here hd.room.known hd.bit hd.room.room hd.reports
    closingPath 6 hd.path rfl rfl hd.alone rfl
  rw [hclosing rfl rfl rfl rfl rfl]
  rfl

/-- Refutes O49: the statement bounds no path table, and a crosspoint with more path records than one step takes consequences
(log entry 3) leaves some of them due when its movement's limit expires. -/
theorem not_movementsAndPathsRunOut : ¬ Obligations.MovementsAndPathsRunOut :=
  fun h => crowd_overdue (Nat.le_refl 16383) (crowd_claimed h 16383)

end Sys2Proof.Proofs
end

section
/-! The bearing of an entry for a STEERABLE antenna (R95): the search through the steer indices finds the nearest of them, and of
two as near the lower. -/

namespace Sys2Proof.Proofs
open Sys2Proof.Machine Sys2Proof.Laws

variable {t : Tables} {a : AntStatic} {bore b i k m : Nat} {offsets : List Int} {o : Int} {l : List (Nat × Nat)}

/-! ## The nearest of a list of directions -/

/-- Index `k` of `l` looks away from `b` by `m`, no index looks nearer, and no lower index as near. -/
def Nearest (b : Nat) (l : List (Nat × Nat)) (k m : Nat) : Prop :=
  (∃ d, (k, d) ∈ l ∧ angularDiff b d = m) ∧
    ∀ j d, (j, d) ∈ l → m ≤ angularDiff b d ∧ (m = angularDiff b d → k ≤ j)

theorem Nearest.le {j d : Nat} (h : Nearest b l k m) (hmem : (j, d) ∈ l) : m ≤ angularDiff b d := by
  obtain ⟨-, hleast⟩ := h
  exact (hleast j d hmem).1

theorem Nearest.unique {k' m' : Nat} (h : Nearest b l k m) (h' : Nearest b l k' m') : k = k' ∧ m = m' := by
  obtain ⟨⟨d, hd, rfl⟩, hleast⟩ := h
  obtain ⟨⟨d', hd', rfl⟩, hleast'⟩ := h'
  have h1 := hleast k' d' hd'
  have h2 := hleast' k d hd
  omega

theorem nearestIndex_eq_none : nearestIndex b l = none ↔ l = [] := by
  cases l with
  | nil => simp [nearestIndex]
  | cons x l =>
    simp only [nearestIndex, reduceCtorEq, iff_false]
    cases nearestIndex b l with
    | none => simp
    | some y => dsimp only; split <;> simp

theorem nearestIndex_of_mem {x : Nat × Nat} (hx : x ∈ l) : ∃ k m, nearestIndex b l = some (k, m) := by
  have hsome : nearestIndex b l ≠ none := fun hn => List.ne_nil_of_mem hx (nearestIndex_eq_none.mp hn)
  obtain ⟨⟨k, m⟩, hfound⟩ := Option.ne_none_iff_exists'.mp hsome
  exact ⟨k, m, hfound⟩

/-- A direction at the head, of the lowest index, is the nearest where none behind it looks nearer. -/
theorem nearest_head {d : Nat} (hlow : ∀ x ∈ l, k < x.1) (h : ∀ x ∈ l, angularDiff b d ≤ angularDiff b x.2) :
    Nearest b ((k, d) :: l) k (angularDiff b d) := by
  refine ⟨⟨d, List.mem_cons_self, rfl⟩, fun j e hj => ?_⟩
  rcases List.mem_cons.mp hj with heq | hmem
  · cases heq
    exact ⟨Nat.le_refl _, fun _ => Nat.le_refl _⟩
  · exact ⟨h _ hmem, fun _ => Nat.le_of_lt (hlow _ hmem)⟩

/-- The nearest of the directions behind stays the nearest where the head looks farther away. -/
theorem Nearest.cons {x : Nat × Nat} (h : Nearest b l k m) (hfar : m < angularDiff b x.2) : Nearest b (x :: l) k m := by
  obtain ⟨⟨d, hd, hm⟩, hleast⟩ := h
  refine ⟨⟨d, List.mem_cons_of_mem _ hd, hm⟩, fun j e hj => ?_⟩
  rcases List.mem_cons.mp hj with rfl | hmem
  · exact ⟨Nat.le_of_lt hfar, fun heq => absurd heq (Nat.ne_of_lt hfar)⟩
  · exact hleast j e hmem

theorem nearestIndex_nearest (hl : l.Pairwise (·.1 < ·.1)) (h : nearestIndex b l = some (k, m)) : Nearest b l k m := by
  induction l generalizing k m with
  | nil => cases h
  | cons x l ih =>
    obtain ⟨i, d⟩ := x
    obtain ⟨hlow, htail⟩ := List.pairwise_cons.mp hl
    cases hrest : nearestIndex b l with
    | none =>
      simp only [nearestIndex, hrest] at h
      cases h
      cases nearestIndex_eq_none.mp hrest
      exact nearest_head hlow (by simp)
    | some y =>
      obtain ⟨j, least⟩ := y
      have hj := ih htail hrest
      simp only [nearestIndex, hrest] at h
      split at h
      · next hle =>
        cases h
        exact nearest_head hlow fun x hx => hle.trans (hj.le hx)
      · next hlt =>
        cases h
        exact hj.cons (Nat.lt_of_not_le hlt)

/-- Of directions with ascending indices the search finds the nearest, and nothing but the nearest (R95). -/
theorem nearestIndex_iff (hl : l.Pairwise (·.1 < ·.1)) : nearestIndex b l = some (k, m) ↔ Nearest b l k m := by
  refine ⟨nearestIndex_nearest hl, fun h => ?_⟩
  have ⟨⟨d, hd, _⟩, _⟩ := h
  obtain ⟨k', m', hfound⟩ := nearestIndex_of_mem (b := b) hd
  obtain ⟨rfl, rfl⟩ := h.unique (nearestIndex_nearest hl hfound)
  exact hfound

/-! ## The directions of a steerable array -/

/-- Where an offset from a boresight looks (R95). -/
def lookDirection (bore : Nat) (o : Int) : Nat := (((bore : Int) + o + 3600) % 3600).toNat

theorem steerDirection_succ (hbore : a.boresight = some bore) (hoff : a.offsets = some offsets) :
    steerDirection a (i + 1) = offsets[i]?.map (lookDirection bore) := by
  simp only [steerDirection, hbore, hoff, Nat.add_eq_zero_iff, one_ne_zero, and_false, if_false, Nat.add_sub_cancel]
  cases offsets[i]? <;> rfl

theorem mem_steerDirections (hbore : a.boresight = some bore) (hoff : a.offsets = some offsets) {d : Nat} :
    (k, d) ∈ steerDirections a ↔ ∃ i o, offsets[i]? = some o ∧ k = i + 1 ∧ d = lookDirection bore o := by
  simp only [steerDirections, upTo, hoff, Option.getD_some, List.filterMap_map, List.mem_filterMap, List.mem_range,
    Function.comp_apply, steerDirection_succ hbore hoff, Option.map_map, Option.map_eq_some_iff, Prod.mk.injEq]
  constructor
  · rintro ⟨i, -, o, ho, rfl, rfl⟩
    exact ⟨i, o, ho, rfl, rfl⟩
  · rintro ⟨i, o, ho, rfl, rfl⟩
    exact ⟨i, (List.getElem?_eq_some_iff.mp ho).1, o, ho, rfl, rfl⟩

theorem steerDirections_ascending (a : AntStatic) : (steerDirections a).Pairwise (·.1 < ·.1) := by
  rw [steerDirections, upTo, List.pairwise_filterMap, List.pairwise_map]
  refine List.pairwise_lt_range.imp fun hlt x hx y hy => ?_
  obtain ⟨-, -, rfl⟩ := Option.map_eq_some_iff.mp hx
  obtain ⟨-, -, rfl⟩ := Option.map_eq_some_iff.mp hy
  exact Nat.succ_lt_succ hlt

/-- Among the directions of an array, index `i + 1` is the nearest as its offset says. -/
theorem nearest_steerDirections (hbore : a.boresight = some bore) (hoff : a.offsets = some offsets)
    (ho : offsets[i]? = some o) : Nearest b (steerDirections a) (i + 1) m ↔
      angularDiff b (lookDirection bore o) = m ∧
        ∀ j p, offsets[j]? = some p → angularDiff b (lookDirection bore o) ≤ angularDiff b (lookDirection bore p) ∧
          (angularDiff b (lookDirection bore o) = angularDiff b (lookDirection bore p) → i ≤ j) := by
  simp only [Nearest, mem_steerDirections hbore hoff]
  constructor
  · rintro ⟨⟨d, ⟨i', o', ho', hi, rfl⟩, rfl⟩, hleast⟩
    cases hi
    cases ho.symm.trans ho'
    refine ⟨rfl, fun j p hp => ?_⟩
    obtain ⟨hle, hlow⟩ := hleast (j + 1) _ ⟨j, p, hp, rfl, rfl⟩
    exact ⟨hle, fun heq => Nat.le_of_succ_le_succ (hlow heq)⟩
  · rintro ⟨rfl, hleast⟩
    refine ⟨⟨_, ⟨i, o, ho, rfl, rfl⟩, rfl⟩, ?_⟩
    rintro _ _ ⟨j, p, hp, rfl, rfl⟩
    obtain ⟨hle, hlow⟩ := hleast j p hp
    exact ⟨hle, fun heq => Nat.succ_le_succ (hlow heq)⟩

/-! ## The mapping -/

theorem mapBearing_eq_index (hkind : a.kind = .steerable) (hb : b < 3600) :
    mapBearing t a (some b) = some (.index k) ↔
      ∃ m ≤ t.site.tolerance, nearestIndex b (steerDirections a) = some (k, m) := by
  simp only [mapBearing, hkind, if_pos hb]
  cases nearestIndex b (steerDirections a) with
  | none => simp
  | some x =>
    obtain ⟨j, least⟩ := x
    simp only [Option.ite_none_right_eq_some, Option.some.injEq, Target.index.injEq, Prod.mk.injEq]
    constructor
    · rintro ⟨hle, rfl⟩
      exact ⟨least, hle, rfl, rfl⟩
    · rintro ⟨_, hle, rfl, rfl⟩
      exact ⟨hle, rfl⟩

theorem mapBearing_eq_none (hkind : a.kind = .steerable) (hb : b < 3600) :
    mapBearing t a (some b) = none ↔ ∀ k m, nearestIndex b (steerDirections a) = some (k, m) → t.site.tolerance < m := by
  simp only [mapBearing, hkind, if_pos hb]
  cases nearestIndex b (steerDirections a) with
  | none => simp
  | some x =>
    obtain ⟨j, least⟩ := x
    simp

theorem steerable_maps_index (hkind : a.kind = .steerable) (hbore : a.boresight = some bore) (hoff : a.offsets = some offsets)
    (hb : b < 3600) (ho : offsets[i]? = some o) : mapBearing t a (some b) = some (.index (i + 1)) ↔
      angularDiff b (lookDirection bore o) ≤ t.site.tolerance ∧
        ∀ j p, offsets[j]? = some p → angularDiff b (lookDirection bore o) ≤ angularDiff b (lookDirection bore p) ∧
          (angularDiff b (lookDirection bore o) = angularDiff b (lookDirection bore p) → i ≤ j) := by
  simp only [mapBearing_eq_index hkind hb, nearestIndex_iff (steerDirections_ascending a),
    nearest_steerDirections hbore hoff ho]
  constructor
  · rintro ⟨_, hle, rfl, hleast⟩
    exact ⟨hle, hleast⟩
  · rintro ⟨hle, hleast⟩
    exact ⟨_, hle, rfl, hleast⟩

theorem steerable_out_of_travel (hkind : a.kind = .steerable) (hbore : a.boresight = some bore)
    (hoff : a.offsets = some offsets) (hb : b < 3600) : mapBearing t a (some b) = none ↔
      ∀ o ∈ offsets, t.site.tolerance < angularDiff b (lookDirection bore o) := by
  rw [mapBearing_eq_none hkind hb]
  constructor
  · intro hfar o ho
    obtain ⟨i, hi⟩ := List.mem_iff_getElem?.mp ho
    have hmem := (mem_steerDirections hbore hoff).mpr ⟨i, o, hi, rfl, rfl⟩
    obtain ⟨k, m, hfound⟩ := nearestIndex_of_mem (b := b) hmem
    exact (hfar k m hfound).trans_le ((nearestIndex_nearest (steerDirections_ascending a) hfound).le hmem)
  · intro hfar k m hfound
    obtain ⟨⟨d, hd, rfl⟩, -⟩ := nearestIndex_nearest (steerDirections_ascending a) hfound
    obtain ⟨i, o, ho, -, rfl⟩ := (mem_steerDirections hbore hoff).mp hd
    exact hfar o (List.mem_of_getElem? ho)

theorem zeroIndex_eq (hoff : a.offsets = some offsets) (hsorted : offsets.Pairwise (· < ·)) (hi : offsets[i]? = some 0) :
    zeroIndex a = some (i + 1) := by
  have hlt : i < offsets.length := (List.getElem?_eq_some_iff.mp hi).1
  have hfirst : (List.range offsets.length).find? (fun j => offsets[j]? == some 0) = some i := by
    refine List.find?_range_eq_some.mpr ⟨by simp [hi], List.mem_range.mpr hlt, fun j hj => ?_⟩
    have hne := List.nodup_iff_getElem?_ne_getElem?.mp hsorted.nodup j i hj hlt
    simpa [hi] using hne
  simp only [zeroIndex, upTo, hoff, Option.getD_some, List.find?_map, Function.comp_def, Nat.add_sub_cancel, hfirst,
    Option.map_some]

theorem steerable_absent_bearing (hkind : a.kind = .steerable) : mapBearing t a none = (zeroIndex a).map .index := by
  simp only [mapBearing, hkind]

/-- Settles O53: index, tolerance and tie follow from the search through the directions, which `nearestIndex_iff` describes. -/
theorem steerIndexIsTheNearest : Obligations.SteerIndexIsTheNearest := by
  intro t a bore offsets hkind hbore hoff _ _ hsorted
  refine ⟨fun i o ho => ?_, fun b hb => ⟨fun i o ho => ?_, ?_⟩, fun i hi => ?_⟩
  · rw [steerDirection_succ hbore hoff, ho]
    rfl
  · exact steerable_maps_index hkind hbore hoff hb ho
  · exact steerable_out_of_travel hkind hbore hoff hb
  · rw [steerable_absent_bearing hkind, zeroIndex_eq hoff hsorted hi]
    rfl

end Sys2Proof.Proofs
end

section
/-! The figures of a START event (R107 to R113): the stages case by case, the unclamped lead over the predicted state, the fence
as the greatest of the ends that qualify, and the bounds of lead and begin. -/

namespace Sys2Proof.Proofs
open Sys2Proof.Machine Sys2Proof.Laws

variable {c : Ctl} {x : TxStatic} {a : AntStatic} {e : EntryRec} {target predicted : Target} {s now : SiteTime}

/-! ## The stages (R108 to R110) -/

theorem retuneStage_same (t : Tables) (x : TxStatic) (f : Nat) : retuneStage t x (some f) f = 0 := if_pos rfl

theorem retuneStage_noBand {t : Tables} {p f : Nat} (hp : p ≠ f) (hband : bandOf t p = none) :
    retuneStage t x (some p) f = x.tb := by
  simp only [retuneStage, if_neg hp, hband]

theorem retuneStage_bands {t : Tables} {p f i j : Nat} (hp : p ≠ f) (hi : bandOf t p = some i) (hj : bandOf t f = some j) :
    retuneStage t x (some p) f = if i = j then x.ti else x.tb := by
  simp only [retuneStage, if_neg hp, hi, hj]

theorem switchStage_same (sx ant : Nat) (other held : Bool) : switchStage sx (some ant) other held ant = (0, 0) := if_pos rfl

theorem switchStage_elsewhere {sx ant : Nat} {pathAnt : Option Nat} {other held : Bool} (h : pathAnt ≠ some ant) :
    switchStage sx pathAnt other held ant = (if other = true ∨ held = true then sx else 0, sx) := by
  simp only [switchStage, if_neg h, Bool.or_eq_true]

/-- The travel coordinate of R94, with its subtraction taken in the integers. -/
theorem travel_eq {stop : Nat} (b : Nat) (hstop : stop < 3600) : (travel stop b : Int) = ((b : Int) - stop + 3600) % 3600 := by
  unfold travel
  omega

theorem absDiff_eq (m n : Nat) : absDiff m n = ((n : Int) - m).natAbs := by
  unfold absDiff
  omega

theorem travelDistance_eq {stop : Nat} (b0 b : Nat) (hstop : stop < 3600) : travelDistance stop b0 b =
    (((b : Int) - stop + 3600) % 3600 - ((b0 : Int) - stop + 3600) % 3600).natAbs := by
  rw [travelDistance, absDiff_eq, travel_eq b hstop, travel_eq b0 hstop]

/-- The time of a turn of `far` tenths of a degree, with the settle time where there is a turn at all (R110). -/
def turnTime (rate settle far : Nat) : Nat := if far = 0 then 0 else (far + rate - 1) / rate + settle

theorem positionStage_fromBearing {stop rate settle b0 b : Nat} (hkind : a.kind = .rotatable) (hstop : a.stopBearing = some stop)
    (hrate : a.slewRate = some rate) (hsettle : a.settle = some settle) :
    positionStage a (.bearing b0) (.bearing b) = turnTime rate settle (travelDistance stop b0 b) := by
  simp only [positionStage, hkind, hstop, hrate, hsettle, Option.getD_some]
  rfl

theorem positionStage_fromUnknown {margin rate settle b : Nat} (hkind : a.kind = .rotatable) (hmargin : a.margin = some margin)
    (hrate : a.slewRate = some rate) (hsettle : a.settle = some settle) :
    positionStage a .none (.bearing b) = turnTime rate settle (3600 - 2 * margin) := by
  simp only [positionStage, hkind, hmargin, hrate, hsettle, Option.getD_some]
  rfl

theorem positionStage_steerable {tp i : Nat} (hkind : a.kind = .steerable) (htp : a.phasing = some tp) :
    positionStage a predicted (.index i) = if predicted = .index i then 0 else tp := by
  simp only [positionStage, hkind, htp, Option.getD_some]

theorem positionStage_unmoved (hkind : a.kind = .fixed ∨ a.kind = .dummy) : positionStage a predicted target = 0 := by
  rcases hkind with hkind | hkind <;> simp only [positionStage, hkind]

/-! ## The predicted state and the unclamped lead (R107, R111) -/

/-- The predicted frequency of a transmitter, the antenna its row is predicted to hold, and whether that row is to be released
from another antenna first: of its predecessor, or of the records where there is none (R107). -/
def predictedRow (c : Ctl) (tx ant : Nat) (s : SiteTime) : Option Nat × Option Nat × Bool :=
  match txPredecessor (candidates c) tx s with
  | some p => (some p.freq, some p.ant, decide (p.ant ≠ ant))
  | none => ((txDyn c tx).bind ratableFreq, (claimPath c tx).map (·.ant),
      c.matrix.paths.any (fun p => p.tx == tx && p.ant != ant))

/-- The predicted position of an antenna, and whether its column is to be released from another transmitter first (R107). -/
def predictedColumn (c : Ctl) (a : AntStatic) (tx ant : Nat) (s : SiteTime) : Target × Bool :=
  match antPredecessor (candidates c) ant s with
  | some p => ((mapBearing c.site.work a p.bearing).getD .none, decide (p.tx ≠ tx))
  | none => (expectedPosition c ant, c.matrix.paths.any (fun p => p.ant == ant && p.tx != tx))

/-- The sum of R111 over the switching stage `sw` at a predicted frequency and position. -/
def leadOver (t : Tables) (x : TxStatic) (a : AntStatic) (e : EntryRec) (target : Target) (freq : Option Nat)
    (position : Target) (sw : Nat × Nat) : Nat :=
  x.tm + max (retuneStage t x freq e.freq) (sw.1 + max sw.2 (positionStage a position target)) + x.tu

/-- The unclamped lead is the sum of R111 at the predicted state. -/
theorem unclampedLead_eq : unclampedLead c x a e target s =
    leadOver c.site.work x a e target (predictedRow c e.tx e.ant s).1 (predictedColumn c a e.tx e.ant s).1
      (switchStage c.site.work.site.sx (predictedRow c e.tx e.ant s).2.1 (predictedRow c e.tx e.ant s).2.2
        (predictedColumn c a e.tx e.ant s).2 e.ant) := by
  unfold unclampedLead predictedRow predictedColumn
  dsimp only
  cases txPredecessor (candidates c) e.tx s <;> cases antPredecessor (candidates c) e.ant s <;> rfl

theorem predictedRow_predecessor {p : Candidate} {other : Bool} (hp : txPredecessor (candidates c) e.tx s = some p)
    (ho : other = true ↔ p.ant ≠ e.ant) : predictedRow c e.tx e.ant s = (some p.freq, some p.ant, other) := by
  simp only [predictedRow, hp, ← ho, Bool.decide_eq_true]

theorem predictedRow_records {other : Bool} (hp : txPredecessor (candidates c) e.tx s = none)
    (ho : other = true ↔ ∃ p ∈ c.matrix.paths, p.tx = e.tx ∧ p.ant ≠ e.ant) : predictedRow c e.tx e.ant s =
      ((txDyn c e.tx).bind ratableFreq, (claimPath c e.tx).map (·.ant), other) := by
  have hany : c.matrix.paths.any (fun p => p.tx == e.tx && p.ant != e.ant) = other := Bool.eq_iff_iff.mpr (by simp [ho])
  simp only [predictedRow, hp, hany]

theorem predictedColumn_predecessor {p : Candidate} {held : Bool} (hp : antPredecessor (candidates c) e.ant s = some p)
    (hh : held = true ↔ p.tx ≠ e.tx) :
    predictedColumn c a e.tx e.ant s = ((mapBearing c.site.work a p.bearing).getD .none, held) := by
  simp only [predictedColumn, hp, ← hh, Bool.decide_eq_true]

theorem predictedColumn_records {held : Bool} (hp : antPredecessor (candidates c) e.ant s = none)
    (hh : held = true ↔ ∃ p ∈ c.matrix.paths, p.ant = e.ant ∧ p.tx ≠ e.tx) :
    predictedColumn c a e.tx e.ant s = (expectedPosition c e.ant, held) := by
  have hany : c.matrix.paths.any (fun p => p.ant == e.ant && p.tx != e.tx) = held := Bool.eq_iff_iff.mpr (by simp [hh])
  simp only [predictedColumn, hp, hany]

theorem unclampedLead_atLeast (htm : 1 ≤ x.tm) (htu : 1 ≤ x.tu) : 2 ≤ unclampedLead c x a e target s := by
  rw [unclampedLead_eq, leadOver]
  omega

/-! ## The fence (R112) -/

/-- A fold that keeps the greater of what it has and what it meets answers the greatest. -/
theorem foldl_eq_max? {f : Option Nat → Nat → Option Nat} (hnone : ∀ n, f none n = some n)
    (hsome : ∀ m n, f (some m) n = some (max n m)) (l : List Nat) : l.foldl f none = l.max? := by
  have hfold : ∀ (l : List Nat) (m : Nat), l.foldl f (some m) = some (l.foldl max m) := by
    intro l
    induction l with
    | nil => exact fun m => rfl
    | cons n l ih => exact fun m => by rw [List.foldl_cons, hsome, ih, Nat.max_comm, List.foldl_cons]
  cases l with
  | nil => rfl
  | cons n l => rw [List.foldl_cons, hnone, hfold, List.max?_cons']

/-- An end that qualifies for the fence: after S − lead and not after S, of the transmitter predecessor or of a candidate on
another transmitter whose entry names the antenna (R112). -/
def EndQualifies (l : List Candidate) (tx ant s lead n : Nat) : Prop :=
  s - lead < n ∧ n ≤ s ∧
    ((∃ p, txPredecessor l tx s = some p ∧ p.finish = n) ∨ (∃ p ∈ l, p.tx ≠ tx ∧ p.ant = ant ∧ p.finish = n))

/-- The ends that qualify, as the fence goes through them. -/
def qualifyingEnds (l : List Candidate) (tx ant s lead : Nat) : List Nat :=
  ((txPredecessor l tx s).toList.map (·.finish) ++
    (l.filter (fun p => p.tx != tx && p.ant == ant)).map (·.finish)).filter (fun n => decide (s - lead < n ∧ n ≤ s))

theorem mem_qualifyingEnds {l : List Candidate} {tx ant lead n : Nat} :
    n ∈ qualifyingEnds l tx ant s lead ↔ EndQualifies l tx ant s lead n := by
  simp only [qualifyingEnds, EndQualifies, List.mem_filter, List.mem_append, List.mem_map, Option.mem_toList,
    Bool.and_eq_true, bne_iff_ne, beq_iff_eq, decide_eq_true_eq, and_assoc]
  exact and_rotate

theorem fence_eq_max? (l : List Candidate) (tx ant s lead : Nat) :
    fence l tx ant s lead = (qualifyingEnds l tx ant s lead).max? :=
  foldl_eq_max? (fun _ => rfl) (fun _ _ => rfl) _

theorem fence_eq_some {l : List Candidate} {tx ant lead n : Nat} : fence l tx ant s lead = some n ↔
    EndQualifies l tx ant s lead n ∧ ∀ m, EndQualifies l tx ant s lead m → m ≤ n := by
  simp only [fence_eq_max?, List.max?_eq_some_iff, mem_qualifyingEnds]

theorem fence_eq_none {l : List Candidate} {tx ant lead : Nat} :
    fence l tx ant s lead = none ↔ ∀ n, ¬ EndQualifies l tx ant s lead n := by
  simp only [fence_eq_max?, List.max?_eq_none_iff, List.eq_nil_iff_forall_not_mem, mem_qualifyingEnds]

/-! ## The figures (R111, R113) -/

theorem figuresOf_lead : (figuresOf c x a e target s now).lead = min (unclampedLead c x a e target s) 900 := rfl

theorem figuresOf_clampedFrom : (figuresOf c x a e target s now).clampedFrom =
    if 900 < unclampedLead c x a e target s then some (unclampedLead c x a e target s) else none := rfl

theorem figuresOf_clamped {n : Nat} (h : (figuresOf c x a e target s now).clampedFrom = some n) :
    900 < n ∧ (figuresOf c x a e target s now).lead = 900 := by
  rw [figuresOf_clampedFrom] at h
  obtain ⟨hlong, hn⟩ := Option.ite_none_right_eq_some.mp h
  cases hn
  exact ⟨hlong, Nat.min_eq_right (Nat.le_of_lt hlong)⟩

/-- The fence of a START event's own lead. -/
def ownFence (c : Ctl) (x : TxStatic) (a : AntStatic) (e : EntryRec) (target : Target) (s now : SiteTime) : Option SiteTime :=
  fence (candidates c) e.tx e.ant s (figuresOf c x a e target s now).lead

theorem figuresOf_begin : (figuresOf c x a e target s now).begin_ =
    max (max (s - (figuresOf c x a e target s now).lead) ((ownFence c x a e target s now).getD 0)) now := rfl

theorem figuresOf_rf (h : (figuresOf c x a e target s now).begin_ + (figuresOf c x a e target s now).lead < 65536 * 86400) :
    (figuresOf c x a e target s now).rf =
      (figuresOf c x a e target s now).begin_ + (figuresOf c x a e target s now).lead :=
  Nat.min_eq_left (Nat.le_sub_one_of_lt h)

theorem figuresOf_late : (figuresOf c x a e target s now).late = true ↔
    s - (figuresOf c x a e target s now).lead < now ∧ ∀ f, ownFence c x a e target s now = some f → f < now := by
  have hlate : (figuresOf c x a e target s now).late = true ↔ s - (figuresOf c x a e target s now).lead < now ∧
      (ownFence c x a e target s now).getD 0 < now := decide_eq_true_iff
  rw [hlate]
  refine and_congr_right fun hnow => ?_
  cases ownFence c x a e target s now with
  | none => simpa using Nat.zero_lt_of_lt hnow
  | some f => simp

theorem start_le_begin : s - (figuresOf c x a e target s now).lead ≤ (figuresOf c x a e target s now).begin_ :=
  (Nat.le_max_left _ _).trans (Nat.le_max_left _ _)

theorem now_le_begin : now ≤ (figuresOf c x a e target s now).begin_ := Nat.le_max_right _ _

theorem fence_le_begin {f : SiteTime} (hf : ownFence c x a e target s now = some f) :
    f ≤ (figuresOf c x a e target s now).begin_ := by
  rw [figuresOf_begin, hf, Option.getD_some]
  exact (Nat.le_max_right _ _).trans (Nat.le_max_left _ _)

/-- The begin is one of the three times that it is the latest of. -/
theorem figuresOf_begin_cases : (figuresOf c x a e target s now).begin_ = s - (figuresOf c x a e target s now).lead ∨
    (figuresOf c x a e target s now).begin_ = now ∨
    ownFence c x a e target s now = some (figuresOf c x a e target s now).begin_ := by
  rw [figuresOf_begin]
  generalize s - (figuresOf c x a e target s now).lead = low
  cases ownFence c x a e target s now with
  | none =>
    rw [Option.getD_none, Nat.max_zero]
    exact (max_choice low now).imp_right .inl
  | some f =>
    rw [Option.getD_some]
    rcases max_choice (max low f) now with h | h <;> rw [h]
    · exact (max_choice low f).imp_right fun h => .inr (congrArg some h.symm)
    · exact .inr (.inl rfl)

/-- Settles O54, rule by rule: the stages by their cases, the lead at the predicted state, the fence as a greatest end, and the
begin as the latest of three times. -/
theorem leadFiguresFollowTheRules : Obligations.LeadFiguresFollowTheRules := by
  refine ⟨fun t x f => ⟨rfl, retuneStage_same t x f, fun p hp => ⟨retuneStage_noBand hp, fun i j => retuneStage_bands hp⟩⟩,
    fun sx ant other held => ⟨switchStage_same sx ant other held, fun pathAnt => switchStage_elsewhere⟩,
    fun a predicted => ⟨?rotatable, fun tp i => positionStage_steerable, fun hkind target => positionStage_unmoved hkind⟩,
    ?lead, fun l tx ant s lead => ⟨fun n => fence_eq_some, fence_eq_none⟩, ?bounds⟩
  case rotatable =>
    intro stop margin rate settle b hkind hstop hmargin hrate hsettle _ hrange _
    refine ⟨?_, ?_⟩
    · rintro b0 - rfl
      rw [positionStage_fromBearing hkind hstop hrate hsettle, travelDistance_eq b0 b hrange]
      rfl
    · rintro rfl
      exact positionStage_fromUnknown hkind hmargin hrate hsettle
  case lead =>
    intro c x a e target s now freq path other held position htx hant
    have hrow : predictedRow c e.tx e.ant s = (freq, path, other) := by
      cases hp : txPredecessor (candidates c) e.tx s with
      | some p =>
        simp only [hp] at htx
        obtain ⟨rfl, rfl, ho⟩ := htx
        exact predictedRow_predecessor hp ho
      | none =>
        simp only [hp] at htx
        obtain ⟨rfl, rfl, ho⟩ := htx
        exact predictedRow_records hp ho
    have hcolumn : predictedColumn c a e.tx e.ant s = (position, held) := by
      cases hp : antPredecessor (candidates c) e.ant s with
      | some p =>
        simp only [hp] at hant
        obtain ⟨rfl, hh⟩ := hant
        exact predictedColumn_predecessor hp hh
      | none =>
        simp only [hp] at hant
        obtain ⟨rfl, hh⟩ := hant
        exact predictedColumn_records hp hh
    have hfull : unclampedLead c x a e target s = leadOver c.site.work x a e target freq position
        (switchStage c.site.work.site.sx path other held e.ant) := by rw [unclampedLead_eq, hrow, hcolumn]
    exact ⟨figuresOf_lead.trans (by rw [hfull]; rfl), figuresOf_clampedFrom.trans (by rw [hfull]; rfl)⟩
  case bounds =>
    intro c x a e target s now htm htu
    have hlow := unclampedLead_atLeast (c := c) (a := a) (e := e) (target := target) (s := s) htm htu
    have hlead := figuresOf_lead (c := c) (x := x) (a := a) (e := e) (target := target) (s := s) (now := now)
    exact ⟨hlead ▸ Nat.le_min.mpr ⟨hlow, by decide⟩, hlead ▸ Nat.min_le_right _ _, fun n => figuresOf_clamped,
      start_le_begin, now_le_begin, fun f => fence_le_begin, figuresOf_begin_cases, figuresOf_rf, figuresOf_late⟩

end Sys2Proof.Proofs
end

section
/-! TIME_SET and the rebuild it causes (R152, R161): with nothing running, a rebuild empties the plan, catches up what is under
way and scans an hour ahead; and a START that finds the plan empty enters it with its figures and its reports (R111, R113,
R158). -/

namespace Sys2Proof.Proofs
open Sys2Proof.Machine Sys2Proof.Laws

variable {s : State} {o : OwnOrder} {c c' : Ctl} {now t : SiteTime}

/-! ## Steps that leave the plan to be dispatched -/

/-- Under the hall stop no event is taken (R163, R195). -/
theorem inert_dispatch_stopped (h : c.hall.inForce = true) : Inert .dispatch c := by
  intro l
  have hstop : ({ c with agenda := l } : Ctl).hall.inForce = true := h
  have htake : ∀ v, tryTake v { c with agenda := l } = { c with agenda := l } := by
    intro v
    unfold tryTake
    cases actingTime { c with agenda := l } with
    | none => rfl
    | some now => exact if_pos (.inl hstop)
  refine forEach_id _ fun v _ => ?_
  unfold offerEvent
  cases eventOf { c with agenda := l } v.kind v.occ with
  | none => rfl
  | some w => simp only [htake, ite_self]

/-- A step that changes the Link Interface's queues and the plan, and leaves only the dispatch due, which finds nothing to
take. -/
theorem act_dispatches {f : Ctl → Ctl} {k : Link} {p : Plan} (hs : Still s.ctl)
    (hf : f s.ctl = push [.dispatch] { s.ctl with link := k, plan := p })
    (hd : Inert .dispatch { s.ctl with link := k, plan := p })
    (hk : k.opsTx = s.ctl.link.opsTx ∧ k.opsHeldOff = s.ctl.link.opsHeldOff) :
    act f s = .next { s with ctl := { s.ctl with link := k, plan := p } } := by
  have hagenda : (push [.dispatch] { s.ctl with link := k, plan := p }).agenda = [.dispatch] := by
    rw [push_agenda, hs.settled, List.nil_append]
  have hinert : ∀ x ∈ (push [.dispatch] { s.ctl with link := k, plan := p }).agenda,
      Inert x (push [.dispatch] { s.ctl with link := k, plan := p }) := by
    intro x hx
    obtain rfl : x = .dispatch := by rwa [hagenda, List.mem_singleton] at hx
    exact fun l => hd l
  rw [act_unnoted_inert hf rfl rfl hinert (by rw [hagenda]; decide) (by rw [push_link, hk.1, hk.2]; exact hs.opsTaken),
    ← hs.settled]
  rfl

/-- Such a step under the hall stop. -/
theorem act_stopped {f : Ctl → Ctl} {k : Link} {p : Plan} (hs : Still s.ctl) (hstop : s.ctl.hall.inForce = true)
    (hf : f s.ctl = push [.dispatch] { s.ctl with link := k, plan := p })
    (hk : k.opsTx = s.ctl.link.opsTx ∧ k.opsHeldOff = s.ctl.link.opsHeldOff) :
    act f s = .next { s with ctl := { s.ctl with link := k, plan := p } } :=
  act_dispatches hs hf (inert_dispatch_stopped hstop) hk

/-! ## A START that finds the plan empty (R158) -/

/-- The Link Interface after the reports of a START's insertion: LEAD_CLAMPED, then LATE_START PREDICTED (R111, R113). -/
def insertionLink (c : Ctl) (v : Event) (f : Figures) : Link :=
  let subject := Subject.entry v.occ.bank v.occ.id
  let clamped := match f.clampedFrom with
    | some n => withReport (reportNow c .leadClamped subject 0 0 (some n) none) c.link
    | none => c.link
  if v.time < v.rf then
    withReport (reportNow c .lateStart subject 0 1 (some (figure32 ((v.rf : Int) - v.time))) none) clamped
  else clamped

/-- The reports of an insertion, with room for both of them. -/
theorem insertionReports_room {v : Event} {f : Figures} (h : c.link.reports.length < 31) :
    insertionReports v f c = { c with link := insertionLink c v f } := by
  unfold insertionReports insertionLink
  cases f.clampedFrom with
  | none =>
    dsimp only
    split
    · exact raise_room (Nat.lt_succ_of_lt h)
    · rfl
  | some n =>
    have hroom : (withReport (reportNow c .leadClamped (.entry v.occ.bank v.occ.id) 0 0 (some n) none)
        c.link).reports.length < 32 := by
      simp only [withReport, List.length_append, List.length_singleton]
      omega
    simp only [raise_room (Nat.lt_succ_of_lt h)]
    split
    · exact raise_room hroom
    · rfl

theorem insertionLink_ops (c : Ctl) (v : Event) (f : Figures) : (insertionLink c v f).opsTx = c.link.opsTx ∧
    (insertionLink c v f).opsHeldOff = c.link.opsHeldOff := by
  unfold insertionLink
  cases f.clampedFrom <;> dsimp only <;> split <;> exact ⟨rfl, rfl⟩

theorem placeStart_empty {v : Event} (h : c.plan.events = []) :
    placeStart v c = { c with plan := { c.plan with events := [v] } } := by
  simp only [placeStart, h, List.find?_nil, ite_self, addEvent, Ctl.onPlan, insertEvent]

/-- The figures of a START, with the begin fixed at the insertion time where it has started already (R158, R161). -/
def fixedFigures (fix : Bool) (now : SiteTime) (f : Figures) : Figures :=
  if fix then { f with begin_ := now, rf := addTime now f.lead } else f

/-- The controller with a START, with its figures, as the only event of the plan, and the reports of its insertion. -/
def entered (x : Consider) (f : Figures) (fix : Bool) (c : Ctl) : Ctl :=
  { c with
    link := insertionLink c (startEvent c x f fix) f
    plan := { c.plan with events := [startEvent c x f fix] } }

/-- A START whose entry passes the re-check and maps to a position, and that H does not exclude, enters an empty plan (R158). -/
theorem insertStart_enters {x : Consider} {e : EntryRec} {st : TxStatic} {a : AntStatic} {target : Target} {fix high : Bool}
    {f : Figures} (htests : siteTests c.site.work e = none) (hst : txStatic c e.tx = some st)
    (ha : antStatic c e.ant = some a) (hmap : mapBearing c.site.work a e.bearing = some target)
    (hf : fixedFigures fix now (figuresOf c st a e target x.key.time now) = f)
    (hhigh : (high && excludedByHigh c (logRec c x.occ).isSome f.begin_ now) = false) (hevents : c.plan.events = [])
    (hroom : c.link.reports.length < 31) : insertStart x e fix high now c = (entered x f fix c, true) := by
  have hst : tget e.tx c.site.work.tx = some st := hst
  have ha : tget e.ant c.site.work.ant = some a := ha
  have hfull : planFull c = false := by rw [planFull, hevents]; rfl
  unfold fixedFigures at hf
  simp only [insertStart, htests, hst, ha, hmap, hf, hhigh, hfull, Bool.false_eq_true, if_false, insertionReports_room hroom]
  rw [placeStart_empty]
  · rfl
  · exact hevents

/-! ## The rebuild with nothing running (R161) -/

/-- The controller with the plan emptied and the scan mark at a time. -/
def cleared (now : SiteTime) (c : Ctl) : Ctl :=
  { c with plan := { c.plan with events := [], scan := { time := now, resume := none, left := [] } } }

/-- The controller with the scan mark an hour ahead. -/
def scannedAhead (now : SiteTime) (c : Ctl) : Ctl :=
  { c with plan := { c.plan with
    scan := { time := addTime now Config.horizon, resume := none, left := [] }, fullLatch := false } }

theorem addTime_eq (t : SiteTime) (n : Nat) : addTime t n = min (t + n) (65536 * 86400 - 1) := rfl

theorem lateEnds_idle (h : ∀ p ∈ c.gate.tx, p.2.running = none) : lateEnds now c = c :=
  forEach_id _ fun p hp => by simp only [h p hp]

theorem scanRange_idle {high : SiteTime} (hbank : activeBank c = none) (h : ∀ p ∈ c.gate.tx, p.2.running = none) :
    scanRange c high = [] := by
  have hends : runningEnds c = [] := List.filterMap_eq_nil_iff.mpr fun p hp => by rw [h p hp]; rfl
  simp only [scanRange, hbank, hends]
  rfl

theorem catchUp_noSeason (h : activeBank c = none) : catchUp now c = (c, []) := by simp only [catchUp, h]

theorem catchUp_one {bk : Bank} {x : Consider} (hbank : activeBank c = some bk)
    (hlist : catchUpList c bk (scheduleEntries (bankRec c bk)) now = [x]) (hx : considerCatchUp x now c = (c', true)) :
    catchUp now c = (c', []) := by
  simp only [catchUp, hbank, hlist, insertAll_cons, hx, if_true, insertAll]

/-- A rebuild whose catch-up finds room, and whose refill finds nothing to consider. -/
theorem rebuild_idle (htime : actingTime c = some now) (h : ∀ p ∈ c.gate.tx, p.2.running = none)
    (hcatch : catchUp now (cleared now c) = (c', [])) (hleft : c'.plan.scan.left = [])
    (hscan : scanRange c' (addTime now Config.horizon) = []) : rebuild c = push [.dispatch] (scannedAhead now c') := by
  have hlate : lateEnds now (c.onPlan (fun p => { p with events := [] })) = c.onPlan (fun p => { p with events := [] }) :=
    lateEnds_idle h
  have hcatch : catchUp now (setScan { time := now, resume := none, left := [] }
      (c.onPlan (fun p => { p with events := [] }))) = (c', []) := hcatch
  simp only [rebuild, htime, hlate, hcatch, List.isEmpty_nil, if_true]
  rw [refill_of_nothing hleft hscan]
  simp only [setScan, Ctl.onPlan, scannedAhead]

theorem activateOrRebuild_noWatch (h : c.plan.watch = none) : activateOrRebuild c = rebuild c := by
  have hdue : activationDue c = none := by
    unfold activationDue
    rw [h]
    cases actingTime c <;> rfl
  simp only [activateOrRebuild, hdue]

/-! ## TIME_SET (R152) -/

/-- The site time that the payload of a TIME_SET names. -/
def timeOf (d1 d2 s1 s2 s3 : Byte) : SiteTime := rd2 d1 d2 * 86400 + rd3 s1 s2 s3

/-- The controller after the answer DONE of a TIME_SET. -/
def timeAnswered (o : OwnOrder) (c : Ctl) : Ctl := { c with link := answered o 38 1 0 [] c.link }

section Payload
variable {d1 d2 s1 s2 s3 : Byte}

theorem timeSet_invalid (hb : o.payload = [d1, d2, s1, s2, s3]) (h : 86400 ≤ rd3 s1 s2 s3) :
    timeSet o c = refuseOrder o 38 .timeInvalid [] c := by
  simp only [timeSet, hb, h, if_true]

theorem timeSet_same (hb : o.payload = [d1, d2, s1, s2, s3]) (h : rd3 s1 s2 s3 < 86400)
    (htime : c.plan.time = some (timeOf d1 d2 s1 s2 s3)) : timeSet o c = answerDone o.src o.tag 38 [] c := by
  simp only [timeSet, hb, if_neg (Nat.not_le.mpr h)]
  exact if_pos htime

theorem timeSet_steps (hb : o.payload = [d1, d2, s1, s2, s3]) (h : rd3 s1 s2 s3 < 86400)
    (htime : c.plan.time ≠ some (timeOf d1 d2 s1 s2 s3)) : timeSet o (reserve c) =
      timeStepped c.plan.time (timeOf d1 d2 s1 s2 s3) (setTime (timeOf d1 d2 s1 s2 s3) (timeAnswered o c)) := by
  simp only [timeSet, hb, if_neg (Nat.not_le.mpr h), answerDone_reserve]
  exact if_neg htime

end Payload

theorem setTime_startUp (h : c.start.phase ≠ .running) : setTime t c = { c with
    plan := { c.plan with time := some t, secondFrom := c.clock }
    start := { c.start with timeSet := true } } := by
  simp only [setTime, if_neg h]

theorem setTime_running (h : c.start.phase = .running) :
    setTime t c = { c with plan := { c.plan with time := some t, secondFrom := c.clock } } := by
  simp only [setTime, if_pos h]

theorem timeStepped_unset_startUp (h : c.start.phase ≠ .running) : timeStepped none t c = c := if_neg h

theorem timeStepped_valid_startUp {was : SiteTime} (h : c.start.phase ≠ .running) (hr : c.link.reports.length < 32) :
    timeStepped (some was) t c = { c with
      link := withReport (reportNow c .timeStep .none 0 0 (some (figure32 ((t : Int) - was))) none) c.link } := by
  simp only [timeStepped, raise_room hr]
  exact if_pos h

theorem timeStepped_running (h : c.start.phase = .running) (hw : c.plan.watch = none) : timeStepped none t c = rebuild c :=
  (if_pos h).trans (activateOrRebuild_noWatch hw)

/-- The controller in RUNNING once a TIME_SET has set site time for the first time. -/
def firstTime (o : OwnOrder) (t : SiteTime) (c : Ctl) : Ctl :=
  { timeAnswered o c with plan := { c.plan with time := some t, secondFrom := c.clock } }

theorem timeStepped_firstTime (hrun : c.start.phase = .running) (hw : c.plan.watch = none) :
    timeStepped none t (setTime t (timeAnswered o c)) = rebuild (firstTime o t c) := by
  rw [setTime_running (c := timeAnswered o c) hrun]
  exact timeStepped_running hrun hw

theorem actingTime_firstTime (hrun : c.start.phase = .running) : actingTime (firstTime o t c) = some t := if_pos hrun

/-- The plan once a first site time `t` has been set in RUNNING, with its events and the scan mark an hour ahead. -/
def firstPlan (t : SiteTime) (events : List Event) (c : Ctl) : Plan := { c.plan with
  time := some t, secondFrom := c.clock, events := events
  scan := { time := addTime t Config.horizon, resume := none, left := [] }, fullLatch := false }

/-- With no season ACTIVE the first site time in RUNNING starts the scan, and nothing enters the plan. -/
theorem rebuild_firstTime_noSeason (hrun : c.start.phase = .running) (hbank : activeBank c = none)
    (h : ∀ p ∈ c.gate.tx, p.2.running = none) : rebuild (firstTime o t c) = push [.dispatch] { c with
      link := answered o 38 1 0 [] c.link
      plan := firstPlan t [] c } := by
  rw [rebuild_idle (actingTime_firstTime hrun) h (catchUp_noSeason hbank) rfl (scanRange_idle hbank h)]
  simp only [scannedAhead, cleared, firstTime, timeAnswered, firstPlan]

/-- The one START to catch up at `t`: of the ACTIVE season, its entry passing the re-check and mapping to a position, with no
event in the plan before it and room for both of its reports (R161). -/
structure CatchesUp (c : Ctl) (t : SiteTime) (bk : Bank) (x : Consider) (e : EntryRec) (st : TxStatic) (a : AntStatic)
    (target : Target) : Prop where
  bank : activeBank c = some bk
  only : catchUpList c bk (scheduleEntries (bankRec c bk)) t = [x]
  entry : x.entry = some e
  tests : siteTests c.site.work e = none
  tx : txStatic c e.tx = some st
  ant : antStatic c e.ant = some a
  maps : mapBearing c.site.work a e.bearing = some target
  noEvents : c.plan.events = []
  room : c.link.reports.length < 31

/-- The figures of a START do not depend on the site time, the scan mark or the answers. -/
theorem figuresOf_cleared {x : Consider} {e : EntryRec} {st : TxStatic} {a : AntStatic} {target : Target}
    (h : c.plan.events = []) : figuresOf (cleared t (firstTime o t c)) st a e target x.key.time t =
      figuresOf c st a e target x.key.time t := by
  have hcandidates : candidates (cleared t (firstTime o t c)) = candidates c := by
    unfold cleared
    rw [← h]
    rfl
  unfold figuresOf unclampedLead
  rw [hcandidates]
  rfl

theorem considerCatchUp_enters {bk : Bank} {x : Consider} {e : EntryRec} {st : TxStatic} {a : AntStatic} {target : Target}
    (h : CatchesUp c t bk x e st a target) : considerCatchUp x t (cleared t (firstTime o t c)) =
      (entered x (fixedFigures true t (figuresOf c st a e target x.key.time t)) true (cleared t (firstTime o t c)), true) := by
  have hplan : inPlan (cleared t (firstTime o t c)) .start x.occ = false := rfl
  simp only [considerCatchUp, hplan, h.entry]
  exact insertStart_enters h.tests h.tx h.ant h.maps (by rw [figuresOf_cleared h.noEvents]) rfl rfl h.room

/-- The START with which an occurrence under way at `t` enters the plan, its begin at `t` and with the flag LATE (R161). -/
def caughtStart (c : Ctl) (x : Consider) (f : Figures) (t : SiteTime) : Event := startEvent c x (fixedFigures true t f) true

/-- The one occurrence to catch up enters the plan, and the scan finds nothing behind it (R161). -/
theorem rebuild_firstTime_catchesUp {bk : Bank} {x : Consider} {e : EntryRec} {st : TxStatic} {a : AntStatic}
    {target : Target} {f : Figures} (h : CatchesUp c t bk x e st a target)
    (hf : figuresOf c st a e target x.key.time t = f) (hrun : c.start.phase = .running)
    (hidle : ∀ p ∈ c.gate.tx, p.2.running = none)
    (hscan : scanRange (cleared t c) (addTime t Config.horizon) = []) :
    rebuild (firstTime o t c) = push [.dispatch] { c with
      link := insertionLink (firstTime o t c) (caughtStart c x f t) f
      plan := firstPlan t [caughtStart c x f t] c } := by
  subst hf
  rw [rebuild_idle (actingTime_firstTime hrun) hidle (catchUp_one h.bank h.only (considerCatchUp_enters h)) rfl hscan]
  simp only [scannedAhead, entered, cleared, firstTime, timeAnswered, firstPlan, caughtStart]
  rfl

/-- Settles O33, outcome by outcome. -/
theorem timeIsSet : Obligations.TimeIsSet := by
  intro o s d1 d2 s1 s2 s3 hs ht hb t
  refine ⟨fun hbig => ownOrder_refused (v := 38) hs ht rfl (timeSet_invalid hb hbig), fun hsec => ?_⟩
  have hsteps : s.ctl.plan.time ≠ some t → opsFrameEnds (ownOrder 38 o) s.ctl =
      timeStepped s.ctl.plan.time t (setTime t (timeAnswered o s.ctl)) := fun hne =>
    (takes_ownOrder ht rfl).trans (timeSet_steps hb hsec hne)
  have hfirst : s.ctl.plan.time = none → s.ctl.start.phase = .running → s.ctl.plan.watch = none →
      opsFrameEnds (ownOrder 38 o) s.ctl = rebuild (firstTime o t s.ctl) := fun htime hrun hwatch =>
    (hsteps (by simp [htime])).trans (by rw [htime, timeStepped_firstTime hrun hwatch])
  refine ⟨fun htime => ownOrder_done (v := 38) hs ht rfl (timeSet_same hb hsec htime), ?first, ?step, ?noSeason, ?catchUp⟩
  case first =>
    intro hphase htime
    refine act_settled ((hsteps (by simp [htime])).trans ?_) rfl rfl hs.settled hs.opsTaken
    rw [htime, setTime_startUp (c := timeAnswered o s.ctl) hphase]
    exact timeStepped_unset_startUp hphase
  case step =>
    intro was hphase htime hne hroom
    refine act_settled ((hsteps (by simpa [htime] using hne)).trans ?_) rfl rfl hs.settled hs.opsTaken
    rw [htime, setTime_startUp (c := timeAnswered o s.ctl) hphase]
    exact timeStepped_valid_startUp hphase hroom
  case noSeason =>
    intro hrun htime hwatch hbank hidle
    have step := act_dispatches hs (f := opsFrameEnds (ownOrder 38 o))
      ((hfirst htime hrun hwatch).trans (rebuild_firstTime_noSeason hrun hbank hidle)) (inert_dispatch rfl) ⟨rfl, rfl⟩
    simp only [firstPlan, addTime_eq] at step
    exact step
  case catchUp =>
    intro bk x e st a target hrun hstop htime hwatch hevents hbank hidle honly hentry hscan htests htx hant hmap hroom
    have h : CatchesUp s.ctl t bk x e st a target :=
      ⟨hbank, honly, hentry, htests, htx, hant, hmap, hevents, hroom⟩
    have hscan : scanRange (cleared t s.ctl) (addTime t Config.horizon) = [] := by
      unfold cleared
      rw [← hevents]
      exact hscan
    have step := act_stopped hs hstop (f := opsFrameEnds (ownOrder 38 o))
      ((hfirst htime hrun hwatch).trans (rebuild_firstTime_catchesUp h rfl hrun hidle hscan)) (insertionLink_ops _ _ _)
    simp only [insertionLink, firstPlan, caughtStart, startEvent, fixedFigures, if_true, addTime_eq, Bool.or_true] at step
    exact step

end Sys2Proof.Proofs
end

section
/-! The banks of the store under orders (R124 to R127, R132): the fault flag, the open bank, what the banks' states refuse, and
the erase window. -/

namespace Sys2Proof.Proofs
open Sys2Proof.Machine Sys2Proof.Laws

variable {s : State} {o : OwnOrder} {c : Ctl} {bk : Bank} {b : Byte} {v : Nat} {r : Reason}

/-! ## Orders that change the store -/

theorem modBank_eq (f : BankRec → BankRec) (c : Ctl) : modBank bk f c = { c with store := withBank bk f c.store } := by
  cases bk <;> rfl

theorem orderBank_cons {rest : List Byte} (hb : o.payload = b :: rest) :
    orderBank o.payload = (bankOfCode b.toNat).map (fun bk => (bk, rest)) := by
  rw [hb]
  rfl

/-- An order that its owner answers, and that changes the store and leaves nothing due. -/
theorem ownOrder_stores {f : OwnOrder → Ctl → Ctl} {k : Link} {st : Store} (hs : Still s.ctl)
    (ht : Takes s.ctl o.src o.tag o.payload) (hv : ownerOf v = some f)
    (hf : f o (reserve s.ctl) = { s.ctl with link := k, store := st })
    (hk : k.opsTx = s.ctl.link.opsTx ∧ k.opsHeldOff = s.ctl.link.opsHeldOff) :
    act (opsFrameEnds (ownOrder v o)) s = .next { s with ctl := { s.ctl with link := k, store := st } } :=
  act_settled ((takes_ownOrder ht hv).trans hf) rfl rfl hs.settled (by rw [hk.1, hk.2]; exact hs.opsTaken)

/-! ## STORE_FAULT_CLEAR (R124) -/

theorem bankOfCode_other (h1 : b ≠ 1#8) (h2 : b ≠ 2#8) : bankOfCode b.toNat = none := by
  have h1 : b.toNat ≠ 1 := fun h => h1 (BitVec.eq_of_toNat_eq h)
  have h2 : b.toNat ≠ 2 := fun h => h2 (BitVec.eq_of_toNat_eq h)
  unfold bankOfCode
  split
  · exact absurd ‹_› h1
  · exact absurd ‹_› h2
  · rfl

theorem storeFaultClear_clears (hrun : c.start.phase = .running) (hb : o.payload = [b])
    (hbk : bankOfCode b.toNat = some bk) : storeFaultClear o (reserve c) = { c with
      link := answered o 51 1 0 [] c.link
      store := withBank bk (fun r => { r with fault := false }) c.store } := by
  have hrun : ¬ (reserve c).start.phase ≠ .running := not_not.mpr hrun
  rw [storeFaultClear, if_neg hrun, orderBank_cons hb, hbk]
  simp only [Option.map_some, answerDone_reserve, modBank_eq]

theorem storeFaultClear_noBank (hrun : c.start.phase = .running) (hb : o.payload = [b])
    (hbk : bankOfCode b.toNat = none) : storeFaultClear o c = refuseOrder o 51 .badRecord (u8 0) c := by
  rw [storeFaultClear, if_neg (not_not.mpr hrun), orderBank_cons hb, hbk]
  rfl

/-- Settles O30: a bank that the order names has its flag cleared, and any other code names none. -/
theorem storeFaultIsCleared : Obligations.StoreFaultIsCleared := by
  intro o s b hs ht hrun hb
  refine ⟨fun bk hbk => ?clears, fun h1 h2 => ?noBank⟩
  case clears => exact ownOrder_stores hs ht rfl (storeFaultClear_clears hrun hb hbk) ⟨rfl, rfl⟩
  case noBank =>
    exact ownOrder_refused (v := 51) hs ht rfl (storeFaultClear_noBank hrun hb (bankOfCode_other h1 h2))

/-! ## STORE_OPEN and STORE_CLOSE (R125) -/

/-- With no burst open, all that closing does is to leave no bank open. -/
theorem closeBank_closes (h : c.load.state = .none) :
    closeBank c = { c with store := { c.store with openBank := none } } := by
  cases ho : c.store.openBank with
  | some bk => exact closeBank_noBurst ho h
  | none =>
    have hclosed : { c.store with openBank := none } = c.store := by rw [← ho]
    rw [hclosed, closeBank, ho]

section Open
variable {s1 s2 : Byte} (hrun : c.start.phase = .running) (hload : c.load.state = .none) (hb : o.payload = [b, s1, s2])
  (hbk : bankOfCode b.toNat = some bk)
include hrun hload hb hbk

theorem storeOpen_opens (hblank : (bankRec c bk).header.state ≠ .blank)
    (hseason : (bankRec c bk).header.season = some (rd2 s1 s2)) (hclear : (bankRec c bk).change ≠ .clear) :
    storeOpen o (reserve c) = { c with
      link := answered o 42 1 0 [] c.link
      store := { c.store with openBank := some bk } } := by
  have hrun : ¬ (reserve c).start.phase ≠ .running := not_not.mpr hrun
  have htests : ¬ ((bankRec (reserve c) bk).header.state = .blank ∨
      (bankRec (reserve c) bk).header.season ≠ some (rd2 s1 s2)) := not_or.mpr ⟨hblank, not_not.mpr hseason⟩
  have hclear : ¬ (bankRec (reserve c) bk).change = .clear := hclear
  rw [storeOpen, if_neg hrun, orderBank_cons hb, hbk]
  simp only [Option.map_some, if_neg htests, if_neg hclear, answerDone_reserve]
  by_cases ho : c.store.openBank = some bk
  · have hopen : { c.store with openBank := some bk } = c.store := by rw [← ho]
    rw [hopen]
    exact if_pos ho
  · rw [closeBank_closes]
    · exact if_neg ho
    · exact hload

theorem storeOpen_wrongSeason
    (h : (bankRec c bk).header.state = .blank ∨ (bankRec c bk).header.season ≠ some (rd2 s1 s2)) :
    storeOpen o (reserve c) = { c with
      link := answered o 42 3 24 [] c.link
      store := { c.store with openBank := none } } := by
  have hrun : ¬ (reserve c).start.phase ≠ .running := not_not.mpr hrun
  have htests : (bankRec (reserve c) bk).header.state = .blank ∨
      (bankRec (reserve c) bk).header.season ≠ some (rd2 s1 s2) := h
  rw [storeOpen, if_neg hrun, orderBank_cons hb, hbk]
  simp only [Option.map_some, if_pos htests, refuseOrder_reserve]
  exact closeBank_closes hload

end Open

theorem storeClose_closes (hload : c.load.state = .none) : storeClose o (reserve c) = { c with
    link := answered o 43 1 0 [] c.link
    store := { c.store with openBank := none } } := by
  rw [storeClose, answerDone_reserve]
  exact closeBank_closes hload

/-- Settles O29: with no burst open an order that closes a bank has nothing to abandon. -/
theorem storeOpensAndCloses : Obligations.StoreOpensAndCloses := by
  intro o s hs ht hload
  refine ⟨fun b s1 s2 bk hb hbk hrun => ⟨fun hblank hseason hclear => ?opens, fun h => ?wrongSeason⟩, ?closes⟩
  case opens =>
    exact ownOrder_stores hs ht rfl (storeOpen_opens hrun hload hb hbk hblank hseason hclear) ⟨rfl, rfl⟩
  case wrongSeason => exact ownOrder_stores hs ht rfl (storeOpen_wrongSeason hrun hload hb hbk h) ⟨rfl, rfl⟩
  case closes => exact ownOrder_stores hs ht rfl (storeClose_closes hload) ⟨rfl, rfl⟩

/-! ## What the banks' states refuse (R126, R127) -/

theorem writeTests_notOpen {accepts : Bool} (h : c.store.openBank ≠ some bk) :
    writeTests c bk accepts = some .notOpen := if_pos h

theorem writeTests_protected {accepts : Bool} (ho : c.store.openBank = some bk) (ha : accepts = false) :
    writeTests c bk accepts = some .isProtected := by
  simp [writeTests, ho, ha]

theorem acceptsWrites_false (hf : (bankRec c bk).header.state ≠ .filling)
    (ha : (bankRec c bk).header.state ≠ .active ∨ c.panel.cond.maintenance = false) : acceptsWrites c bk = false := by
  rcases ha with ha | ha <;> simp [acceptsWrites, hf, ha]

section Barred
variable {rest : List Byte} (hrun : c.start.phase = .running) (hb : o.payload = b :: rest)
  (hbk : bankOfCode b.toNat = some bk)
include hrun hb hbk

theorem entryAppend_barred (he : (parseEntry rest).isSome = true)
    (hw : writeTests c bk (acceptsWrites c bk) = some r) : entryAppend o c = refuseOrder o 47 r [] c := by
  obtain ⟨e, he⟩ := Option.isSome_iff_exists.mp he
  simp [entryAppend, hrun, orderBank_cons hb, hbk, he, hw]

theorem entryVoid_barred (hl : rest.length = 2) (hw : writeTests c bk (acceptsWrites c bk) = some r) :
    entryVoid o c = refuseOrder o 48 r [] c := by
  obtain ⟨i1, i2, rfl⟩ := List.length_eq_two.mp hl
  simp [entryVoid, hrun, orderBank_cons hb, hbk, hw]

theorem pageErase_barred {m1 m2 : Byte} (hm : rest = [m1, m2]) (hp : maskPages (rd2 m1 m2) ≠ [])
    (hw : writeTests c bk (decide ((bankRec c bk).header.state = .filling)) = some r) :
    pageErase o c = refuseOrder o 49 r [] c := by
  subst hm
  simp [pageErase, hrun, orderBank_cons hb, hbk, hp, hw]

theorem bankSeal_barred (hr : rest = []) (hw : writeTests c bk (decide ((bankRec c bk).header.state = .filling)) = some r) :
    bankSeal o c = refuseOrder o 45 r [] c := by
  subst hr
  simp [bankSeal, hrun, orderBank_cons hb, hbk, hw]

theorem loadOpen_barred {n1 n2 : Byte} (hn : rest = [n1, n2]) (hrange : 1 ≤ rd2 n1 n2 ∧ rd2 n1 n2 ≤ 2048)
    (hw : writeTests c bk (decide ((bankRec c bk).header.state = .filling)) = some r) :
    loadOpen o c = refuseOrder o 1 r [] c := by
  subst hn
  simp [loadOpen, hrun, orderBank_cons hb, hbk, hrange, openTests, hw]

theorem bankClear_barred (hr : rest = []) (hf : (bankRec c bk).header.state ≠ .filling)
    (hret : (bankRec c bk).header.state ≠ .retired) : bankClear o c = refuseOrder o 46 .isProtected [] c := by
  subst hr
  simp [bankClear, hrun, orderBank_cons hb, hbk, clearTests, clearable, hf, hret]

end Barred

theorem loadOpen_refused (hs : Still s.ctl) (ht : Takes s.ctl o.src o.tag o.payload)
    (hf : loadOpen o (reserve s.ctl) = refuseOrder o 1 r [] (reserve s.ctl)) :
    exec (.loadOpen o) s = .next { s with ctl := { s.ctl with link := answered o 1 3 r.code [] s.ctl.link } } := by
  have hroute : opsFrameEnds (loadFrame 1 o) s.ctl = loadOpen o (reserve s.ctl) := takes_loadFrame ht
  exact act_settled (hroute.trans (hf.trans (refuseOrder_reserve ..))) rfl rfl hs.settled hs.opsTaken

/-- Whether a bank accepts what an order writes: appends and voids also while ACTIVE with the MAINTENANCE key on, and the
others while FILLING alone (R126). -/
def acceptsVerb (c : Ctl) (bk : Bank) (verb : Nat) : Bool :=
  if verb = 47 ∨ verb = 48 then acceptsWrites c bk else decide ((bankRec c bk).header.state = .filling)

theorem acceptsVerb_false (hf : (bankRec c bk).header.state ≠ .filling)
    (ha : (bankRec c bk).header.state ≠ .active ∨ c.panel.cond.maintenance = false ∨ v = 49 ∨ v = 45 ∨ v = 1) :
    acceptsVerb c bk v = false := by
  unfold acceptsVerb
  split
  · exact acceptsWrites_false hf (ha.imp_right fun h => h.resolve_right (by omega))
  · exact decide_eq_false hf

/-- Settles O28: an order whose payload is its own is tested by the open bank first, and then by what the bank's state accepts
of its verb; a clear is tested by the state alone. -/
theorem banksProtectTheirRecords : Obligations.BanksProtectTheirRecords := by
  intro o s b rest bk hs ht hrun hb hbk state refused
  refine ⟨fun p hp hshape => ?writes, fun hr hf hret => ?clears⟩
  case writes =>
    have hrun' : (reserve s.ctl).start.phase = .running := hrun
    have barred (r : Reason) (hw : writeTests s.ctl bk (acceptsVerb s.ctl bk p.1) = some r) :
        exec p.2 s = refused p.1 r.code := by
      simp only [List.mem_cons, List.not_mem_nil, or_false] at hp
      rcases hp with rfl | rfl | rfl | rfl | rfl
      · have he : (parseEntry rest).isSome = true := by simpa using hshape
        exact ownOrder_refused (v := 47) hs ht rfl (entryAppend_barred hrun' hb hbk he hw)
      · have hl : rest.length = 2 := by simpa using hshape
        exact ownOrder_refused (v := 48) hs ht rfl (entryVoid_barred hrun' hb hbk hl hw)
      · obtain ⟨m1, m2, hm, hpages⟩ : ∃ m1 m2, rest = [m1, m2] ∧ maskPages (rd2 m1 m2) ≠ [] := by simpa using hshape
        exact ownOrder_refused (v := 49) hs ht rfl (pageErase_barred hrun' hb hbk hm hpages hw)
      · have hr : rest = [] := by simpa using hshape
        exact ownOrder_refused (v := 45) hs ht rfl (bankSeal_barred hrun' hb hbk hr hw)
      · obtain ⟨n1, n2, hn, hrange⟩ : ∃ n1 n2, rest = [n1, n2] ∧ 1 ≤ rd2 n1 n2 ∧ rd2 n1 n2 ≤ 2048 := by
          simpa using hshape
        exact loadOpen_refused hs ht (loadOpen_barred hrun' hb hbk hn hrange hw)
    exact ⟨fun ho => barred _ (writeTests_notOpen ho),
      fun ho hf ha => barred _ (writeTests_protected ho (acceptsVerb_false hf ha))⟩
  case clears =>
    exact ownOrder_refused (v := 46) hs ht rfl (bankClear_barred (c := reserve s.ctl) hrun hb hbk hr hf hret)

/-! ## The erase window (R132) -/

theorem pageErase_accepted {m1 m2 : Byte} (hrun : c.start.phase = .running) (hb : o.payload = [b, m1, m2])
    (hbk : bankOfCode b.toNat = some bk) (hp : maskPages (rd2 m1 m2) ≠ [])
    (hw : writeTests c bk (decide ((bankRec c bk).header.state = .filling)) = none)
    (ht : eraseTests c bk (maskPages (rd2 m1 m2)) = none) :
    pageErase o c = selectPages bk (maskPages (rd2 m1 m2)) (orderRef o) (answerAccepted o.src o.tag 49 c) := by
  simp [pageErase, hrun, orderBank_cons hb, hbk, hp, hw, ht]

/-- The controller after an order is answered ACCEPTED. -/
theorem answerAccepted_reserve : answerAccepted o.src o.tag v (reserve c) =
    { c with link := answered o v 2 0 [] c.link } := reserve_answerAccepted ..

theorem onStore_pushOnce (x : Signal) (f : Store → Store) (c : Ctl) :
    (pushOnce x c).onStore f = pushOnce x (c.onStore f) := by
  unfold pushOnce
  split
  · exact (if_pos ‹_›).symm
  · exact (if_neg ‹_›).symm

theorem selectPages_opens {pages : List Nat} {ref : Ref} (h : windowOpenFor c.store bk = false) :
    selectPages bk pages ref c = pushOnce .engine { c with
      store := { withRequest (.erase bk pages [ref] true) c.store with window := some c.clock } } := by
  rw [selectPages, h, if_neg Bool.false_ne_true, queueRequest, onStore_pushOnce]
  rfl

theorem selectPages_joins {pages selected : List Nat} {ref : Ref} {refs : List Ref}
    (h : c.store.queue = [.erase bk selected refs true]) : selectPages bk pages ref c = { c with
      store := { c.store with
        window := some c.clock
        queue := [.erase bk (pages.foldl (fun l p => nins p l) selected) (refs ++ [ref]) true] } } := by
  have hopen : windowOpenFor c.store bk = true := by simp [windowOpenFor, h]
  rw [selectPages, if_pos hopen]
  simp only [Ctl.onStore, h, List.map_cons, List.map_nil]

/-- Settles O27: a window open for the bank takes the pages as they are, and one that is opened lets the engine look at the
queue, which it does when its operation has ended. -/
theorem pageEraseOpensAWindow : Obligations.PageEraseOpensAWindow := by
  intro o s b m1 m2 bk hs ht hrun hop hb hbk hp hopen hstate hfault htests ref
  have accepted : pageErase o (reserve s.ctl) = selectPages bk (maskPages (rd2 m1 m2)) ref
      { s.ctl with link := answered o 49 2 0 [] s.ctl.link } := by
    rw [pageErase_accepted (c := reserve s.ctl) hrun hb hbk hp (writeTests_passed hopen (decide_eq_true hstate) hfault) htests,
      answerAccepted_reserve]
    rfl
  refine ⟨fun hw => ?opens, fun pages refs hq => ?joins⟩
  case opens => exact ownOrder_queued hs ht rfl hop (accepted.trans (selectPages_opens hw))
  case joins => exact ownOrder_stores hs ht rfl (accepted.trans (selectPages_joins hq)) ⟨rfl, rfl⟩

end Sys2Proof.Proofs
end

section
/-! The store engine (R122, R123): what an operation's end, or its limit, makes of the store, with nothing further for the
engine to do. -/

namespace Sys2Proof.Proofs
open Sys2Proof.Machine Sys2Proof.Laws

variable {s : State} {c : Ctl} {bk : Bank} {f g : BankRec → BankRec} {st : Store} {t : Millis} {k n : Nat} {e : EntryRec}
  {ref : Ref}

/-! ## One bank of the store -/

theorem withBank_withBank : withBank bk g (withBank bk f st) = withBank bk (fun r => g (f r)) st := by cases bk <;> rfl

@[simp] theorem bank_withBank : (withBank bk f st).bank bk = f (st.bank bk) := by cases bk <;> rfl

/-- A change of a bank is what it makes of that bank. -/
theorem withBank_congr (h : f (st.bank bk) = g (st.bank bk)) : withBank bk f st = withBank bk g st := by
  cases bk with
  | a => exact congrArg (fun r => { st with bankA := r }) h
  | b => exact congrArg (fun r => { st with bankB := r }) h

@[simp] theorem withBank_queue : (withBank bk f st).queue = st.queue := by cases bk <;> rfl
@[simp] theorem withBank_activation : (withBank bk f st).activation = st.activation := by cases bk <;> rfl
@[simp] theorem withBank_eraseJob : (withBank bk f st).eraseJob = st.eraseJob := by cases bk <;> rfl

/-! ## The engine with nothing to do -/

theorem engineIdle_withBank (h : EngineIdle st) : EngineIdle (withBank bk f st) :=
  ⟨withBank_queue.trans h.queue, withBank_activation.trans h.activation, withBank_eraseJob.trans h.job⟩

theorem engineIdle_withoutOp (h : EngineIdle st) : EngineIdle (withoutOp st) := ⟨h.queue, h.activation, h.job⟩

theorem inert_engine_idle (h : EngineIdle c.store) : Inert .engine c := by
  intro l
  simp only [handle, engine, h.job, h.activation, h.queue, ite_self]

/-- The controller once the operation in progress is over, at an instant not before `t`: the engine is to look for further
work. -/
def opEnded (t : Millis) (c : Ctl) : Ctl :=
  { c with clock := max c.clock t, agenda := [.engine], store := withoutOp c.store }

theorem endOp_still (h : c.agenda = []) : endOp t c = opEnded t c := by
  rw [endOp, again, pushOnce_new (by simp [h])]
  simp only [Ctl.onStore, clockReaches, h, List.nil_append]
  rfl

/-- A step that ends an operation, after which the engine finds no further work and whatever else is due has nothing to do. -/
theorem act_opEnds {f : Ctl → Ctl} {l : List Signal} (hs : Still s.ctl) (hf : f s.ctl = { c with agenda := .engine :: l })
    (ha : c.agenda = []) (hidle : EngineIdle c.store) (hi : ∀ x ∈ l, Inert x c) (hl : l.length < 16384)
    (hsame : c.matrix.paths = s.ctl.matrix.paths ∧ c.gate.tx = s.ctl.gate.tx)
    (hops : c.link.opsTx = s.ctl.link.opsTx ∧ c.link.opsHeldOff = s.ctl.link.opsHeldOff) :
    act f s = .next { s with ctl := c } := by
  have hinert : ∀ x ∈ ({ c with agenda := .engine :: l } : Ctl).agenda, Inert x { c with agenda := .engine :: l } := by
    intro x hx
    rcases List.mem_cons.mp hx with rfl | hx
    · exact inert_engine_idle hidle
    · exact fun m => hi x hx m
  have step := act_unnoted_inert hf hsame.1 hsame.2 hinert (by simp only [List.length_cons]; omega)
    (by simp only [hops.1, hops.2]; exact hs.opsTaken)
  rw [step]
  simp only [← ha]

theorem storeDone_room {subject : Subject} (h : c.link.reports.length < 32) : storeDone subject ref c = { c with
    link := withReport (reportNow c .storeDone subject 0 0 none (some ref)) c.link } := raise_room h

theorem storeFailed_room {subject : Subject} {r : Reason} {ref : Option Ref} (h : c.link.reports.length < 32) :
    storeFailed subject r ref c = { c with
      link := withReport (reportNow c .storeFailed subject r.code 0 none ref) c.link } := raise_room h

/-! ## The erase window (R132) -/

theorem windowExpired_ends (h : c.store.window = some t) : windowExpired c = pushOnce .engine { c with
    clock := max c.clock (t + 2000)
    store := endWindow c.store } := by
  simp only [windowExpired, h]
  rfl

theorem endWindow_erase {pages : List Nat} {refs : List Ref} {w : Bool} (h : st.queue = [.erase bk pages refs w]) :
    endWindow st = { st with window := none, queue := [.erase bk pages refs false] } := by
  simp only [endWindow, h, List.map_cons, List.map_nil]

/-! ## Slots and pages (R118, R129, R130) -/

/-- A slot that holds a record, with both its marks as a slot write leaves them. -/
def writtenSlot (e : EntryRec) (burst : Nat) : Slot :=
  { content := .record e, burst := burst, written := true, voidMark := false, workVoid := false }

/-- A bank with a slot set, and its page IN_USE if it was ERASED. -/
def withSlot (k : Nat) (x : Slot) (r : BankRec) : BankRec :=
  { r with
    slots := tset k x r.slots
    pages := if (pageAt r (pageOfKey k)).cond = .erased then
        tput Page.initial (pageOfKey k) { pageAt r (pageOfKey k) with cond := .inUse } r.pages
      else r.pages }

theorem pageWritten_writeSlot (k : Nat) (x : Slot) (r : BankRec) :
    pageWritten (pageOfKey k) (writeSlot k x r) = withSlot k x r := by
  have hpage : pageAt (writeSlot k x r) (pageOfKey k) = pageAt r (pageOfKey k) := rfl
  rw [pageWritten, withSlot, hpage]
  split
  · rfl
  · rfl

/-- A slot write of an order, in a bank that the plan does not follow. -/
theorem slotWritten_order (ha : (bankRec c bk).header.state ≠ .active) (hr : c.link.reports.length < 32) :
    slotWritten bk k e n (some ref) c = { c with
      link := withReport (reportNow c .storeDone (.entry bk e.id) 0 0 none (some ref)) c.link
      store := withBank bk (withSlot k (writtenSlot e n)) c.store } := by
  have hbank : bankRec { c with store := withBank bk (withSlot k (writtenSlot e n)) c.store } bk =
    withSlot k (writtenSlot e n) (bankRec c bk) := bank_withBank
  simp only [slotWritten, pageWritten_writeSlot, modBank_eq]
  rw [storeDone_room (by exact hr)]
  refine if_neg ?_
  show ¬ (bankRec { c with store := withBank bk (withSlot k (writtenSlot e n)) c.store } bk).header.state = .active
  rw [hbank]
  exact ha

/-- The last record leaves the buffer of a burst that is not paused, and its flow state stays as it is (R143). -/
theorem dropRecord_last {l : Load} {x : Nat × List Byte} {now : Millis} (hbuffer : l.buffer = [x])
    (hpaused : l.paused = false) : l.dropRecord now = { l with buffer := [] } := by
  have hdrop : l.buffer.drop 1 = [] := by rw [hbuffer]; rfl
  simp [Load.dropRecord, hdrop, Load.levelFlow, hpaused]

/-- The one record that a running burst holds, written (R144). -/
theorem slotWritten_burst {p : List Byte} {m : Nat} (hopen : c.load.state = .open_) (hbank : c.load.bank = bk)
    (hnumber : c.load.number = n) (hhand : c.load.hand = .queued) (hbuffer : c.load.buffer = [(m, p)])
    (hpaused : c.load.paused = false) : slotWritten bk k e n none c = pushOnce .intake { c with
      load := { c.load with written := c.load.written + 1, hand := .none, buffer := [] }
      store := withBank bk (withSlot k (writtenSlot e n)) c.store } := by
  subst hnumber
  have hon : c.load.openOn bk = true := by simp [Load.openOn, Load.isOpen, hopen, hbank]
  have hdrop : Load.dropRecord c.clock { c.load with written := c.load.written + 1, hand := .none } =
      { c.load with written := c.load.written + 1, hand := .none, buffer := [] } := dropRecord_last hbuffer hpaused
  simp only [slotWritten, pageWritten_writeSlot, modBank_eq, intakeWriteEnded, hon, hhand, and_self, if_true, Ctl.onLoad,
    hdrop]
  rfl

theorem inert_intake_drained (hopen : c.load.state = .open_) (hhand : c.load.hand = .none) (hbuffer : c.load.buffer = []) :
    Inert .intake c := by
  intro l
  simp only [handle, intake, hopen, hhand, hbuffer]

theorem slotVoided_order {id : Nat} {x : Slot} (hx : tget k (bankRec c bk).slots = some x)
    (ha : (bankRec c bk).header.state ≠ .active) (hr : c.link.reports.length < 32) : slotVoided bk k id ref c = { c with
      link := withReport (reportNow c .storeDone (.entry bk id) 0 0 none (some ref)) c.link
      store := withBank bk (fun r => { r with slots := tset k { x with voidMark := true, workVoid := true } r.slots })
        c.store } := by
  have hmod : withBank bk (modSlot k (fun x => { x with voidMark := true, workVoid := true })) c.store =
      withBank bk (fun r => { r with slots := tset k { x with voidMark := true, workVoid := true } r.slots }) c.store := by
    refine withBank_congr ?_
    have hx : tget k (c.store.bank bk).slots = some x := hx
    simp only [modSlot, tmod, hx]
  simp only [slotVoided, modBank_eq, hmod]
  rw [storeDone_room (by exact hr)]
  refine if_neg ?_
  simpa only [bankRec, bank_withBank] using ha

/-! ## Headers (R116, R134, R135) -/

/-- A header write's image programmed, and the working header changed. -/
def withHeader (h : Header) (r : BankRec) : BankRec := { programHeader h r with header := h }

theorem headerWritten_create {season : Nat} {epoch : SiteTime} (hr : c.link.reports.length < 32) :
    headerWritten bk (.create season epoch) (some ref) c = { c with
      link := withReport (reportNow c .storeDone (.bank bk season) 0 0 none (some ref)) c.link
      store := withBank bk (fun r => { withHeader
        { season := some season, epoch := some epoch, state := .filling, commits := [] } r with
        change := .none, highest := 0 }) c.store } := by
  simp only [headerWritten, headerSubject, changedHeader, modBank_eq, withBank_withBank]
  rw [storeDone_room (by exact hr)]
  rfl

theorem headerWritten_seal {h : Header} (hh : { (bankRec c bk).header with state := .standby } = h)
    (hr : c.link.reports.length < 32) : headerWritten bk .seal (some ref) c = push [.activation] { c with
      link := withReport (reportNow c .storeDone (.bank bk (h.season.getD 0)) 0 0 none (some ref)) c.link
      store := withBank bk (fun r => { withHeader h r with change := .none }) c.store
      plan := { c.plan with watch := h.epoch } } := by
  subst hh
  simp only [headerWritten, headerSubject, bankSubject, changedHeader, setChange, modBank_eq, withBank_withBank]
  rw [storeDone_room (by exact hr)]
  simp only [bankRec, bank_withBank, Ctl.onPlan]
  refine congrArg (push [.activation]) ?_
  congr 1
  exact withBank_congr rfl

theorem actingTime_noTime (h : c.plan.time = none) : actingTime c = none := by
  rw [actingTime, h, ite_self]

/-- While site time is INVALID no season is due (R151, R165). -/
theorem activationDue_noTime (h : c.plan.time = none) : activationDue c = none := by
  rw [activationDue, actingTime_noTime h]

theorem saveDone_room {second : Bool} {tables : Tables} {number : Nat} (hr : c.link.reports.length < 32) :
    saveDone second tables number ref c = { c with
      link := withReport (reportNow c .storeDone .siteArea 0 0 none (some ref)) c.link
      site := if second then { c.site with image2 := some { tables := tables, saveNumber := number } }
        else { c.site with image1 := some { tables := tables, saveNumber := number } } } := by
  rw [saveDone, storeDone_room (by exact hr)]
  rfl

/-! ## The last page of an erase (R133) -/

/-- A bank with a page erased. -/
def withErased (page : Nat) (r : BankRec) : BankRec :=
  { r with
    slots := r.slots.filter (fun p => pageOfKey p.1 != page)
    pages := tput Page.initial page
      { cond := .erased, failures := (pageAt r page).failures, eraseMark := true, allVoid := false } r.pages }

theorem pageErased_last {page : Nat} {j : EraseJob} (hj : c.store.eraseJob = some j) (hb : j.bank = bk)
    (hc : j.isClear = false) (hp : j.pages = [page]) (hrefs : j.refs = [ref]) (hr : c.link.reports.length < 32) :
    pageErased bk page c = again { c with
      link := withReport
        (reportNow c .storeDone (.bank bk ((bankRec c bk).header.season.getD 0)) 0 0 none (some ref)) c.link
      store := withBank bk (withErased page) { c.store with eraseJob := none } } := by
  have hjob : (withBank bk (withErased page) c.store).eraseJob = some j := withBank_eraseJob.trans hj
  have hmod : modBank bk (fun r => setPage page
      { cond := .erased, failures := (pageAt r page).failures, eraseMark := true, allVoid := false }
      { r with slots := r.slots.filter (fun p => pageOfKey p.1 != page) }) c =
      { c with store := withBank bk (withErased page) c.store } := modBank_eq ..
  have hleft : ([page].filter (fun p => p != page)) = [] := by simp
  rw [pageErased, hmod]
  simp only [hjob, hp, hleft, List.isEmpty_nil, if_true, eraseEnded, hc, Bool.false_eq_true, if_false, hrefs, hb,
    forEach_cons, forEach_nil]
  rw [storeDone_room (by exact hr)]
  cases bk <;> rfl

/-! ## How the commands end an operation -/

/-- What an operation ends with, at its nominal time or at its limit. -/
theorem slotWriteDone_eq {n : Nat} {ref : Option Ref} (h : c.store.op = some (.slotWrite bk k e n ref)) :
    slotWriteDone c = slotWritten bk k e n ref (endOp (c.store.opStart + 20) c) := by simp only [slotWriteDone, h]; rfl

theorem voidDone_eq {id : Nat} (h : c.store.op = some (.void bk k id ref)) :
    voidDone c = slotVoided bk k id ref (endOp (c.store.opStart + 20) c) := by simp only [voidDone, h]; rfl

theorem headerWriteDone_eq {ch : HeaderChange} {ref : Option Ref} (h : c.store.op = some (.header bk ch ref)) :
    headerWriteDone c = headerWritten bk ch ref (endOp (c.store.opStart + 20) c) := by
  simp only [headerWriteDone, h]; rfl

theorem siteSaveDone_eq {second : Bool} {tables : Tables} {number : Nat}
    (h : c.store.op = some (.siteSave second tables number ref)) :
    siteSaveDone c = saveDone second tables number ref (endOp (c.store.opStart + 2000) c) := by
  simp only [siteSaveDone, h]; rfl

theorem pageErasePageDone_eq {page : Nat} (h : c.store.op = some (.erasePage bk page)) :
    pageErasePageDone c = pageErased bk page (endOp (c.store.opStart + 1500) c) := by
  simp only [pageErasePageDone, h]; rfl

/-- A step that ends an operation and leaves no more due than the engine's look for further work, of which there is none. -/
theorem act_opDone {f : Ctl → Ctl} {now : Millis} {m : Nat} {l : Link} {z : Site} (hs : Still s.ctl) (hidle : EngineIdle st)
    (hf : f s.ctl = { s.ctl with clock := now, free := m, agenda := [.engine], link := l, site := z, store := st })
    (hl : l.opsTx = s.ctl.link.opsTx ∧ l.opsHeldOff = s.ctl.link.opsHeldOff) : act f s =
      .next { s with ctl := { s.ctl with clock := now, free := m, link := l, site := z, store := st } } :=
  act_opEnds hs hf hs.settled hidle (fun _ hx => absurd hx List.not_mem_nil) (by decide) ⟨rfl, rfl⟩ hl

/-- Settles O51, operation by operation. -/
theorem storeOperationsEnd : Obligations.StoreOperationsEnd := by
  intro s hs now done
  have hstill : ∀ t, endOp t s.ctl = opEnded t s.ctl := fun t => endOp_still hs.settled
  refine ⟨fun t bk pages refs hw hop hq => ?window, fun hidle hr => ?further,
    fun bk page j ref hop hj hb hc hp hrefs hq hact hr => ?erase⟩
  case window =>
    have hf : windowExpired s.ctl = { s.ctl with
        clock := max s.ctl.clock (t + 2000)
        agenda := [.engine]
        store := { s.ctl.store with window := none, queue := [.erase bk pages refs false] } } := by
      rw [windowExpired_ends hw, endWindow_erase hq, pushOnce_new (by simp [hs.settled])]
      simp only [hs.settled, List.nil_append]
    have step := act_unnoted_inert (f := windowExpired) hf rfl rfl
      (fun x hx => by rw [List.mem_singleton.mp hx]; exact inert_engine hop) (show 1 ≤ 16384 by decide) hs.opsTaken
    rw [← hs.settled] at step
    exact step
  case further =>
    have hbank : ∀ bk f, EngineIdle (withBank bk f (withoutOp s.ctl.store)) := fun bk f =>
      engineIdle_withBank (engineIdle_withoutOp hidle)
    refine ⟨fun bk k e ref hop ha => ?slot, fun bk k e n m p hop hopen hload hnumber hhand hbuffer hpaused => ?burst,
      fun bk k id ref x hop ha hx => ?void, fun bk season epoch ref hop => ?create, fun bk ref hop htime => ?sealed,
      fun second t number ref hop => ?save⟩
    case slot =>
      refine act_opDone hs (hbank bk (withSlot k (writtenSlot e 0))) ?_ ⟨rfl, rfl⟩
      rw [slotWriteDone_eq hop, hstill, slotWritten_order (c := opEnded _ s.ctl) ha hr]
      rfl
    case burst =>
      refine act_opEnds (l := [.intake]) hs ?_ hs.settled (hbank bk (withSlot k (writtenSlot e n))) ?_
        (by decide) ⟨rfl, rfl⟩ ⟨rfl, rfl⟩
      · rw [slotWriteDone_eq hop, hstill,
          slotWritten_burst (c := opEnded _ s.ctl) hopen hload hnumber hhand hbuffer hpaused,
          pushOnce_new (by simp [opEnded])]
        rfl
      · intro x hx
        rw [List.mem_singleton.mp hx]
        exact inert_intake_drained hopen rfl rfl
    case void =>
      refine act_opDone hs (hbank bk _) ?_ ⟨rfl, rfl⟩
      rw [voidDone_eq hop, hstill, slotVoided_order (c := opEnded _ s.ctl) hx ha hr]
      rfl
    case create =>
      refine act_opDone hs (hbank bk _) ?_ ⟨rfl, rfl⟩
      rw [headerWriteDone_eq hop, hstill, headerWritten_create (c := opEnded _ s.ctl) hr]
      rfl
    case sealed =>
      intro h
      refine act_opEnds (l := [.activation]) hs ?_ hs.settled (hbank bk (fun r => { withHeader h r with change := .none })) ?_
        (by decide) ⟨rfl, rfl⟩ ⟨rfl, rfl⟩
      · rw [headerWriteDone_eq hop, hstill, headerWritten_seal (c := opEnded _ s.ctl) rfl hr]
        rfl
      · intro x hx
        rw [List.mem_singleton.mp hx]
        exact inert_activation (activationDue_noTime htime)
    case save =>
      refine act_opDone hs (engineIdle_withoutOp hidle) ?_ ⟨rfl, rfl⟩
      rw [siteSaveDone_eq hop, hstill, saveDone_room (c := opEnded _ s.ctl) hr]
      rfl
  case erase =>
    have hidle : EngineIdle (withBank bk (withErased page) { withoutOp s.ctl.store with eraseJob := none }) :=
      engineIdle_withBank ⟨hq, hact, rfl⟩
    refine act_opDone hs hidle ?_ ⟨rfl, rfl⟩
    rw [pageErasePageDone_eq hop, hstill, pageErased_last (c := opEnded _ s.ctl) hj hb hc hp hrefs hr]
    exact pushOnce_again (List.mem_singleton_self _)

/-! ## Operations past their limits (R14, R123) -/

/-- A bank with a slot spoiled: its page FAILED with one failure more, and the fault flag set. -/
def withSpoiled (k free : Nat) (r : BankRec) : BankRec :=
  { r with
    fault := true
    slots := tset k
      { content := .garbled free, burst := spoiledBurst (free + 22), written := false, voidMark := false, workVoid := true }
      r.slots
    pages := tput Page.initial (pageOfKey k) { pageAt r (pageOfKey k) with
      cond := .failed, failures := min 2 ((pageAt r (pageOfKey k)).failures + 1) } r.pages }

theorem slotSpoiled_order (hr : c.link.reports.length < 32) : slotSpoiled bk k e n (some ref) c = { c with
    free := c.free + 23
    link := withReport (reportNow c .storeFailed (.entry bk e.id) 29 0 none (some ref)) c.link
    store := withBank bk (withSpoiled k c.free) c.store } := by
  simp only [slotSpoiled, raiseFault, drawFree, modBank_eq, withBank_withBank]
  rw [storeFailed_room (by exact hr)]
  rfl

@[simp] theorem spoilHeader_header (r : BankRec) : (spoilHeader r).header = r.header := by
  unfold spoilHeader
  split <;> rfl

theorem headerFailed_seal (hr : c.link.reports.length < 32) :
    headerFailed bk .seal (some ref) .storeFault true (raiseFault bk (modBank bk spoilHeader c)) = { c with
      link := withReport
        (reportNow c .storeFailed (.bank bk ((bankRec c bk).header.season.getD 0)) 29 0 none (some ref)) c.link
      store := withBank bk (fun r => { spoilHeader r with fault := true, change := .none }) c.store } := by
  simp only [headerFailed, if_true, headerSubject, bankSubject, raiseFault, setChange, modBank_eq, withBank_withBank]
  rw [storeFailed_room (by exact hr)]
  simp only [bankRec, bank_withBank, withBank_withBank, spoilHeader_header]
  rfl

theorem saveFailed_room (hr : c.link.reports.length < 32) : saveFailed ref c = { c with
    free := c.free + 1
    link := withReport (reportNow c .storeFailed .siteArea (freeBelow 256 c.free) 0 none (some ref)) c.link
    site := { c.site with unsaved := true } } := by
  rw [saveFailed, raise_room (by exact hr)]
  rfl

theorem storeLimit_slot {ref : Option Ref} (h : c.store.op = some (.slotWrite bk k e n ref)) :
    storeLimit c = slotSpoiled bk k e n ref (endOp (c.store.opStart + 200) c) := by simp only [storeLimit, h]; rfl

theorem storeLimit_header {ch : HeaderChange} {ref : Option Ref} (h : c.store.op = some (.header bk ch ref)) :
    storeLimit c = headerFailed bk ch ref .storeFault true
      (raiseFault bk (modBank bk spoilHeader (endOp (c.store.opStart + 200) c))) := by simp only [storeLimit, h]; rfl

theorem siteSaveLimit_eq {second : Bool} {tables : Tables} {number : Nat}
    (h : c.store.op = some (.siteSave second tables number ref)) :
    siteSaveLimit c = saveFailed ref (endOp (c.store.opStart + 8000) c) := by simp only [siteSaveLimit, h]; rfl

/-- Settles O52, operation by operation. -/
theorem storeLimitsExpire : Obligations.StoreLimitsExpire := by
  intro s hs hidle hr now failed
  have hstill : ∀ t, endOp t s.ctl = opEnded t s.ctl := fun t => endOp_still hs.settled
  have hbank : ∀ bk f, EngineIdle (withBank bk f (withoutOp s.ctl.store)) := fun bk f =>
    engineIdle_withBank (engineIdle_withoutOp hidle)
  refine ⟨fun bk k e ref hop => ?slot, fun bk ref hop => ?header, fun second t number ref hop => ?save⟩
  case slot =>
    refine act_opDone hs (hbank bk (withSpoiled k s.ctl.free)) ?_ ⟨rfl, rfl⟩
    rw [storeLimit_slot hop, hstill, slotSpoiled_order (c := opEnded _ s.ctl) hr]
    rfl
  case header =>
    refine act_opDone hs (hbank bk _) ?_ ⟨rfl, rfl⟩
    rw [storeLimit_header hop, hstill, headerFailed_seal (c := opEnded _ s.ctl) hr]
    rfl
  case save =>
    refine act_opDone hs (engineIdle_withoutOp hidle) ?_ ⟨rfl, rfl⟩
    rw [siteSaveLimit_eq hop, hstill, saveFailed_room (c := opEnded _ s.ctl) hr]
    rfl

end Sys2Proof.Proofs
end

section
/-! RESTART (R196): with no frame or operation under way that it refuses, what each block keeps and what it starts afresh. -/

namespace Sys2Proof.Proofs
open Sys2Proof.Machine Sys2Proof.Laws

variable {s : State} {o : OwnOrder} {c : Ctl}

/-- Nothing is under way that RESTART refuses: no frame in the plant queue, the table or the hold queue, no pending close (R38). -/
structure NothingOwed (c : Ctl) : Prop where
  plantQueue : c.link.plantQueue = []
  table : c.link.table = []
  held : c.gate.held = []
  close : c.load.close = none

theorem refuseRestarting_nothing (h : NothingOwed c) : refuseRestarting c = c := by
  simp only [refuseRestarting, h.plantQueue, h.table, h.held, List.filter_nil, List.map_nil, forEach_nil, answerClose, h.close]

theorem pushSampled_known {was : Bool} (h : c.panel.cond.push = true → was = true) : pushSampled was c = c := by
  refine if_neg fun hnew => ?_
  obtain ⟨hpush, hwas⟩ := Bool.and_eq_true_iff.mp hnew
  simp [h hpush] at hwas

/-- No context is left at work (R191). -/
@[simp] theorem restartedCtx_busy (x : Ctx) : (restartedCtx x).busy = false := by
  unfold restartedCtx
  split
  · rfl
  · exact Bool.eq_false_of_not_eq_true ‹_›

/-- The controller after RESTART, but for what it answers. -/
def restarted (c : Ctl) : Ctl := { c with
  agenda := []
  link := { c.link with plantQueue := [], urgentWaiters := [], internalWaiters := [], table := [], silent := [], reports := [] }
  gate := { c.gate with tx := freshTx (loadedTables c.site), held := [] }
  matrix := { c.matrix with xps := [], slots := keptSlots c.matrix.slots, queue := [], waiting := [], paths := [] }
  aerial := freshAnt (loadedTables c.site)
  site := { c.site with work := loadedTables c.site, unsaved := false }
  store := { Ctl.reset.store with bankA := resetBank c.store.bankA, bankB := resetBank c.store.bankB }
  load := Load.initial
  plan := { c.plan with
    events := [], scan := { time := 0, resume := none, left := [] }, fullLatch := false, watch := none }
  cu := c.cu.map (fun p => (p.1, restartedCtx p.2))
  panel := samplePanel c.panel
  start := { phase := .storeCheck, last := .restart, surveyAt := 0, heard := [], timeSet := false, retire := none } }

theorem restart_restarts (h : NothingOwed c) (hop : c.store.op = none)
    (hpush : c.panel.raw.push = true → c.panel.cond.push = true) :
    restart o (reserve c) = restarted { c with link := answered o 56 1 0 [] c.link } := by
  have hrefuse : refuseRestarting { c with link := answered o 56 1 0 [] c.link } =
      { c with link := answered o 56 1 0 [] c.link } :=
    refuseRestarting_nothing ⟨h.plantQueue, h.table, h.held, h.close⟩
  rw [restart, answerDone_reserve, hrefuse, emptyBlocks, resetStore_idle (by exact hop)]
  exact pushSampled_known hpush

/-- Settles O38: RESTART leaves nothing due but the look at the columns, which no context is left to judge. -/
theorem restartStartsAfresh : Obligations.RestartStartsAfresh := by
  intro o s hs ht hqueue htable hheld hclose hop hpush tables
  have hf : opsFrameEnds (ownOrder 56 o) s.ctl = restarted { s.ctl with link := answered o 56 1 0 [] s.ctl.link } :=
    (takes_ownOrder ht rfl).trans (restart_restarts ⟨hqueue, htable, hheld, hclose⟩ hop hpush)
  have hcolumns : Inert .columns (restarted { s.ctl with link := answered o 56 1 0 [] s.ctl.link }) := by
    refine inert_columns fun p hp => ?_
    obtain ⟨q, -, rfl⟩ := List.mem_map.mp hp
    exact restartedCtx_busy q.2
  refine (act_leaves (l := []) hf rfl (fun x hx => absurd hx List.not_mem_nil) hcolumns (by decide) hs.opsTaken).trans ?_
  simp only [restarted, answered, withAnswer, hs.settled, hqueue, htable, hheld, hop]
  rfl

end Sys2Proof.Proofs
end

section
/-! The activation of a season (R117, R165), where no occurrence is running and the new season holds no record. -/

namespace Sys2Proof.Proofs
open Sys2Proof.Machine Sys2Proof.Laws

variable {s : State} {c : Ctl} {bk : Bank} {now t : SiteTime} {r : BankRec}

/-! ## The season that is due -/

theorem activationDue_standby (hrun : c.start.phase = .running) (htime : c.plan.time = some now)
    (hwatch : c.plan.watch = some t) (hle : t ≤ now) (hbk : (bankRec c bk).header.state = .standby)
    (hother : (bankRec c (otherBank bk)).header.state ≠ .standby) : activationDue c = some (bk, now) := by
  have hacting : actingTime c = some now := (if_pos hrun).trans htime
  simp only [activationDue, hacting, hwatch, if_pos hle]
  cases bk with
  | a => exact if_pos hbk
  | b => exact (if_neg hother).trans (if_pos hbk)

/-! ## The headers (R117) -/

/-- A bank's working header in the state that an activation gives it, its header write pending. -/
def inSeason (st : BankState) (r : BankRec) : BankRec :=
  { r with header := { r.header with state := st }, change := .activate }

/-- The store with a bank ACTIVE and an ACTIVE other bank RETIRED, their header writes in the activation place. -/
def seasonStore (bk : Bank) (st : Store) : Store :=
  let retires := (st.bank (otherBank bk)).header.state = .active
  let store := { endWindow st with
    activation := st.activation ++
      (if retires then [(otherBank bk, .retire), (bk, .activate)] else [(bk, .activate)]) }
  withBank bk (inSeason .active) (if retires then withBank (otherBank bk) (inSeason .retired) store else store)

theorem activateHeaders_eq : activateHeaders bk c = pushOnce .engine { c with store := seasonStore bk c.store } := by
  have hold : bankRec c (otherBank bk) = c.store.bank (otherBank bk) := rfl
  by_cases h : (c.store.bank (otherBank bk)).header.state = .active
  · simp only [activateHeaders, hold, h, decide_true, if_true, seasonStore, modBank_eq]
    cases bk <;> rfl
  · simp only [activateHeaders, hold, h, decide_false, Bool.false_eq_true, if_false, seasonStore, modBank_eq]
    cases bk <;> rfl

theorem bank_seasonStore (bk : Bank) (st : Store) : (seasonStore bk st).bank bk = inSeason .active (st.bank bk) := by
  unfold seasonStore
  cases bk <;> dsimp only <;> split <;> rfl

theorem bank_seasonStore_other (bk : Bank) (st : Store) :
    ((seasonStore bk st).bank (otherBank bk)).header.state ≠ .active := by
  unfold seasonStore
  by_cases h : (st.bank (otherBank bk)).header.state = .active
  · simp only [if_pos h]
    cases bk <;> exact BankState.noConfusion
  · simp only [if_neg h]
    cases bk <;> exact h

theorem seasonStore_op (bk : Bank) (st : Store) : (seasonStore bk st).op = st.op := by
  unfold seasonStore
  cases bk <;> dsimp only <;> split <;> rfl

/-- The new season is the ACTIVE one. -/
theorem activeBank_seasonStore {st : Store} (h : c.store = seasonStore bk st) : activeBank c = some bk := by
  have hnew : (bankRec c bk).header.state = .active := by
    rw [bankRec, h, bank_seasonStore]
    rfl
  have hold : (bankRec c (otherBank bk)).header.state ≠ .active := by
    rw [bankRec, h]
    exact bank_seasonStore_other bk st
  cases bk with
  | a => exact if_pos hnew
  | b => exact (if_neg hold).trans (if_pos hnew)

/-! ## A season without records (R156) -/

/-- The header's state has no part in which records are valid (R120). -/
theorem validRecords_inSeason (st : BankState) (r : BankRec) : validRecords (inSeason st r) = validRecords r := rfl

theorem scheduleEntries_noRecords (h : validRecords r = []) : scheduleEntries r = [] := by
  rw [scheduleEntries, h]
  rfl

theorem catchUp_noEntries (hbank : activeBank c = some bk) (h : scheduleEntries (bankRec c bk) = []) :
    catchUp now c = (c, []) := by
  simp only [catchUp, hbank, h]
  rfl

theorem scanRange_noEntries {high : SiteTime} (hbank : activeBank c = some bk) (h : scheduleEntries (bankRec c bk) = [])
    (hidle : ∀ p ∈ c.gate.tx, p.2.running = none) : scanRange c high = [] := by
  have hends : runningEnds c = [] := List.filterMap_eq_nil_iff.mpr fun p hp => by rw [hidle p hp]; rfl
  simp only [scanRange, hbank, h, hends]
  rfl

/-! ## The activation (R165) -/

/-- All that setting the log can leave due: a START that waits for the log is offered again. -/
theorem setLog_due (log : List LogRec) (c : Ctl) : ∃ l : List Signal, (∀ x ∈ l, x = .offerLog) ∧ l.length ≤ 1 ∧
    setLog log c = { c with agenda := c.agenda ++ l, plan := { c.plan with log := log } } := by
  unfold setLog pushOnce
  dsimp only
  split
  · split
    · exact ⟨[], by simp, by simp, by simp [Ctl.onPlan]⟩
    · exact ⟨[.offerLog], by simp, by simp, rfl⟩
  · exact ⟨[], by simp, by simp, by simp [Ctl.onPlan]⟩

theorem abortSeason_noContext (h : ∀ p ∈ c.cu, p.2.busy = false) : abortSeason bk c = c := by
  rw [abortSeason, busyCtxs_none h, forEach_nil]

theorem endOldRunning_idle {n : Nat} (h : ∀ d, txDyn c n = some d → d.running = none) : endOldRunning now n c = c := by
  have hrunning : (txDyn c n).bind (·.running) = none := Option.bind_eq_none_iff.mpr h
  unfold endOldRunning
  rw [hrunning]
  cases activeBank c <;> rfl

/-- A controller whose activation has nothing to end: an empty plan, no context at work, no occurrence running, and no record in
the new season. -/
structure ActivatesAlone (c : Ctl) (bk : Bank) (now : SiteTime) : Prop where
  time : actingTime c = some now
  planEmpty : c.plan.events = []
  noContext : ∀ p ∈ c.cu, p.2.busy = false
  listedIdle : ∀ p ∈ c.gate.tx, p.2.running = none
  idle : ∀ n d, txDyn c n = some d → d.running = none
  noRecords : validRecords (bankRec c bk) = []
  room : c.link.reports.length < 32

/-- The plan once a season has been activated at a time and nothing of it has entered. -/
def seasonPlan (bk : Bank) (now : SiteTime) (p : Plan) : Plan := { p with
  watch := none
  log := p.log.filter (fun r => decide (r.occ.bank ≠ otherBank bk))
  scan := { time := addTime now Config.horizon, resume := none, left := [] }
  fullLatch := false }

/-- The controller once a season has been activated so. -/
def inNewSeason (bk : Bank) (now : SiteTime) (c : Ctl) : Ctl := { c with
  link := withReport (reportNow c .bankActivated (.bank bk ((bankRec c bk).header.season.getD 0)) 0 0 none none) c.link
  store := seasonStore bk c.store
  plan := seasonPlan bk now c.plan }

theorem rebuild_newSeason (h : ActivatesAlone c bk now) {d : Ctl} (hd : d.start = c.start ∧ d.gate = c.gate)
    (hstore : d.store = seasonStore bk c.store) (htime : d.plan.time = c.plan.time) :
    rebuild d = push [.dispatch] (scannedAhead now (cleared now d)) := by
  have hacting : actingTime d = some now := by
    rw [← h.time, actingTime, actingTime, hd.1, htime]
  have hidle : ∀ p ∈ d.gate.tx, p.2.running = none := by
    rw [hd.2]
    exact h.listedIdle
  have hbank : activeBank (cleared now d) = some bk := activeBank_seasonStore (st := c.store) hstore
  have hentries : scheduleEntries (bankRec (cleared now d) bk) = [] := by
    refine scheduleEntries_noRecords ?_
    show validRecords (d.store.bank bk) = []
    rw [hstore, bank_seasonStore, validRecords_inSeason]
    exact h.noRecords
  exact rebuild_idle hacting hidle (catchUp_noEntries hbank hentries) rfl (scanRange_noEntries hbank hentries hidle)

/-- The controller once the headers have changed and the records of the old season have left the log, with what that leaves
due. -/
def headersChanged (bk : Bank) (l : List Signal) (c : Ctl) : Ctl := { c with
  agenda := .engine :: l
  store := seasonStore bk c.store
  plan := { c.plan with watch := none, log := c.plan.log.filter (fun r => decide (r.occ.bank ≠ otherBank bk)) } }

/-- The first steps of an activation: the headers, the watch and the events of the other bank. -/
def oldEventsRemoved (bk : Bank) (c : Ctl) : Ctl := removeEvents (fun v => decide (v.occ.bank = otherBank bk))
  ((activateHeaders bk c).onPlan (fun p => { p with watch := none }))

theorem oldEventsRemoved_of (ha : c.agenda = []) (hp : c.plan.events = []) : oldEventsRemoved bk c = { c with
    agenda := [.engine], store := seasonStore bk c.store, plan := { c.plan with watch := none } } := by
  have hheaders : (activateHeaders bk c).onPlan (fun p => { p with watch := none }) =
      { c with agenda := [.engine], store := seasonStore bk c.store, plan := { c.plan with watch := none } } := by
    rw [activateHeaders_eq, pushOnce_new (by simp [ha])]
    simp only [Ctl.onPlan, ha, List.nil_append]
  rw [oldEventsRemoved, hheaders, removeEvents_empty (by exact hp)]

theorem headersChanged_of (ha : c.agenda = []) (hp : c.plan.events = []) : ∃ l : List Signal, (∀ x ∈ l, x = .offerLog) ∧
    l.length ≤ 1 ∧ setLog ((oldEventsRemoved bk c).plan.log.filter (fun r => decide (r.occ.bank ≠ otherBank bk)))
      (oldEventsRemoved bk c) = headersChanged bk l c := by
  obtain ⟨l, hl, hlen, hlog⟩ := setLog_due
    ((oldEventsRemoved bk c).plan.log.filter (fun r => decide (r.occ.bank ≠ otherBank bk))) (oldEventsRemoved bk c)
  refine ⟨l, hl, hlen, ?_⟩
  rw [hlog, oldEventsRemoved_of ha hp]
  rfl

theorem activate_alone (h : ActivatesAlone c bk now) (ha : c.agenda = []) : ∃ l : List Signal,
    (∀ x ∈ l, x = .engine ∨ x = .offerLog ∨ x = .dispatch) ∧ l.length ≤ 3 ∧
    activate bk now c = { inNewSeason bk now c with agenda := l } := by
  obtain ⟨l, hl, hlen, hlog⟩ := headersChanged_of (bk := bk) ha h.planEmpty
  have habort : abortSeason (otherBank bk) (headersChanged bk l c) = headersChanged bk l c :=
    abortSeason_noContext h.noContext
  have hends : forEach ((headersChanged bk l c).gate.tx.map (·.1)) (endOldRunning now) (headersChanged bk l c) =
      headersChanged bk l c := forEach_id _ fun n _ => endOldRunning_idle (h.idle n)
  have hsubject : bankSubject (headersChanged bk l c) bk = .bank bk ((bankRec c bk).header.season.getD 0) := by
    have hnew : bankRec (headersChanged bk l c) bk = inSeason .active (bankRec c bk) := bank_seasonStore bk c.store
    rw [bankSubject, hnew]
    rfl
  refine ⟨.engine :: l ++ [.dispatch], fun x hx => ?due, by simp; omega, ?state⟩
  case due =>
    simp only [List.cons_append, List.mem_cons, List.mem_append, List.not_mem_nil, or_false] at hx
    rcases hx with hx | hx | hx
    · exact .inl hx
    · exact .inr (.inl (hl x hx))
    · exact .inr (.inr hx)
  case state =>
    unfold oldEventsRemoved at hlog
    simp only [activate, hlog, habort, hends, hsubject]
    rw [raise_room (c := headersChanged bk l c) h.room,
      rebuild_newSeason (d := { headersChanged bk l c with link := _ }) h ⟨rfl, rfl⟩ rfl rfl]
    simp only [scannedAhead, cleared, inNewSeason, seasonPlan, headersChanged, push, h.planEmpty]
    rfl

/-- Settles O57: the season is the one that is due, and with the engine at work and an empty plan none of the consequences
finds anything to do. -/
theorem aSeasonIsActivated : Obligations.ASeasonIsActivated := by
  intro s bk now t hc htime hwatch hle hbk hother hrecords hlisted hidle hroom old retires store
  have alone : ActivatesAlone s.ctl bk now :=
    { time := (if_pos hc.running).trans htime, planEmpty := hc.planEmpty, noContext := hc.noContext
      listedIdle := fun p hp => hlisted p.1 p.2 hp, idle := hidle, noRecords := hrecords, room := hroom }
  obtain ⟨l, hl, hlen, hactivate⟩ := activate_alone alone hc.settled
  have hf : activation s.ctl = { inNewSeason bk now s.ctl with agenda := l } := by
    rw [activation, activationDue_standby hc.running htime hwatch hle hbk hother]
    exact hactivate
  have hop : (seasonStore bk s.ctl.store).op.isSome = true := by
    rw [seasonStore_op]
    exact hc.engineTaken
  have hinert : ∀ x ∈ l, Inert x (inNewSeason bk now s.ctl) := by
    intro x hx
    rcases hl x hx with rfl | rfl | rfl
    · exact inert_engine hop
    · exact inert_offerLog hc.planEmpty
    · exact inert_dispatch hc.planEmpty
  exact act_leaves hf hc.settled hinert (inert_columns hc.noContext) (by omega) hc.opsTaken

end Sys2Proof.Proofs
end

section
/-! Start-up (R138, R197, R198, R200): the end of the store check and of the survey, where there is nothing to adopt. -/

namespace Sys2Proof.Proofs
open Sys2Proof.Machine Sys2Proof.Laws

variable {s : State} {c c' : Ctl} {f : PFrame}

/-! ## Nothing kept, nothing to adopt -/

/-- Start-up with nothing of the matrix or of the transmitters to see to: no movement slot kept, no path, no transmitter, no
crosspoint found CLOSED, nobody waiting for a slot, site time INVALID and no retirement to record. -/
structure BareStart (c : Ctl) : Prop where
  urgentEmpty : c.link.urgentWaiters = []
  slots : c.matrix.slots = []
  paths : c.matrix.paths = []
  tx : c.gate.tx = []
  time : c.plan.time = none
  retire : c.start.retire = none
  siteTx : c.site.work.tx = []
  siteAnt : c.site.work.ant = []
  noneClosed : ∀ q ∈ allXps c.site.work, (xpAt c q.1 q.2).state ≠ .closed

theorem surveyRemoved_noSlots (h : c.matrix.slots = []) : surveyRemoved f c = c := by
  unfold surveyRemoved coilNotCleared
  split
  · rw [h]
    rfl
  · rfl

/-- The survey frames not yet sent are all that waits, and with no movement slot kept no CLEAR is offered anew. -/
theorem dropSurveyFrames_all (hslots : c.matrix.slots = []) (hq : ∀ q ∈ c.link.plantQueue, q.frame.origin = .survey)
    (hw : ∀ f ∈ c.link.internalWaiters, f.origin = .survey) : dropSurveyFrames c = pushOnce .slot { c with
      link := { c.link with plantQueue := [], internalWaiters := [] } } := by
  have hqueue : c.link.plantQueue.filter (fun q => !isSurvey q.frame) = [] :=
    List.filter_eq_nil_iff.mpr fun q hmem => by simp [isSurvey, hq q hmem]
  have hwaiters : c.link.internalWaiters.filter (fun f => !isSurvey f) = [] :=
    List.filter_eq_nil_iff.mpr fun f hmem => by simp [isSurvey, hw f hmem]
  rw [dropSurveyFrames]
  simp only [Ctl.onLink, hqueue, hwaiters]
  exact forEach_id _ fun f _ => surveyRemoved_noSlots (by simpa using hslots)

theorem adoptions_none (h : ∀ q ∈ allXps c.site.work, (xpAt c q.1 q.2).state ≠ .closed) : adoptions c = [] := by
  have hclosed : (allXps c.site.work).filter (fun q => decide ((xpAt c q.1 q.2).state = .closed)) = [] :=
    List.filter_eq_nil_iff.mpr fun q hq => by simp [h q hq]
  rw [adoptions, hclosed]
  rfl

theorem beginAdopt_nothing (hpaths : c.matrix.paths = [])
    (h : ∀ q ∈ allXps c.site.work, (xpAt c q.1 q.2).state ≠ .closed) :
    beginAdopt c = push [.adoptCheck] { c with start := { c.start with phase := .adopt } } := by
  have hadopt : adoptions c = [] := adoptions_none h
  simp only [beginAdopt, hadopt, forEach_nil, Ctl.onStart, hpaths, List.map_nil]

/-! ## RUNNING (R200) -/

/-- The NOTICE STARTUP_DONE of the start under way. -/
def startNotice (c : Ctl) : Report := reportNow c .startupDone .none 0 c.start.last.code none none

theorem rebuild_noTime (h : c.plan.time = none) : rebuild c = c := by
  rw [rebuild, actingTime_noTime h]

theorem enterRunning_noTime (htime : c.plan.time = none) (hretire : c.start.retire = none)
    (hr : c.link.reports.length < 32) : enterRunning c = { c with
      link := withReport (startNotice c) c.link
      start := { c.start with phase := .running } } := by
  rw [enterRunning, raise_room (c := c.onStart _) hr]
  simp only [Ctl.onStart, hretire]
  rw [activationDue_noTime (by exact htime)]
  dsimp only
  split
  · exact rebuild_noTime (by exact htime)
  · rfl

theorem adoptCheck_enters (h : BareStart c) (hadopt : c.start.phase = .adopt) (hr : c.link.reports.length < 32) :
    adoptCheck c = { c with
      link := withReport (startNotice c) c.link
      start := { c.start with phase := .running } } := by
  have hcond : c.start.phase = .adopt ∧ c.matrix.paths.all (fun p => decide (p.proof = .none)) = true :=
    ⟨hadopt, by rw [h.paths]; rfl⟩
  rw [adoptCheck, if_pos hcond]
  simp only [h.tx, List.map_nil, forEach_nil]
  exact enterRunning_noTime h.time h.retire hr

/-- What is due when a survey has ended: the freed slots find nobody waiting, and start-up, with nothing to adopt, reaches
RUNNING. -/
theorem settle_adopts (h : BareStart c) (hadopt : c.start.phase = .adopt) (hw : c.link.internalWaiters = [])
    (hr : c.link.reports.length < 32) (fuel : Nat) : settle (fuel + 2) { c with agenda := [.slot, .adoptCheck] } =
      { c with
        agenda := []
        link := withReport (startNotice c) c.link
        start := { c.start with phase := .running } } := by
  have hslot : handle .slot { c with agenda := [.adoptCheck] } = { c with agenda := [.adoptCheck] } :=
    inert_slot h.urgentEmpty hw _
  have henter : handle .adoptCheck { c with agenda := [] } = { c with
      agenda := [], link := withReport (startNotice c) c.link, start := { c.start with phase := .running } } :=
    adoptCheck_enters (c := { c with agenda := [] }) ⟨h.urgentEmpty, h.slots, h.paths, h.tx, h.time, h.retire, h.siteTx,
      h.siteAnt, h.noneClosed⟩ hadopt hr
  rw [settle_cons, hslot, noteColumns_of (by rfl) (by rfl), settle_cons, henter, noteColumns_of (by rfl) (by rfl),
    settle_nil rfl]

/-! ## The end of the survey (R197) -/

/-- The Link Interface with no survey frame waiting. -/
def withoutSurvey (k : Link) : Link := { k with plantQueue := [], internalWaiters := [] }

/-- The Link Interface once a station that the survey has questioned is judged: one neither heard nor silent before falls silent,
with its alarm (R32, R197). -/
def judgedStation (a : Nat) (c : Ctl) : Link :=
  if a ∈ c.start.heard ∨ a ∈ c.link.silent then c.link
  else withReport (reportNow c .stationNoAnswer (.station a) 0 0 none none) { c.link with silent := nins a c.link.silent }

theorem judgedStation_keeps (a : Nat) (c : Ctl) : (judgedStation a c).urgentWaiters = c.link.urgentWaiters ∧
    (judgedStation a c).internalWaiters = c.link.internalWaiters ∧ (judgedStation a c).opsTx = c.link.opsTx ∧
    (judgedStation a c).opsHeldOff = c.link.opsHeldOff ∧
    (judgedStation a c).reports.length ≤ c.link.reports.length + 1 := by
  unfold judgedStation
  split
  · exact ⟨rfl, rfl, rfl, rfl, Nat.le_succ _⟩
  · exact ⟨rfl, rfl, rfl, rfl, by simp [withReport]⟩

/-- Of the stations questioned, those not heard fall silent. -/
def silenceUnheard (c : Ctl) : Ctl :=
  forEach ((surveyed c.site.work).filter (fun a => !decide (a ∈ c.start.heard))) stationSilent c

theorem silenceUnheard_one {a : Nat} (h : surveyed c.site.work = [a]) (hr : c.link.reports.length < 32) :
    silenceUnheard c = { c with link := judgedStation a c } := by
  rw [silenceUnheard, h, judgedStation]
  by_cases hheard : a ∈ c.start.heard
  · have hnone : [a].filter (fun a => !decide (a ∈ c.start.heard)) = [] := by simp [hheard]
    rw [hnone, if_pos (.inl hheard), forEach_nil]
  · have hone : [a].filter (fun a => !decide (a ∈ c.start.heard)) = [a] := by simp [hheard]
    rw [hone, forEach_cons, forEach_nil, stationSilent]
    by_cases hsilent : a ∈ c.link.silent
    · rw [if_pos hsilent, if_pos (.inr hsilent)]
    · rw [if_neg hsilent, if_neg (not_or.mpr ⟨hheard, hsilent⟩)]
      exact raise_room hr

theorem silenceUnheard_nobody (h : surveyed c.site.work = []) : silenceUnheard c = c := by
  rw [silenceUnheard, h]
  rfl

theorem surveyed_matrixOnly (h : BareStart c) : surveyed c.site.work = (matrixStation c.site.work).toList := by
  rw [surveyed, surveyQueries, h.siteTx, h.siteAnt]
  rfl

/-- The survey ends with nothing to adopt: what it leaves of the Link Interface is what judging the stations makes of it. -/
theorem endSurvey_bare {k : Link} (h : BareStart c) (ha : c.agenda = [])
    (hq : ∀ q ∈ c.link.plantQueue, q.frame.origin = .survey) (hw : ∀ f ∈ c.link.internalWaiters, f.origin = .survey)
    (hk : silenceUnheard { c with agenda := [.slot], link := withoutSurvey c.link } =
      { c with agenda := [.slot], link := k }) :
    endSurvey c = { c with agenda := [.slot, .adoptCheck], link := k, start := { c.start with phase := .adopt } } := by
  have hdrop : dropSurveyFrames c = { c with agenda := [.slot], link := withoutSurvey c.link } := by
    rw [dropSurveyFrames_all h.slots hq hw, pushOnce_new (by simp [ha])]
    simp only [ha, List.nil_append]
    rfl
  unfold silenceUnheard at hk
  simp only [endSurvey, hdrop, hk]
  rw [beginAdopt_nothing (by exact h.paths) (by exact h.noneClosed)]
  rfl

/-! ## The store check on an erased store (R138) -/

theorem scanBank_blank : scanBank BankRec.blank = BankRec.blank := by decide

theorem standbyEpoch_blank (ha : c.store.bankA = .blank) (hb : c.store.bankB = .blank) : standbyEpoch c = none := by
  simp [standbyEpoch, bankRec, Store.bank, ha, hb, BankRec.blank, Header.blank]

theorem storeScan_blank (ha : c.store.bankA = .blank) (hb : c.store.bankB = .blank) (hretire : c.start.retire = none) :
    storeScan c = { c with store := { c.store with checked := true }, plan := { c.plan with watch := none } } := by
  have hscanA : scanBank c.store.bankA = c.store.bankA := by rw [ha, scanBank_blank]
  have hscanB : scanBank c.store.bankB = c.store.bankB := by rw [hb, scanBank_blank]
  have hscan : modBank .b scanBank (modBank .a scanBank c) = c := by
    simp only [modBank, Ctl.onStore, hscanA, hscanB]
  have hstale : staleBank c = none := by
    rw [staleBank, if_neg]
    simp [bankRec, Store.bank, ha, BankRec.blank, Header.blank]
  have hstart : { c.start with retire := none } = c.start := by rw [← hretire]
  simp only [storeScan, hscan, hstale, hstart]
  rw [standbyEpoch_blank (by exact ha) (by exact hb)]
  rfl

/-- With no station to question, the survey has nothing to send. -/
theorem beginSurvey_nobody (hslots : c.matrix.slots = []) (htx : c.site.work.tx = []) (hant : c.site.work.ant = [])
    (hgeometry : c.site.work.site.geometry = none) : beginSurvey c = push [.surveyCheck] { c with
      start := { c.start with phase := .survey, surveyAt := c.clock, heard := [] } } := by
  have hqueries : surveyQueries c.site.work = [] := by rw [surveyQueries, htx, hant]; rfl
  simp only [beginSurvey, Ctl.onStart, hgeometry, hqueries, hslots, forEach_nil]

/-! ## Steps that reach RUNNING (R200) -/

/-- A step in which the survey ends, at once or as a consequence, with nothing to adopt: start-up reaches RUNNING. -/
theorem act_reachesRunning {g : Ctl → Ctl} {n : Nat} (h : BareStart c) (ha : c.agenda = []) (hadopt : c.start.phase = .adopt)
    (hw : c.link.internalWaiters = []) (hr : c.link.reports.length < 32)
    (ho : (c.link.opsTx.isSome || c.link.opsHeldOff) = true)
    (hsame : (g s.ctl).matrix.paths = s.ctl.matrix.paths ∧ (g s.ctl).gate.tx = s.ctl.gate.tx)
    (hsettle : settle settleLimit (g s.ctl) = settle (n + 2) { c with agenda := [.slot, .adoptCheck] }) :
    act g s = .next { s with ctl := { c with
      link := withReport (startNotice c) c.link
      start := { c.start with phase := .running } } } := by
  rw [act_unnoted hsame.1 hsame.2, finish, hsettle, settle_adopts h hadopt hw hr, opsChoose_taken (by exact ho), ← ha]

/-- With no frame anywhere the survey is over as soon as it is looked at. -/
theorem surveyCheck_nothing (hphase : c.start.phase = .survey) (hq : c.link.plantQueue = []) (htable : c.link.table = [])
    (hu : c.link.urgentWaiters = []) (hw : c.link.internalWaiters = []) : surveyCheck c = endSurvey c := by
  have hpending : framePending c.link isSurvey = false := by
    simp [framePending, queuedOrWaiting, hq, htable, hu, hw]
  simp [surveyCheck, hphase, hpending]

/-- The controller once the store check has found an erased store and the survey has begun. -/
def surveyBegun (c : Ctl) : Ctl := { c with
  store := { c.store with checked := true }
  plan := { c.plan with watch := none }
  start := { c.start with phase := .survey, surveyAt := c.clock, heard := [] } }

theorem storeCheckEnd_erased (h : BareStart c) (ha : c.agenda = []) (hphase : c.start.phase = .storeCheck)
    (hgeometry : c.site.work.site.geometry = none) (hbankA : c.store.bankA = .blank) (hbankB : c.store.bankB = .blank) :
    storeCheckEnd c = { surveyBegun c with agenda := [.surveyCheck] } := by
  rw [storeCheckEnd, if_pos hphase, storeScan_blank hbankA hbankB h.retire,
    beginSurvey_nobody (by exact h.slots) (by exact h.siteTx) (by exact h.siteAnt) (by exact hgeometry), push]
  simp only [surveyBegun, ha, List.nil_append]

/-- The controller in ADOPT, with its Link Interface as the survey leaves it. -/
def surveyOver (k : Link) (c : Ctl) : Ctl := { c with link := k, start := { c.start with phase := .adopt } }

theorem bareStart_surveyOver {k : Link} (h : BareStart c) (hu : k.urgentWaiters = []) : BareStart (surveyOver k c) :=
  ⟨hu, h.slots, h.paths, h.tx, h.time, h.retire, h.siteTx, h.siteAnt, h.noneClosed⟩

theorem bareStart_surveyBegun (h : BareStart c) : BareStart (surveyBegun c) :=
  ⟨h.urgentEmpty, h.slots, h.paths, h.tx, h.time, h.retire, h.siteTx, h.siteAnt, h.noneClosed⟩

theorem bareStart_clockReaches {t : Millis} (h : BareStart c) : BareStart (clockReaches t c) :=
  ⟨h.urgentEmpty, h.slots, h.paths, h.tx, h.time, h.retire, h.siteTx, h.siteAnt, h.noneClosed⟩

/-- A survey that questions nobody is over at its first look, and leaves the Link Interface as it is. -/
theorem surveyCheck_nobody (h : BareStart c) (ha : c.agenda = []) (hphase : c.start.phase = .survey)
    (hgeometry : c.site.work.site.geometry = none) (hq : c.link.plantQueue = []) (htable : c.link.table = [])
    (hw : c.link.internalWaiters = []) :
    surveyCheck c = { surveyOver c.link c with agenda := [.slot, .adoptCheck] } := by
  have hnobody : surveyed c.site.work = [] := by
    rw [surveyed_matrixOnly h, matrixStation, hgeometry]
    rfl
  have hlink : withoutSurvey c.link = c.link := by rw [withoutSurvey, ← hq, ← hw]
  have hsilence : silenceUnheard { c with agenda := [.slot], link := withoutSurvey c.link } =
      { c with agenda := [.slot], link := c.link } := by
    rw [silenceUnheard_nobody (by exact hnobody), hlink]
  rw [surveyCheck_nothing hphase hq htable h.urgentEmpty hw,
    endSurvey_bare h ha (by simp [hq]) (by simp [hw]) hsilence]
  rfl

/-- The Link Interface after a survey that questioned the matrix station alone has run out. -/
def expiredLink (station : Nat) (c : Ctl) : Link := judgedStation station { c with link := withoutSurvey c.link }

theorem surveyTimeout_matrixOnly {g : Geometry} (h : BareStart c) (ha : c.agenda = []) (hphase : c.start.phase = .survey)
    (hgeometry : c.site.work.site.geometry = some g) (hq : ∀ q ∈ c.link.plantQueue, q.frame.origin = .survey)
    (hw : ∀ f ∈ c.link.internalWaiters, f.origin = .survey) (hr : c.link.reports.length < 32) :
    surveyTimeout c = { surveyOver (expiredLink g.station c) (clockReaches (c.start.surveyAt + 10000) c) with
      agenda := [.slot, .adoptCheck] } := by
  have hone : surveyed c.site.work = [g.station] := by
    rw [surveyed_matrixOnly h, matrixStation, hgeometry]
    rfl
  have hsilence := silenceUnheard_one (c := { clockReaches (c.start.surveyAt + 10000) c with
    agenda := [.slot], link := withoutSurvey c.link }) hone hr
  have hends : surveyTimeout c = endSurvey (clockReaches (c.start.surveyAt + 10000) c) := if_pos hphase
  rw [hends, endSurvey_bare (bareStart_clockReaches h) ha hq hw hsilence]
  rfl

/-- Settles O60. Both steps end the survey: the one that runs out itself, and the store check's in its first consequence, since
there is nobody to question. -/
theorem startUpReachesRunning : Obligations.StartUpReachesRunning := by
  intro s hs hurgent hslots hpaths hmoves htx htime hretire hsiteTx hsiteAnt hreports done
  have bare (hclosed : ∀ q ∈ allXps s.ctl.site.work, (xpAt s.ctl q.1 q.2).state ≠ .closed) : BareStart s.ctl :=
    ⟨hurgent, hslots, hpaths, htx, htime, hretire, hsiteTx, hsiteAnt, hclosed⟩
  refine ⟨?storeCheck, ?survey⟩
  case storeCheck =>
    intro hphase hgeometry hbankA hbankB hqueue htable hwaiters hxps
    have h : BareStart s.ctl := bare (by simp [allXps, hgeometry])
    have hf := storeCheckEnd_erased h hs.settled hphase hgeometry hbankA hbankB
    have hlook : handle .surveyCheck { surveyBegun s.ctl with agenda := [] } =
        { surveyOver s.ctl.link (surveyBegun s.ctl) with agenda := [.slot, .adoptCheck] } := by
      have hempty : ({ surveyBegun s.ctl with agenda := [] } : Ctl) = surveyBegun s.ctl := by
        rw [← hs.settled]
        rfl
      rw [hempty]
      exact surveyCheck_nobody (bareStart_surveyBegun h) hs.settled rfl hgeometry hqueue htable hwaiters
    have hsettle : settle (16383 + 1) (storeCheckEnd s.ctl) =
        settle (16381 + 2) { surveyOver s.ctl.link (surveyBegun s.ctl) with agenda := [.slot, .adoptCheck] } := by
      rw [hf, settle_cons, hlook, noteColumns_of (by rfl) (by rfl)]
    exact act_reachesRunning (bareStart_surveyOver (bareStart_surveyBegun h) hurgent) hs.settled rfl hwaiters
      (Nat.lt_succ_of_lt hreports) hs.opsTaken (by rw [hf]; exact ⟨rfl, rfl⟩) hsettle
  case survey =>
    intro g hphase hgeometry hqueue hwaiters hpending hclosed emptied
    have h : BareStart s.ctl := bare hclosed
    have hf := surveyTimeout_matrixOnly h hs.settled hphase hgeometry hqueue hwaiters (Nat.lt_succ_of_lt hreports)
    obtain ⟨hu, hw, hsends, hheld, hroom⟩ :=
      judgedStation_keeps g.station { s.ctl with link := withoutSurvey s.ctl.link }
    refine act_reachesRunning (n := 16382)
      (bareStart_surveyOver (k := expiredLink g.station s.ctl) (bareStart_clockReaches h) (hu.trans hurgent)) hs.settled rfl hw
      (Nat.lt_of_le_of_lt hroom (Nat.succ_lt_succ hreports)) ?sends (by rw [hf]; exact ⟨rfl, rfl⟩) (by rw [hf]; rfl)
    case sends =>
      show ((expiredLink g.station s.ctl).opsTx.isSome || (expiredLink g.station s.ctl).opsHeldOff) = true
      rw [expiredLink, hsends, hheld]
      exact hs.opsTaken

end Sys2Proof.Proofs
end

section
/-! LOAD frames at the Load Intake: what refuses them, the burst that an OPEN opens, the close that a burst keeps until it is
judged, and the records that a DATA brings (R141 to R143, R146, R150). -/

namespace Sys2Proof.Proofs
open Sys2Proof.Machine Sys2Proof.Laws

variable {s : State} {o : OwnOrder} {c : Ctl} {bk : Bank} {l : Load} {v free : Nat} {now : Millis} {p : List Byte}
  {r : Reason}

/-! ## Where LOAD frames go -/

theorem takes_loadOpen (h : Takes c o.src o.tag o.payload) :
    opsFrameEnds (loadFrame 1 o) c = loadOpen o (reserve c) := takes_loadFrame h

theorem takes_loadData (h : Takes c o.src o.tag o.payload) :
    opsFrameEnds (loadFrame 2 o) c = loadData o (reserve c) := takes_loadFrame h

theorem takes_loadClose (h : Takes c o.src o.tag o.payload) :
    opsFrameEnds (loadFrame 3 o) c = loadClose o (reserve c) := takes_loadFrame h

theorem takes_loadBadSubverb (h : Takes c o.src o.tag o.payload) (h1 : v ≠ 1) (h2 : v ≠ 2) (h3 : v ≠ 3) :
    opsFrameEnds (loadFrame v o) c = loadBadSubverb v o (reserve c) := by
  rw [takes_loadFrame h]
  unfold routeOwn loadFrame
  dsimp only
  split
  · exact absurd rfl h1
  · exact absurd rfl h2
  · exact absurd rfl h3
  · rfl

/-- A frame to the controller that its owner refuses, whatever its kind. -/
theorem act_refuses {f : Ctl → Ctl} {d : List Byte} (hs : Still s.ctl)
    (hf : f s.ctl = refuseOrder o v r d (reserve s.ctl)) :
    act f s = .next { s with ctl := { s.ctl with link := answered o v 3 r.code d s.ctl.link } } :=
  act_answers hs (hf.trans (refuseOrder_reserve ..))

/-- A step that columns are not judged by, and that leaves only consequences that find nothing to do, ends as its command
left it. -/
theorem act_leaves_unnoted {f : Ctl → Ctl} {l : List Signal} (hf : f s.ctl = { c with agenda := l }) (ha : c.agenda = [])
    (hp : c.matrix.paths = s.ctl.matrix.paths) (ht : c.gate.tx = s.ctl.gate.tx) (hi : ∀ x ∈ l, Inert x c)
    (hl : l.length ≤ 16384) (ho : (c.link.opsTx.isSome || c.link.opsHeldOff) = true) :
    act f s = .next { s with ctl := c } := by
  have step := act_unnoted_inert hf hp ht hi hl ho
  have hempty : ({ c with agenda := [] } : Ctl) = c := by rw [← ha]
  rwa [← hempty]

/-- Settles O42: the sub-verb sends the frame to its refusal, and a LOAD frame to another address is not taken. -/
theorem loadBadSubverbIsRefused : Obligations.LoadBadSubverbIsRefused :=
  ⟨fun _ _ _ hs ht h1 h2 h3 => act_refuses hs (takes_loadBadSubverb ht h1 h2 h3),
    fun _ _ _ hs hf hk hd => act_unchanged hs (opsOctets_discards hf (by simp [hk, hd]) _)⟩

/-! ## LOAD OPEN (R141) -/

theorem orderBank_length {rest : List Byte} (h : orderBank p = some (bk, rest)) : p.length = rest.length + 1 := by
  cases p with
  | nil => simp [orderBank] at h
  | cons b tail =>
    obtain ⟨-, rfl⟩ : bankOfCode b.toNat = some bk ∧ tail = rest := by simpa [orderBank] using h
    rfl

theorem loadOpen_badLength (hrun : c.start.phase = .running) (hl : o.payload.length ≠ 3) :
    loadOpen o c = refuseOrder o 1 .badRecord (u8 0) c := by
  rw [loadOpen, if_neg (not_not.mpr hrun)]
  split
  · exact absurd (orderBank_length ‹_›) hl
  · rfl

theorem loadOpen_noBank (hrun : c.start.phase = .running) (hb : orderBank o.payload = none) :
    loadOpen o c = refuseOrder o 1 .badRecord (u8 0) c := by
  rw [loadOpen, if_neg (not_not.mpr hrun), hb]

/-- The tests of LOAD OPEN, one after the other. -/
theorem openTests_eq : openTests c bk =
    if c.store.openBank ≠ some bk then some .notOpen
    else if (bankRec c bk).header.state ≠ .filling then some .isProtected
    else if (bankRec c bk).fault = true then some .storeFault
    else if c.load.state ≠ .none then some .burstActive
    else if 16 ≤ (bankRec c bk).header.commits.length ∨ 255 ≤ (bankRec c bk).highest then some .commitsFull
    else none := by
  unfold openTests writeTests Load.isOpen
  split_ifs <;> simp_all

section Open
variable {b n1 n2 : Byte} (hrun : c.start.phase = .running) (hb : o.payload = [b, n1, n2])
  (hbk : bankOfCode b.toNat = some bk)
include hrun hb hbk

theorem loadOpen_badCount (hn : ¬ (1 ≤ rd2 n1 n2 ∧ rd2 n1 n2 ≤ 2048)) :
    loadOpen o c = refuseOrder o 1 .badRecord (u8 0) c := by
  rw [loadOpen, if_neg (not_not.mpr hrun), orderBank_cons hb, hbk]
  exact if_neg hn

theorem loadOpen_failed (hn : 1 ≤ rd2 n1 n2 ∧ rd2 n1 n2 ≤ 2048) (ht : openTests c bk = some r) :
    loadOpen o c = refuseOrder o 1 r [] c := by
  simp [loadOpen, hrun, orderBank_cons hb, hbk, hn, ht]

theorem loadOpen_opens (hn : 1 ≤ rd2 n1 n2 ∧ rd2 n1 n2 ≤ 2048) (ht : openTests c bk = none) :
    loadOpen o (reserve c) = { c with
      link := answered o 1 1 0 (u8 ((bankRec c bk).highest + 1)) c.link
      store := withBank bk (fun r => { r with highest := r.highest + 1 }) c.store
      load := openedBurst bk ((bankRec c bk).highest + 1) (orderRef o) (rd2 n1 n2) c.clock } := by
  have hrun : ¬ (reserve c).start.phase ≠ .running := not_not.mpr hrun
  have ht : openTests (reserve c) bk = none := ht
  have hnumber : withBank bk (fun r => { r with highest := (bankRec (reserve c) bk).highest + 1 }) c.store =
      withBank bk (fun r => { r with highest := r.highest + 1 }) c.store := withBank_congr rfl
  rw [loadOpen, if_neg hrun, orderBank_cons hb, hbk]
  simp only [Option.map_some, if_pos hn, ht, answerDone_reserve, modBank_eq, hnumber]
  rfl

end Open

/-- Settles O39: the payload is judged first, and then the bank by the tests in their order. -/
theorem loadOpensABurst : Obligations.LoadOpensABurst := by
  intro o s hs ht hrun refused
  have hrun' : (reserve s.ctl).start.phase = .running := hrun
  have badRecord (h : loadOpen o (reserve s.ctl) = refuseOrder o 1 .badRecord (u8 0) (reserve s.ctl)) :
      exec (.loadOpen o) s = refused 20 [0#8] := act_refuses hs ((takes_loadOpen ht).trans h)
  refine ⟨fun hl => badRecord (loadOpen_badLength hrun' hl), fun b n1 n2 hb => ⟨fun h1 h2 => ?noBank, fun bk hbk => ?bank⟩⟩
  case noBank =>
    refine badRecord (loadOpen_noBank hrun' ?_)
    rw [orderBank_cons hb, bankOfCode_other h1 h2]
    rfl
  case bank =>
    intro _
    by_cases hn : 1 ≤ rd2 n1 n2 ∧ rd2 n1 n2 ≤ 2048
    case neg =>
      rw [if_pos (by omega)]
      exact badRecord (loadOpen_badCount hrun' hb hbk hn)
    have failed (r : Reason) (h : openTests s.ctl bk = some r) : exec (.loadOpen o) s = refused r.code [] :=
      loadOpen_refused hs ht (loadOpen_failed hrun' hb hbk hn h)
    have tests := openTests_eq (c := s.ctl) (bk := bk)
    rw [if_neg (by omega)]
    split_ifs at tests ⊢
    · exact failed .notOpen tests
    · exact failed .isProtected tests
    · exact failed .storeFault tests
    · exact failed .burstActive tests
    · exact failed .commitsFull tests
    · exact act_settled ((takes_loadOpen ht).trans (loadOpen_opens hrun hb hbk hn tests)) rfl rfl hs.settled hs.opsTaken

/-! ## LOAD CLOSE (R146) -/

theorem loadClose_badLength (hl : o.payload.length ≠ 4) : loadClose o c = refuseOrder o 3 .badRecord (u8 0) c := by
  unfold loadClose
  split
  · next hb => exact absurd (by rw [hb]; rfl) hl
  · rfl

section Close
variable {n1 n2 k1 k2 : Byte} (hb : o.payload = [n1, n2, k1, k2])
include hb

theorem loadClose_noBurst (h : c.load.state = .none) : loadClose o c = refuseOrder o 3 .notOpen [] c := by
  simp only [loadClose, hb, h]

theorem loadClose_closing (h : c.load.state = .closing) : loadClose o c = refuseOrder o 3 .burstActive [] c := by
  simp only [loadClose, hb, h]

theorem loadClose_stranger (h : c.load.state = .open_) (hsrc : o.src ≠ c.load.opener.station) :
    loadClose o c = refuseOrder o 3 .burstActive [] c := by
  simp only [loadClose, hb, h, if_neg hsrc]

theorem loadClose_taken (ha : c.agenda = []) (h : c.load.state = .open_) (hsrc : o.src = c.load.opener.station) :
    loadClose o c = { c with
      agenda := [.intake]
      load := { c.load with
        state := .closing, idleFrom := none
        close := some { station := o.src, tag := o.tag, count := rd2 n1 n2, check := k1 ++ k2 } } } := by
  simp only [loadClose, hb, h, if_pos hsrc]
  rw [pushOnce_new (by simp [ha])]
  simp [ha, Ctl.onLoad]

end Close

/-- A burst whose slot write is in hand takes no further record from its buffer, and is not judged yet. -/
theorem inert_intake_queued (h : c.load.hand = .queued) : Inert .intake c := by
  intro l
  cases hstate : c.load.state <;> simp [handle, intake, h, hstate]

/-- Settles O41: a close that is taken keeps its place, and with a slot write in hand the burst is not judged yet. -/
theorem loadCloseIsTaken : Obligations.LoadCloseIsTaken := by
  intro o s hs ht refused
  have refuses {r : Reason} {d : List Byte} (h : loadClose o (reserve s.ctl) = refuseOrder o 3 r d (reserve s.ctl)) :
      exec (.loadClose o) s = refused r.code d := act_refuses hs ((takes_loadClose ht).trans h)
  refine ⟨fun hl => refuses (loadClose_badLength hl), fun n1 n2 k1 k2 hb => ⟨fun h => refuses (loadClose_noBurst hb h),
    fun h => refuses (loadClose_closing hb h), fun h hsrc => refuses (loadClose_stranger hb h hsrc),
    fun h hsrc hhand => ?taken⟩⟩
  case taken =>
    have hf := (takes_loadClose ht).trans (loadClose_taken (c := reserve s.ctl) hb hs.settled h hsrc)
    exact act_leaves_unnoted hf hs.settled rfl rfl
      (fun x hx => by rw [List.mem_singleton.mp hx]; exact inert_intake_queued hhand) (by simp) hs.opsTaken

/-! ## LOAD DATA (R142, R143) -/

/-- The burst with a record counted, fed into the running check, and its idle timer, if it runs, started again. -/
def countedBurst (now : Millis) (free : Nat) (p : List Byte) (l : Load) : Load :=
  { l with
    received := countReceived free l.received, check := crcFrom l.check p, idleFrom := l.idleFrom.map (fun _ => now) }

theorem keepError_eq {n k : Nat} : l.keepError r n k =
    if l.firstError = none then { l with firstError := some { reason := r, ordinal := n, check := k } } else l := by
  unfold Load.keepError
  cases l.firstError <;> rfl

theorem takeRecord_badLength (h : p.length ≠ 22) : takeRecord now free p l =
    (countedBurst now free p l).keepError .badRecord (countReceived free l.received) 0 := if_pos h

theorem takeRecord_overrun (h : p.length = 22) (hfull : 8 ≤ l.buffer.length) : takeRecord now free p l =
    (countedBurst now free p l).keepError .overrun (countReceived free l.received) 0 :=
  (if_neg (not_not.mpr h)).trans (if_pos hfull)

theorem takeRecord_buffers (h : p.length = 22) (hroom : l.buffer.length < 8) : takeRecord now free p l =
    { countedBurst now free p l with buffer := l.buffer ++ [(countReceived free l.received, p)] }.levelFlow now :=
  (if_neg (not_not.mpr h)).trans (if_neg (Nat.not_le.mpr hroom))

theorem levelFlow_pauses (hp : l.paused = false) (h : 5 ≤ l.buffer.length) : l.levelFlow now =
    { l with paused := true, flow := if l.told then none else some .pause, idleFrom := none } :=
  if_pos (by simp [hp, h])

theorem levelFlow_runs (hp : l.paused = false) (h : l.buffer.length < 5) : l.levelFlow now = l := by
  simp [Load.levelFlow, hp, h]

theorem levelFlow_staysPaused (hp : l.paused = true) (h : 2 < l.buffer.length) : l.levelFlow now = l := by
  simp [Load.levelFlow, hp, h]

@[simp] theorem keepError_hand (n k : Nat) : (l.keepError r n k).hand = l.hand := by
  unfold Load.keepError; split <;> rfl

@[simp] theorem levelFlow_hand : (l.levelFlow now).hand = l.hand := by
  unfold Load.levelFlow; split
  · rfl
  · split <;> rfl

theorem takeRecord_hand : (takeRecord now free p l).hand = l.hand := by
  by_cases h : p.length = 22
  case neg => rw [takeRecord_badLength h, keepError_hand]; rfl
  by_cases hfull : 8 ≤ l.buffer.length
  · rw [takeRecord_overrun h hfull, keepError_hand]; rfl
  · rw [takeRecord_buffers h (Nat.not_le.mp hfull), levelFlow_hand]; rfl

/-- A place that a frame has reserved and that is released at once leaves only a look at the frames that wait for one. -/
theorem releasePlace_reserve (ha : c.agenda = []) : releasePlace (reserve c) = { c with agenda := [.opsTake] } := by
  rw [releasePlace, pushOnce_new (by simp [reserve, ha])]
  simp [reserve, Ctl.onLink, ha]

theorem loadData_ignored (ha : c.agenda = []) (h : c.load.state ≠ .open_ ∨ o.src ≠ c.load.opener.station) :
    loadData o (reserve c) = { c with agenda := [.opsTake] } := by
  rw [loadData, releasePlace_reserve ha]
  exact if_neg (by tauto)

theorem loadData_taken (ha : c.agenda = []) (hopen : c.load.state = .open_) (hsrc : o.src = c.load.opener.station) :
    loadData o (reserve c) = { c with
      agenda := [.opsTake, .intake], free := c.free + 1, load := takeRecord c.clock c.free o.payload c.load } := by
  rw [loadData, releasePlace_reserve ha]
  exact (if_pos ⟨hopen, hsrc⟩).trans (pushOnce_new (by simp))

/-- A DATA that the Load Intake does not take is discarded, and its place released. -/
theorem loadData_unchanged (hs : Still s.ctl) (ht : Takes s.ctl o.src o.tag o.payload)
    (h : s.ctl.load.state ≠ .open_ ∨ o.src ≠ s.ctl.load.opener.station) : exec (.loadData o) s = .next s :=
  act_leaves_unnoted ((takes_loadData ht).trans (loadData_ignored hs.settled h)) hs.settled rfl rfl
    (fun x hx => by rw [List.mem_singleton.mp hx]; exact inert_opsTake ht.first) (by simp) hs.opsTaken

/-- A DATA of the opener becomes a record of its burst, and with a slot write in hand that is all. -/
theorem loadData_takes (hs : Still s.ctl) (ht : Takes s.ctl o.src o.tag o.payload) (hopen : s.ctl.load.state = .open_)
    (hsrc : o.src = s.ctl.load.opener.station) (hhand : s.ctl.load.hand = .queued) :
    exec (.loadData o) s = .next { s with ctl := { s.ctl with
      free := s.ctl.free + 1, load := takeRecord s.ctl.clock s.ctl.free o.payload s.ctl.load } } := by
  refine act_leaves_unnoted ((takes_loadData ht).trans (loadData_taken hs.settled hopen hsrc)) hs.settled rfl rfl ?_
    (by simp) hs.opsTaken
  simp only [List.forall_mem_cons, List.not_mem_nil, false_imp_iff, implies_true, and_true]
  exact ⟨inert_opsTake ht.first, inert_intake_queued (takeRecord_hand.trans hhand)⟩

/-- Settles O40: a DATA changes the burst as its record is taken, which goes by its length, the room in the buffer and the
flow state. -/
theorem loadDataIsCountedAndBuffered : Obligations.LoadDataIsCountedAndBuffered := by
  intro o s hs ht
  refine ⟨loadData_unchanged hs ht, fun hopen hsrc hhand => ?_⟩
  intro l n counted becomes failed held
  have taken {l' : Load} (h : takeRecord s.ctl.clock s.ctl.free o.payload l = l') : exec (.loadData o) s = becomes l' := by
    rw [loadData_takes hs ht hopen hsrc hhand, h]
  have keeps (r : Reason) (h : takeRecord s.ctl.clock s.ctl.free o.payload l =
      (countedBurst s.ctl.clock s.ctl.free o.payload l).keepError r (countReceived s.ctl.free l.received) 0) :
      exec (.loadData o) s = failed r := taken (h.trans keepError_eq)
  refine ⟨countReceived_le _ _, fun hlen => keeps .badRecord (takeRecord_badLength hlen),
    fun hlen hfull => keeps .overrun (takeRecord_overrun hlen hfull), fun hlen hroom => ?buffers⟩
  case buffers =>
    have hheld : held.length = l.buffer.length + 1 := List.length_append
    have buffers {l' : Load} (h : Load.levelFlow s.ctl.clock { counted with buffer := held } = l') :
        exec (.loadData o) s = becomes l' := taken ((takeRecord_buffers hlen hroom).trans h)
    exact ⟨fun hp hb => buffers (levelFlow_runs hp (show held.length < 5 by omega)),
      fun hp hb => buffers (levelFlow_pauses hp (show 5 ≤ held.length by omega)),
      fun hp hb => buffers (levelFlow_staysPaused hp (show 2 < held.length by omega))⟩

end Sys2Proof.Proofs
end

section
/-! HOLD_LEVEL (R159, R162), with a plan of which no event is due: no START that loses its mark is taken, and none that gains it
has an END to give back. -/

namespace Sys2Proof.Proofs
open Sys2Proof.Machine Sys2Proof.Laws

variable {s : State} {o : OwnOrder} {c : Ctl} {now : SiteTime} {v : Event} {level : Nat}

/-! ## Events that are not due (R163) -/

/-- No event of the plan is due, whatever the site time is. -/
def NoneDue (c : Ctl) : Prop := ∀ now, c.plan.time = some now → ∀ v ∈ c.plan.events, now < v.begin_

theorem time_of_actingTime (h : actingTime c = some now) : c.plan.time = some now := by
  unfold actingTime at h
  split at h
  · exact h
  · cases h

theorem tryTake_notDue (h : ∀ now, c.plan.time = some now → now < v.begin_) : tryTake v c = c := by
  unfold tryTake
  cases htime : actingTime c with
  | none => rfl
  | some now => exact if_pos (.inr (.inl (h now (time_of_actingTime htime))))

theorem offerEvent_noneDue (h : NoneDue c) (p : Event → Bool) (v : Event) : offerEvent p v c = c := by
  unfold offerEvent
  cases hw : eventOf c v.kind v.occ with
  | none => rfl
  | some w =>
    have htake : tryTake w c = c := tryTake_notDue fun now htime => h now htime w (List.mem_of_find?_eq_some hw)
    simp only [htake, ite_self]

theorem inert_dispatch_noneDue (h : NoneDue c) : Inert .dispatch c :=
  fun l => forEach_id _ fun v _ => offerEvent_noneDue (c := { c with agenda := l }) h _ v

/-! ## The flag MASKED (R162) -/

theorem remask_finish (hkind : v.kind = .finish) (hmask : v.masked = false) : remask level v = v := by
  have hnew : newlyMasked level v = false := by simp [newlyMasked, hkind]
  simp only [remask, hnew, Bool.false_eq_true, if_false]
  split
  · rw [← hmask]
  · rfl

theorem remask_start (hkind : v.kind = .start) (habs : v.absorbed = none) :
    remask level v = { v with masked := decide (v.priority < level) } := by
  by_cases hlow : v.priority < level
  · have hnew : newlyMasked level v = !v.masked := by simp [newlyMasked, hkind, hlow]
    cases hm : v.masked
    · simp only [remask, hnew, hm, Bool.not_false, if_true, hlow, decide_true]
      rw [← habs]
    · simp only [remask, hnew, hm, Bool.not_true, Bool.false_eq_true, if_false, if_neg (Nat.not_le.mpr hlow), hlow,
        decide_true]
      rw [← hm]
  · have hnew : newlyMasked level v = false := by simp [newlyMasked, hlow]
    simp only [remask, hnew, Bool.false_eq_true, if_false, if_pos (Nat.le_of_not_lt hlow), hlow, decide_false]

theorem remask_begin (level : Nat) (v : Event) : (remask level v).begin_ = v.begin_ := by
  unfold remask
  repeat' split
  all_goals rfl

/-- The plan under another hold level. -/
def relevelled (level : Nat) (c : Ctl) : Ctl :=
  { c with plan := { c.plan with holdLevel := level, events := c.plan.events.map (remask level) } }

theorem noneDue_relevelled (h : NoneDue c) : NoneDue (relevelled level c) := by
  intro now htime v hv
  obtain ⟨w, hw, rfl⟩ := List.mem_map.mp hv
  rw [remask_begin]
  exact h now htime w hw

/-- A new level changes the flags alone where no START gives back an END and no event is due. -/
theorem setHoldLevel_relevels (hne : level ≠ c.plan.holdLevel) (habs : ∀ v ∈ c.plan.events, v.absorbed = none)
    (hdue : NoneDue c) : setHoldLevel level c = relevelled level c := by
  have hmasked : forEach (c.plan.events.filter (newlyMasked level)) reinstate (relevelled level c) = relevelled level c :=
    forEach_id _ fun v hv => by simp only [reinstate, habs v (List.mem_of_mem_filter hv)]
  have hfreed : forEach (c.plan.events.filter (fun v => v.masked && decide (level ≤ v.priority)))
      (offerEvent (fun _ => true)) (relevelled level c) = relevelled level c :=
    forEach_id _ fun v _ => offerEvent_noneDue (noneDue_relevelled hdue) _ v
  unfold relevelled at hmasked hfreed
  simp only [setHoldLevel, if_neg hne, Ctl.onPlan, hmasked, hfreed]
  rfl

theorem setHoldLevel_noEvents (h : c.plan.events = []) :
    setHoldLevel level c = { c with plan := { c.plan with holdLevel := level } } := by
  by_cases hsame : level = c.plan.holdLevel
  · rw [setHoldLevel, if_pos hsame, hsame]
  · have hmap : c.plan.events.map (remask level) = c.plan.events := by rw [h, List.map_nil]
    rw [setHoldLevel_relevels hsame (by simp [h]) (fun _ _ v hv => by simp [h] at hv), relevelled, hmap]

/-- Settles O31: the order sets the level and is answered; with an empty plan, and with one of which nothing is due, no more
than the flags of the STARTs follows. -/
theorem holdLevelMasksStarts : Obligations.HoldLevelMasksStarts := by
  intro o s b hs ht hb level
  have hset : opsFrameEnds (ownOrder 35 o) s.ctl = setHoldLevel level
      { s.ctl with link := answered o 35 1 0 [BitVec.ofNat 8 level] s.ctl.link } := by
    refine (takes_ownOrder ht rfl).trans ?_
    simp only [holdLevel, hb, answerDone_reserve]
    rfl
  refine ⟨fun hevents => act_settled (hset.trans (setHoldLevel_noEvents hevents)) rfl rfl hs.settled hs.opsTaken,
    fun hne habs hfinish hdue => ?_⟩
  have hremask : s.ctl.plan.events.map (remask level) = s.ctl.plan.events.map (fun v =>
      if v.kind = .start then { v with masked := decide (v.priority < level) } else v) := by
    refine List.map_congr_left fun v hv => ?_
    cases hkind : v.kind with
    | start => exact (remask_start hkind (habs v hv)).trans (by rw [hkind, if_pos rfl])
    | finish => exact remask_finish hkind (hfinish v hv hkind)
  rw [← hremask]
  exact act_settled (hset.trans (setHoldLevel_relevels hne habs hdue)) rfl rfl hs.settled hs.opsTaken

end Sys2Proof.Proofs
end

section
/-! What a refill and a rebuild consider (R156, R158, R161): the STARTs and ENDs of a bank's occurrences in a range of event
times, those of them behind the scan mark, and the occurrences under way. -/

namespace Sys2Proof.Proofs
open Sys2Proof.Machine Sys2Proof.Laws

variable {c : Ctl} {bk : Bank} {r : BankRec} {e : EntryRec} {x : Consider} {day : Nat} {low high now : SiteTime}

/-! ## Sorting -/

theorem mem_orderedInsert {α : Type} {before : α → α → Bool} {a b : α} {l : List α} :
    a ∈ orderedInsert before b l ↔ a = b ∨ a ∈ l := by
  induction l with
  | nil => simp [orderedInsert]
  | cons y t ih =>
    unfold orderedInsert
    split
    · rw [List.mem_cons]
    · rw [List.mem_cons, ih, List.mem_cons]
      exact or_left_comm

theorem mem_insertSort {α : Type} {before : α → α → Bool} {a : α} {l : List α} : a ∈ insertSort before l ↔ a ∈ l := by
  induction l with
  | nil => rfl
  | cons y t ih => rw [insertSort, mem_orderedInsert, ih, List.mem_cons]

/-! ## The events of an entry (R156) -/

/-- An entry lies within a day, and its occurrences last a day at the most (R128). -/
def EntryWithinDay (e : EntryRec) : Prop := e.start < 1440 ∧ e.duration ≤ 1440

theorem occStart_eq (e : EntryRec) (day : Nat) : occStart e day = day * 86400 + e.start * 60 := rfl

theorem occEnd_eq (e : EntryRec) (day : Nat) :
    occEnd e day = min (day * 86400 + e.start * 60 + e.duration * 60) (65536 * 86400 - 1) := rfl

theorem mem_bothEvents_start (hx : x ∈ bothEvents bk e day) (hs : x.key.isStart = true) :
    x.key.time = occStart e day ∧ x.finish = occEnd e day := by
  simp only [bothEvents, List.mem_cons, List.not_mem_nil, or_false] at hx
  rcases hx with rfl | rfl
  · exact ⟨rfl, rfl⟩
  · cases hs

theorem mem_bothEvents_time (hx : x ∈ bothEvents bk e day) :
    x.key.time = occStart e day ∨ x.key.time = occEnd e day := by
  simp only [bothEvents, List.mem_cons, List.not_mem_nil, or_false] at hx
  rcases hx with rfl | rfl
  · exact .inl rfl
  · exact .inr rfl

theorem mem_daysOf : day ∈ daysOf low high ↔ low / 86400 - 1 ≤ day ∧ day ≤ high / 86400 ∧ day ≤ 65535 := by
  simp only [daysOf, dayOf, List.mem_map, List.mem_range]
  dsimp only [SiteTime] at *
  constructor
  · rintro ⟨i, hi, rfl⟩
    omega
  · rintro ⟨hlow, hhigh, hlast⟩
    exact ⟨day - (low / 86400 - 1), by omega, by omega⟩

/-- The events of an occurrence lie on its day and the next. -/
theorem day_of_event (he : EntryWithinDay e) (hday : day ≤ 65535) (hx : x ∈ bothEvents bk e day) (hlow : low ≤ x.key.time)
    (hhigh : x.key.time ≤ high) : day ∈ daysOf low high := by
  obtain ⟨hstart, hduration⟩ := he
  have htime := mem_bothEvents_time hx
  rw [occStart_eq, occEnd_eq] at htime
  rw [mem_daysOf]
  dsimp only [SiteTime] at *
  omega

theorem mem_eventsOf (he : EntryWithinDay e) : x ∈ eventsOf r bk e low high ↔
    ∃ day ≤ 65535, occursOn r e day = true ∧ x ∈ bothEvents bk e day ∧ low ≤ x.key.time ∧ x.key.time ≤ high := by
  simp only [eventsOf, List.mem_flatMap, List.mem_filter, decide_eq_true_eq]
  constructor
  · rintro ⟨day, ⟨hday, hoccurs⟩, hx, hlow, hhigh⟩
    exact ⟨day, (mem_daysOf.mp hday).2.2, hoccurs, hx, hlow, hhigh⟩
  · rintro ⟨day, hday, hoccurs, hx, hlow, hhigh⟩
    exact ⟨day, ⟨day_of_event he hday hx hlow hhigh, hoccurs⟩, hx, hlow, hhigh⟩

/-! ## What lies behind the scan mark (R158) -/

theorem time_of_afterMark {m : ScanMark} {k : ScanKey} (h : afterMark m k = true) : m.time ≤ k.time := by
  unfold afterMark at h
  split at h
  · simp only [Bool.or_eq_true, Bool.and_eq_true, decide_eq_true_eq] at h
    exact h.elim Nat.le_of_lt fun hsame => Nat.le_of_eq hsame.2.symm
  · exact Nat.le_of_lt (of_decide_eq_true h)

theorem runningEnds_idle (h : ∀ p ∈ c.gate.tx, p.2.running = none) : runningEnds c = [] :=
  List.filterMap_eq_nil_iff.mpr fun p hp => by rw [h p hp]; rfl

theorem isRunning_idle (h : ∀ p ∈ c.gate.tx, p.2.running = none) (occ : Occ) : isRunning c occ = false :=
  List.any_eq_false.mpr fun p hp => by simp [h p hp]

/-- What a refill considers while no occurrence runs. -/
theorem mem_scanRange (hidle : ∀ p ∈ c.gate.tx, p.2.running = none) (hbank : activeBank c = some bk)
    (hentries : ∀ e ∈ scheduleEntries (bankRec c bk), EntryWithinDay e) : x ∈ scanRange c high ↔
      ∃ e ∈ scheduleEntries (bankRec c bk), ∃ day ≤ 65535, occursOn (bankRec c bk) e day = true ∧
        x ∈ bothEvents bk e day ∧ x.key.time ≤ high ∧ afterMark c.plan.scan x.key = true := by
  simp only [scanRange, hbank, sortConsider, mem_insertSort, runningEnds_idle hidle, List.append_nil, List.mem_filter,
    List.mem_flatMap, isRunning_idle hidle, Bool.not_false, Bool.or_true, and_true, Bool.and_eq_true, decide_eq_true_eq]
  constructor
  · rintro ⟨⟨e, he, hx⟩, hhigh, hmark⟩
    obtain ⟨day, hday, hoccurs, hx, -, -⟩ := (mem_eventsOf (hentries e he)).mp hx
    exact ⟨e, he, day, hday, hoccurs, hx, hhigh, hmark⟩
  · rintro ⟨e, he, day, hday, hoccurs, hx, hhigh, hmark⟩
    exact ⟨⟨e, he, (mem_eventsOf (hentries e he)).mpr
      ⟨day, hday, hoccurs, hx, time_of_afterMark hmark, hhigh⟩⟩, hhigh, hmark⟩

/-! ## What is under way (R161) -/

theorem isWorked_eq_false {occ : Occ} :
    isWorked c occ = false ↔ ∀ p ∈ c.cu, p.2.busy = true → p.2.occ ≠ occ := by
  simp only [isWorked, busyCtxs, List.any_eq_false, List.mem_filter, decide_eq_true_eq, and_imp]

/-- The conditions of the catch-up while no occurrence runs. -/
theorem catchesUp_iff (hidle : ∀ p ∈ c.gate.tx, p.2.running = none) : catchesUp c now x = true ↔
    x.key.isStart = true ∧ x.key.time ≤ now ∧ now < x.finish ∧
      (∀ p ∈ c.cu, p.2.busy = true → p.2.occ ≠ x.occ) ∧
      (∀ r, logRec c x.occ = some r → r.returned = true) ∧
      (logRec c x.occ = none → ∀ h, c.plan.high = some h → h < x.key.time) := by
  simp only [catchesUp, Bool.and_eq_true, decide_eq_true_eq, isRunning_idle hidle, Bool.not_false, Bool.not_eq_true',
    isWorked_eq_false, and_true, and_assoc]
  cases logRec c x.occ with
  | some r => simp
  | none => cases c.plan.high <;> simp

/-- An occurrence under way started no more than a day ago. -/
theorem start_of_underWay (he : EntryWithinDay e) (hnow : now < 65536 * 86400) (hx : x ∈ bothEvents bk e day)
    (hs : x.key.isStart = true) (htime : x.key.time ≤ now) (hfinish : now < x.finish) :
    day ≤ 65535 ∧ now - 86400 ≤ x.key.time := by
  obtain ⟨-, hduration⟩ := he
  obtain ⟨hstart, hend⟩ := mem_bothEvents_start hx hs
  rw [occStart_eq] at hstart
  rw [occEnd_eq] at hend
  dsimp only [SiteTime] at *
  omega

/-- What a rebuild catches up while no occurrence runs. -/
theorem mem_catchUpList {l : List EntryRec} (hidle : ∀ p ∈ c.gate.tx, p.2.running = none) (hnow : now < 65536 * 86400)
    (hentries : ∀ e ∈ l, EntryWithinDay e) : x ∈ catchUpList c bk l now ↔
      (∃ e ∈ l, ∃ day, occursOn (bankRec c bk) e day = true ∧ x ∈ bothEvents bk e day) ∧
      x.key.isStart = true ∧ x.key.time ≤ now ∧ now < x.finish ∧
      (∀ p ∈ c.cu, p.2.busy = true → p.2.occ ≠ x.occ) ∧
      (∀ r, logRec c x.occ = some r → r.returned = true) ∧
      (logRec c x.occ = none → ∀ h, c.plan.high = some h → h < x.key.time) := by
  simp only [catchUpList, mem_insertSort, List.mem_filter, startsBefore, List.mem_flatMap, catchesUp_iff hidle]
  refine and_congr_left fun ⟨hs, htime, hfinish, _⟩ => ⟨?_, ?_⟩
  · rintro ⟨e, he, hx⟩
    obtain ⟨day, -, hoccurs, hx, -, -⟩ := (mem_eventsOf (hentries e he)).mp hx
    exact ⟨e, he, day, hoccurs, hx⟩
  · rintro ⟨e, he, day, hoccurs, hx⟩
    obtain ⟨hday, hlow⟩ := start_of_underWay (hentries e he) hnow hx hs htime hfinish
    exact ⟨e, he, (mem_eventsOf (hentries e he)).mpr ⟨day, hday, hoccurs, hx, hlow, htime⟩⟩

end Sys2Proof.Proofs
end

section
/-! The passing of site time (R151, R155, R158 to R164): seconds, the refill at a minute boundary where it finds at most one
event to consider or a full plan, and the ends of occurrences. -/

namespace Sys2Proof.Proofs
open Sys2Proof.Machine Sys2Proof.Laws

variable {s : State} {c c' d : Ctl} {x y : Consider} {v : Event} {now t : SiteTime} {bk : Bank} {k : Link}

/-! ## Seconds (R151) -/

theorem siteSecond_invalid (h : c.plan.time = none) : siteSecond c = c := by simp only [siteSecond, h]

theorem siteSecond_next (h : c.plan.time = some t) (ht : t < 65536 * 86400 - 1) : siteSecond c = { c with
    clock := max c.clock (c.plan.secondFrom + 1000)
    plan := { c.plan with time := some (t + 1), secondFrom := c.plan.secondFrom + 1000 } } := by
  have hlast : t < Config.lastSiteTime := ht
  simp only [siteSecond, h, if_pos hlast]
  rfl

theorem siteSecond_last (h : c.plan.time = some t) (ht : 65536 * 86400 - 1 ≤ t) : siteSecond c = { c with
    clock := max c.clock (c.plan.secondFrom + 1000)
    plan := { c.plan with time := none, events := [] } } := by
  have hlast : ¬ t < Config.lastSiteTime := Nat.not_lt_of_le ht
  simp only [siteSecond, h, if_neg hlast]
  rfl

/-! ## Insertion in order (R160) -/

section Insertion
variable {consider : Consider → SiteTime → Ctl → Ctl × Bool} {l rest : List Consider}

theorem insertAll_one (h : consider x now c = (c', true)) : insertAll consider [x] now c = (c', []) := by
  simp only [insertAll, h, if_true]

theorem insertAll_noRoom (h : consider x now c = (c', false)) :
    insertAll consider (x :: rest) now c = (planFullAlarm c', x :: rest) := by
  simp only [insertAll_cons, h, Bool.false_eq_true, if_false]

/-- A refill that finds room for all it considers sets the scan mark an hour ahead (R158). -/
theorem refill_finishes (hleft : insertAll considerLeft c.plan.scan.left now c = (c', []))
    (hscan : scanRange c' (addTime now Config.horizon) = l) (hall : insertAll considerEvent l now c' = (d, [])) :
    refill now c = scannedAhead now d := by
  simp only [refill, hleft, hscan, hall, setScan, Ctl.onPlan, scannedAhead]

/-- A refill that finds the plan full sets the scan mark before the event for which there was no room (R160). -/
theorem refill_stops (hleft : c.plan.scan.left = []) (hscan : scanRange c (addTime now Config.horizon) = l)
    (hall : insertAll considerEvent l now c = (d, y :: rest)) :
    refill now c = setScan { time := y.key.time, resume := some y.key, left := [] } d := by
  simp only [refill, hleft, insertAll, hscan, hall]

/-- A refill that finds no room for what was left over leaves the rest of it for the next one (R160). -/
theorem refill_leaves (hleft : insertAll considerLeft c.plan.scan.left now c = (d, y :: rest)) :
    refill now c = setScan { d.plan.scan with left := y :: rest } d := by
  simp only [refill, hleft]

end Insertion

/-- The Link Interface with ALARM PLAN_FULL, unless its latch is set. -/
def planFullLink (bk : Bank) (c : Ctl) : Link :=
  if c.plan.fullLatch = true then c.link
  else withReport (reportNow c .planFull (.bank bk ((bankRec c bk).header.season.getD 0)) 0 0 none none) c.link

theorem planFullAlarm_eq (hbank : activeBank c = some bk) (hroom : c.link.reports.length < 32) :
    planFullAlarm c = { c with link := planFullLink bk c, plan := { c.plan with fullLatch := true } } := by
  unfold planFullAlarm planFullLink
  cases hlatch : c.plan.fullLatch
  · simp only [Bool.false_eq_true, if_false, hbank]
    rw [raise_room]
    · rfl
    · exact hroom
  · simp only [if_true]
    rw [← hlatch]

/-! ## ENDs (R158, R159) -/

section Ends
variable {occ : Occ} {tx priority : Nat} {start finish at_ : SiteTime}

/-- An END enters an empty plan. -/
theorem insertEnd_enters (h : c.plan.events = []) : insertEnd occ tx priority start finish at_ c =
    ({ c with plan := { c.plan with events := [endEvent occ tx priority start finish at_] } }, true) := by
  have hfull : planFull c = false := by rw [planFull, h]; rfl
  simp only [insertEnd, inPlan, h, List.any_nil, List.find?_nil, hfull, Bool.false_eq_true, if_false, addEvent, Ctl.onPlan,
    insertEvent]

/-- The only event of the plan, a START, absorbs an END. -/
theorem insertEnd_absorbed (hv : c.plan.events = [v]) (habs : absorbs tx occ at_ v = true) :
    insertEnd occ tx priority start finish at_ c = ({ c with plan := { c.plan with events :=
      [{ v with absorbed := some { occ := occ, priority := priority, start := start, finish := finish } }] } }, true) := by
  have hstart : v.kind = .start := by
    simp only [absorbs, Bool.and_eq_true, decide_eq_true_eq] at habs
    exact habs.1.1.1.1.1
  have hin : inPlan c .finish occ = false := by simp [inPlan, hv, sameEvent, hstart]
  simp only [insertEnd, hin, hv, List.find?_cons_of_pos habs, Bool.false_eq_true, if_false, mapEvent, Ctl.onPlan,
    List.map_cons, List.map_nil, sameEvent, decide_true, Bool.and_self, if_true]

/-- A full plan, with no event of the transmitter, has no room for an END. -/
theorem insertEnd_noRoom (hfull : 256 ≤ c.plan.events.length) (htx : ∀ v ∈ c.plan.events, v.tx ≠ tx)
    (hocc : ∀ v ∈ c.plan.events, v.kind = .finish → v.occ ≠ occ) :
    insertEnd occ tx priority start finish at_ c = (c, false) := by
  have hin : inPlan c .finish occ = false := List.any_eq_false.mpr fun v hv => by
    simp only [sameEvent, Bool.and_eq_true, decide_eq_true_eq, not_and]
    exact hocc v hv
  have hfind : c.plan.events.find? (absorbs tx occ at_) = none := List.find?_eq_none.mpr fun v hv => by
    simp [absorbs, htx v hv]
  have hplan : planFull c = true := decide_eq_true hfull
  simp only [insertEnd, hin, hfind, hplan, Bool.false_eq_true, if_false, if_true]

end Ends

/-- An END to consider, which no START of the plan has absorbed, is inserted at its occurrence's end. -/
theorem considerEvent_end (hend : x.key.isStart = false) (habs : ∀ v ∈ c.plan.events, absorbedBy x.tx x.occ v = false)
    (hfinish : now < x.finish) : considerEvent x now c =
      insertEnd x.occ x.tx x.key.priority x.start x.finish x.finish c := by
  have hany : c.plan.events.any (absorbedBy x.tx x.occ) = false :=
    List.any_eq_false.mpr fun v hv => Bool.eq_false_iff.mp (habs v hv)
  simp only [considerEvent, hend, hany, Bool.false_eq_true, if_false, Nat.max_eq_left (Nat.le_of_lt hfinish)]

theorem considerEvent_absorbed (hend : x.key.isStart = false) (hv : v ∈ c.plan.events)
    (habs : absorbedBy x.tx x.occ v = true) : considerEvent x now c = (c, true) := by
  have hany : c.plan.events.any (absorbedBy x.tx x.occ) = true := List.any_eq_true.mpr ⟨v, hv, habs⟩
  simp only [considerEvent, hend, hany, if_true]

/-- An END that was left over, of an entry that still stands, is inserted at its time, or now if that has passed. -/
theorem considerLeft_end (hend : x.key.isStart = false) (hentry : x.entry = none ∨ ∃ e, x.entry = some e ∧
      activeBank c = some x.occ.bank ∧ e ∈ scheduleEntries (bankRec c x.occ.bank)) :
    considerLeft x now c = insertEnd x.occ x.tx x.key.priority x.start x.finish (max x.key.time now) c := by
  have hstands : x.entry.all (fun e => (activeBank c).any (fun bk =>
      decide (bk = x.occ.bank ∧ e ∈ scheduleEntries (bankRec c bk)))) = true := by
    rcases hentry with h | ⟨e, h, hbank, he⟩
    · simp [h]
    · simp [h, hbank, he]
  simp only [considerLeft, hstands, hend, Bool.false_eq_true, if_false, if_true]

/-! ## STARTs (R158) -/

theorem considerEvent_start {e : EntryRec} (hstart : x.key.isStart = true) (he : x.entry = some e)
    (hnew : inPlan c .start x.occ = false) (hlog : c.plan.log = []) (hfinish : now < x.finish) :
    considerEvent x now c = insertStart x e (decide (x.key.time < now)) true now c := by
  have hrec : logRec c x.occ = none := by rw [logRec, hlog]; rfl
  simp only [considerEvent, hstart, he, hnew, hrec, Option.any_none, Bool.false_eq_true, if_false,
    if_neg (Nat.not_le.mpr hfinish)]

/-! ## The refill at a minute boundary (R158) -/

theorem minuteBoundary_elsewhere (h : c.start.phase ≠ .running ∨ c.plan.time = none ∨
    ∃ t, c.plan.time = some t ∧ t % 60 ≠ 0) : minuteBoundary c = c := by
  unfold minuteBoundary
  cases htime : actingTime c with
  | none => rfl
  | some now =>
    have hvalid := time_of_actingTime htime
    rcases h with hphase | hnone | ⟨t, ht, hbetween⟩
    · rw [actingTime, if_neg hphase] at htime
      cases htime
    · rw [hnone] at hvalid
      cases hvalid
    · obtain rfl : t = now := Option.some.inj (ht.symm.trans hvalid)
      exact if_neg hbetween

/-- A minute boundary in RUNNING, with every event of the plan ahead. -/
structure AtMinute (c : Ctl) (now : SiteTime) : Prop where
  running : c.start.phase = .running
  time : c.plan.time = some now
  boundary : now % 60 = 0
  ahead : ∀ v ∈ c.plan.events, now < v.begin_

theorem AtMinute.refills (h : AtMinute c now) : minuteBoundary c = push [.dispatch] (refill now c) := by
  have htime : actingTime c = some now := (if_pos h.running).trans h.time
  simp only [minuteBoundary, htime, if_pos h.boundary]

theorem AtMinute.noneDue (h : AtMinute c now) {p : Plan} (htime : p.time = c.plan.time)
    (hahead : ∀ v ∈ p.events, now < v.begin_) : NoneDue { c with link := k, plan := p } := by
  intro t ht v hv
  obtain rfl : now = t := Option.some.inj (h.time.symm.trans (htime.symm.trans ht))
  exact hahead v hv

/-- The plan after a refill that has come to its end, with the given events. -/
def refilledPlan (now : SiteTime) (events : List Event) (p : Plan) : Plan :=
  { p with events := events, scan := { time := addTime now Config.horizon, resume := none, left := [] }, fullLatch := false }

/-- A minute boundary whose refill comes to its end, and leaves nothing that is due or that the hall stop lets be taken. -/
theorem AtMinute.finishes (h : AtMinute s.ctl now) (hs : Still s.ctl) {events : List Event}
    (hrefill : refill now s.ctl = { s.ctl with link := k, plan := refilledPlan now events s.ctl.plan })
    (hahead : (∀ v ∈ events, now < v.begin_) ∨ s.ctl.hall.inForce = true)
    (hk : k.opsTx = s.ctl.link.opsTx ∧ k.opsHeldOff = s.ctl.link.opsHeldOff) :
    exec .minuteBoundaryRefill s =
      .next { s with ctl := { s.ctl with link := k, plan := refilledPlan now events s.ctl.plan } } := by
  refine act_dispatches hs (h.refills.trans (by rw [hrefill])) ?_ hk
  rcases hahead with hahead | hstop
  · exact inert_dispatch_noneDue (h.noneDue rfl hahead)
  · exact inert_dispatch_stopped hstop

/-- A minute boundary whose refill finds the plan full, the scan mark set as given. -/
theorem AtMinute.stops (h : AtMinute s.ctl now) (hs : Still s.ctl) {m : ScanMark}
    (hrefill : refill now s.ctl = setScan m (planFullAlarm s.ctl)) (hbank : activeBank s.ctl = some bk)
    (hroom : s.ctl.link.reports.length < 32) :
    exec .minuteBoundaryRefill s = .next { s with ctl := { s.ctl with
      link := planFullLink bk s.ctl, plan := { s.ctl.plan with fullLatch := true, scan := m } } } := by
  refine act_dispatches hs (h.refills.trans (by rw [hrefill, planFullAlarm_eq hbank hroom]; rfl))
    (inert_dispatch_noneDue (h.noneDue rfl h.ahead)) ?_
  unfold planFullLink
  split <;> exact ⟨rfl, rfl⟩

/-- Nothing was left over, and the scan has come to its end. -/
theorem refill_scanned {l : List Consider} (hleft : c.plan.scan.left = [])
    (hscan : scanRange c (addTime now Config.horizon) = l) (hall : insertAll considerEvent l now c = (d, [])) :
    refill now c = scannedAhead now d := refill_finishes (by rw [hleft]; rfl) hscan hall

/-! ## The ends of occurrences (R155, R162, R164) -/

theorem setLog_notShorter {log : List LogRec} (h : c.plan.log.length ≤ log.length) :
    setLog log c = { c with plan := { c.plan with log := log } } := by
  simp only [setLog, if_neg (Nat.not_lt.mpr h), Ctl.onPlan]

/-- H once it has risen to a time. -/
def risenTo (t : SiteTime) (high : Option SiteTime) : SiteTime :=
  match high with
  | some h => max h t
  | none => t

/-- H rises below every record of the log that is TAKEN, and none of them leaves. -/
theorem raiseHigh_below (h : ∀ r ∈ c.plan.log, r.returned = true ∨ risenTo t c.plan.high < r.start) :
    raiseHigh t c = { c with plan := { c.plan with high := some (risenTo t c.plan.high) } } := by
  have hkept : c.plan.log.filter (fun r => r.returned || decide (risenTo t c.plan.high < r.start)) = c.plan.log :=
    List.filter_eq_self.mpr fun r hr => by simpa using h r hr
  have hraise : raiseHigh t c = setLog (c.plan.log.filter (fun r => r.returned || decide (risenTo t c.plan.high < r.start)))
      { c with plan := { c.plan with high := some (risenTo t c.plan.high) } } := rfl
  rw [hraise, hkept]
  exact setLog_notShorter (Nat.le_refl _)

/-- The only record of the log is TAKEN and its occurrence has ended. -/
theorem endLogRec_taken {r : LogRec} (ha : c.agenda = []) (hlog : c.plan.log = [r]) (htaken : r.returned = false)
    (hend : r.occEnd ≤ now) : endLogRec r.occ now c = { c with
      agenda := [.offerLog], plan := { c.plan with log := [], high := some (risenTo r.start c.plan.high) } } := by
  have hrec : logRec c r.occ = some r := by simp [logRec, hlog]
  have hset : setLog [] c = { c with agenda := [.offerLog], plan := { c.plan with log := [] } } := by
    have hshorter : ([] : List LogRec).length < c.plan.log.length := by simp [hlog]
    simp only [setLog, if_pos hshorter]
    rw [pushOnce_new (by simp [Ctl.onPlan, ha])]
    simp [Ctl.onPlan, ha]
  simp only [endLogRec, hrec, htaken, hend, hlog, Bool.not_false, and_self, if_true, ne_eq, List.filter_cons, not_true,
    decide_false, Bool.false_eq_true, if_false, List.filter_nil]
  rw [hset, raiseHigh_below (by simp)]

theorem endLogRec_noRecord {occ : Occ} (hlog : c.plan.log = []) : endLogRec occ now c = c := by
  simp only [endLogRec, logRec, hlog, List.find?_nil]

/-- The only event of the plan, a START that has absorbed no END, is dropped. -/
theorem dropStart_only {detail : Failure} (hv : c.plan.events = [v]) (hkind : v.kind = .start) (habs : v.absorbed = none)
    (hlog : c.plan.log = []) (hroom : c.link.reports.length < 32) : dropStart v detail c = { c with
      link := withReport (reportNow c .missed (.entry v.occ.bank v.occ.id) detail.code 0 (some v.occ.day) none) c.link
      plan := { c.plan with events := [] } } := by
  have hremove : removeEvents (sameEvent .start v.occ) c = { c with plan := { c.plan with events := [] } } := by
    simp [removeEvents, Ctl.onPlan, hv, sameEvent, hkind]
  simp only [dropStart, hremove, missed, reinstate, habs]
  rw [raise_room (c := { c with plan := { c.plan with events := [] } }) hroom, dropReturned,
    setLog_notShorter (by simp [hlog])]
  simp only [hlog, List.filter_nil]
  rw [← hlog]
  rfl

section End
variable (hrun : c.start.phase = .running) (htime : c.plan.time = some now)
include hrun htime

theorem occurrenceEndPassed_start (hv : c.plan.events = [v]) (hkind : v.kind = .start) (hend : v.occEnd ≤ now)
    (habs : v.absorbed = none) (hlog : c.plan.log = []) (hroom : c.link.reports.length < 32) :
    occurrenceEndPassed v.occ c = { c with
      link := withReport (reportNow c .missed (.entry v.occ.bank v.occ.id) (if v.masked then 79 else 78) 0
        (some v.occ.day) none) c.link
      plan := { c.plan with events := [] } } := by
  have hacting : actingTime c = some now := (if_pos hrun).trans htime
  have hevent : eventOf c .start v.occ = some v := by simp [eventOf, hv, sameEvent, hkind]
  have hdetail : (endedDetail v).code = if v.masked then 79 else 78 := by
    unfold endedDetail
    split <;> rfl
  simp only [occurrenceEndPassed, hacting, hevent, if_pos hend, dropStart_only hv hkind habs hlog hroom, hdetail]
  exact endLogRec_noRecord hlog

theorem occurrenceEndPassed_taken {r : LogRec} (ha : c.agenda = []) (hevents : c.plan.events = []) (hlog : c.plan.log = [r])
    (htaken : r.returned = false) (hend : r.occEnd ≤ now) : occurrenceEndPassed r.occ c = { c with
      agenda := [.offerLog], plan := { c.plan with log := [], high := some (risenTo r.start c.plan.high) } } := by
  have hacting : actingTime c = some now := (if_pos hrun).trans htime
  have hevent : eventOf c .start r.occ = none := by rw [eventOf, hevents]; rfl
  simp only [occurrenceEndPassed, hacting, hevent, endLogRec_taken ha hlog htaken hend]

end End

/-- Settles O55, clause by clause. -/
theorem siteTimePasses : Obligations.SiteTimePasses := by
  intro s hs
  refine ⟨fun h => act_unchanged hs (siteSecond_invalid h),
    fun t h => ⟨fun ht => act_settled (siteSecond_next h ht) rfl rfl hs.settled hs.opsTaken,
      fun ht => act_settled (siteSecond_last h ht) rfl rfl hs.settled hs.opsTaken⟩,
    fun h => act_unchanged hs (minuteBoundary_elsewhere h), fun now hrun htime => ⟨?considered, ?refill, ?ended, ?left⟩⟩
  case considered =>
    intro high bk hidle hbank hhigh hnow entries hentries
    exact ⟨fun x => mem_scanRange hidle hbank hentries, fun x => mem_catchUpList hidle hnow hentries⟩
  case ended =>
    intro v hv hkind hend habs hlog hroom
    exact act_settled (occurrenceEndPassed_start hrun htime hv hkind hend habs hlog hroom) rfl rfl hs.settled hs.opsTaken
  case left =>
    intro r hevents hlog htaken hend
    exact act_leaves_unnoted (c := { s.ctl with plan := { s.ctl.plan with
      log := [], high := some (risenTo r.start s.ctl.plan.high) } })
      (by rw [occurrenceEndPassed_taken hrun htime hs.settled hevents hlog htaken hend]) hs.settled rfl rfl
      (List.forall_mem_singleton.mpr (inert_offerLog hevents)) (by decide) hs.opsTaken
  case refill =>
    rw [show min (now + 3600) (65536 * 86400 - 1) = addTime now Config.horizon from (addTime_eq now 3600).symm]
    intro hminute hahead high refilled stopped
    have hm : AtMinute s.ctl now := ⟨hrun, htime, hminute, hahead⟩
    refine ⟨fun hleft => ⟨fun hnothing => ?nothing, ?start, fun x rest hscan hend hfinish hocc =>
      ⟨fun hrest hevents => ?enters, fun v hrest hv hkind htx hbegin hmask habs hother => ?absorbed,
        fun v a hrest hv hkind htx habs hsame => ?absorbedBefore, fun bk hfull htx hbank hroom => ?full⟩⟩,
      fun x hleft hend hentry => ⟨fun hevents hscan hfree => ?leftEnters,
        fun bk hfull htx hocc hbank hroom => ?leftFull⟩⟩
    case nothing =>
      have hscan : scanRange s.ctl high = [] := by
        rcases hnothing with hscan | ⟨hbank, hidle⟩
        · exact hscan
        · exact scanRange_idle hbank hidle
      exact hm.finishes hs (refill_scanned hleft hscan rfl) (.inl hahead) ⟨rfl, rfl⟩
    case start =>
      intro x e st a target hscan hstart hentry hbefore hfinish hevents hlog hhigh htests htx hant hmap hroom g hbegin
        subject clamped
      have hconsider : considerEvent x now s.ctl = (entered x g false s.ctl, true) := by
        rw [considerEvent_start hstart hentry (by rw [inPlan, hevents]; rfl) hlog hfinish,
          decide_eq_false (Nat.lt_asymm hbefore)]
        exact insertStart_enters htests htx hant hmap rfl (by simp [excludedByHigh, hhigh]) hevents hroom
      have step := hm.finishes hs (k := insertionLink s.ctl (startEvent s.ctl x g false) g)
        (events := [startEvent s.ctl x g false]) (refill_scanned hleft hscan (insertAll_one hconsider))
        (.inl (List.forall_mem_singleton.mpr hbegin)) (insertionLink_ops ..)
      simp only [insertionLink, startEvent, Bool.or_false] at step
      exact step
    case enters =>
      subst hrest
      have hconsider := (considerEvent_end hend (by simp [hevents]) hfinish).trans (insertEnd_enters hevents)
      exact hm.finishes hs (refill_scanned hleft hscan (insertAll_one hconsider))
        (.inl (List.forall_mem_singleton.mpr hfinish)) ⟨rfl, rfl⟩
    case absorbed =>
      subst hrest
      have hconsider := (considerEvent_end hend (by simp [hv, absorbedBy, habs]) hfinish).trans
        (insertEnd_absorbed hv (by simp [absorbs, hkind, htx, hbegin, hmask, habs, hother]))
      exact hm.finishes hs (refill_scanned hleft hscan (insertAll_one hconsider))
        (.inl (List.forall_mem_singleton.mpr (hahead v (by simp [hv])))) ⟨rfl, rfl⟩
    case absorbedBefore =>
      subst hrest
      have hconsider := considerEvent_absorbed (c := s.ctl) (now := now) (v := v) hend (by simp [hv])
        (by simp [absorbedBy, hkind, htx, habs, hsame])
      have step := hm.finishes hs (refill_scanned hleft hscan (insertAll_one hconsider)) (.inl hahead)
        ⟨rfl, rfl⟩
      rw [hv] at step
      exact step
    case full =>
      have hconsider := (considerEvent_end hend (fun v hv => by simp [absorbedBy, htx v hv]) hfinish).trans
        (insertEnd_noRoom hfull htx hocc)
      exact hm.stops hs (refill_stops hleft hscan (insertAll_noRoom hconsider)) hbank hroom
    case leftEnters =>
      have hconsider := (considerLeft_end (now := now) hend hentry).trans (insertEnd_enters hevents)
      have hahead' : now < max x.key.time now ∨ s.ctl.hall.inForce = true :=
        hfree.imp_left fun h => Nat.lt_of_lt_of_le h (Nat.le_max_left _ _)
      have hleftover := insertAll_one hconsider
      rw [← hleft] at hleftover
      exact hm.finishes hs (refill_finishes hleftover hscan rfl)
        (hahead'.imp_left List.forall_mem_singleton.mpr) ⟨rfl, rfl⟩
    case leftFull =>
      have hconsider := (considerLeft_end (now := now) hend hentry).trans (insertEnd_noRoom hfull htx hocc)
      have hscan : ({ (planFullAlarm s.ctl).plan.scan with left := [x] } : ScanMark) = s.ctl.plan.scan := by
        rw [planFullAlarm_eq hbank hroom, ← hleft]
      have hrefill := refill_leaves (by rw [hleft]; exact insertAll_noRoom hconsider)
      rw [hscan] at hrefill
      exact hm.stops hs hrefill hbank hroom

end Sys2Proof.Proofs
end

section
/-! The Changeover Unit takes an event (R163, R170, R171, R185): a transmitter that comes into a context's hand is muted while it
is live (R173); and where it is off and stands tuned on a PROVEN path to its antenna, at its target, its context goes through
RELEASING, AWAIT_ANTENNA, SETTING and PROVING in the same instant (R174 to R182). -/

namespace Sys2Proof.Proofs
open Sys2Proof.Machine Sys2Proof.Laws

variable {c : Ctl} {n tx ant freq : Nat} {x : Ctx} {st : TxStatic} {d : TxDyn} {a : AntStatic} {p : Path} {pos : Target}
  {v : Event} {now : SiteTime}

/-! ## A context's record -/

/-- The controller with a context's record written. -/
def withCtx (n : Nat) (x : Ctx) (c : Ctl) : Ctl := { c with cu := tset n x c.cu }

theorem modCtx_withCtx (f : Ctx → Ctx) : modCtx n f (withCtx n x c) = withCtx n (f x) c := by
  simp only [modCtx, withCtx, Ctl.onCu, tmod_some f (tget_tset_same n x c.cu), tset_tset]

theorem busyCtx_withCtx (h : x.busy = true) : busyCtx (withCtx n x c) n = some x := by
  simp only [busyCtx, withCtx, tget_tset_same, h, if_true]

theorem freeContext_first (h : ∀ p ∈ c.cu, p.2.busy = false) : freeContext c = some 1 := by
  have hfree : (busyCtx c 1).isNone = true := by rw [busyCtx_none h]; rfl
  have hfirst : upTo Config.contexts = 1 :: (upTo Config.contexts).tail := rfl
  rw [freeContext, hfirst]
  exact List.find?_cons_of_pos hfree

/-! ## Orders of a context to its transmitter -/

/-- A transmitter with its records, which a context owns, and room in the plant queue for its orders. -/
structure InHand (c : Ctl) (n tx : Nat) (st : TxStatic) (d : TxDyn) : Prop where
  static : txStatic c tx = some st
  dynamic : txDyn c tx = some d
  owner : d.owner = .ctx n
  known : stationClass c.site.work st.station = some .transmitter
  here : txOfStation c.site.work st.station = some tx
  room : OwnRoom c.link

/-- An order of a context to its transmitter. -/
def ctxFrame (n : Nat) (x : Ctx) (st : TxStatic) (order : PlantVerb) : PFrame :=
  { dest := st.station, verb := order, cls := .internal, origin := .ctx n (ctxWork x) }

theorem InHand.verdict (h : InHand c n tx st d) (order : PlantVerb) :
    gateVerdict (ctxFrame n x st order) c = transmitterVerdict c tx st d (ctxFrame n x st order) :=
  gateVerdict_transmitter h.known h.here h.static h.dynamic

theorem InHand.offers_carrierOff (h : InHand c n x.tx st d) : offerTx n x .carrierOff c =
    { c with link := withOwn (ctxFrame n x st .carrierOff) c.link } := by
  have hverdict : gateVerdict (ctxFrame n x st .carrierOff) c = .pass .carrierOff none :=
    (h.verdict .carrierOff).trans (transmitterVerdict_carrierOff rfl)
  have hhere : txOfStation c.site.work (ctxFrame n x st .carrierOff).dest = some x.tx := h.here
  simp only [offerTx, h.static]
  refine offer_joins (f := ctxFrame n x st .carrierOff) rfl rfl h.room hverdict ?_ h.room.taken
  simp only [onAdmission, hhere]
  rfl

theorem InHand.offers_feed {k : Nat} (h : InHand c n x.tx st d) (hrun : c.start.phase = .running)
    (hlocal : localFlag c x.tx d = false) (hk : 1 ≤ k ∧ k ≤ 32) : offerTx n x (.feed k) c =
      { c with link := withOwn (ctxFrame n x st (.feed k)) c.link } := by
  have hown : ownedByOther d (ctxFrame n x st (.feed k)).origin = false := by simp [ownedByOther, ctxFrame, h.owner]
  have hfill : fillsRecords (ctxFrame n x st (.feed k)).origin (ctxFrame n x st (.feed k)).verb = false := by
    simp [fillsRecords, ctxFrame]
  have hverdict : gateVerdict (ctxFrame n x st (.feed k)) c = .pass (.feed k) none := by
    rw [h.verdict, transmitterVerdict_running hfill hrun hlocal, hown]
    exact if_pos hk
  simp only [offerTx, h.static]
  exact offer_joins (f := ctxFrame n x st (.feed k)) rfl rfl h.room hverdict rfl h.room.taken

/-! ## MUTING (R173) -/

/-- The context as it enters MUTING over a live transmitter. -/
def muting (clock : Millis) (tm : Nat) (x : Ctx) : Ctx :=
  { x with phase := .muting, deadline := some (clock + (tm + 10) * 1000) }

theorem InHand.mutes (h : InHand c n x.tx st d) (hbusy : x.busy = true) (hlive : d.live = true) :
    enterMuting n (withCtx n x c) =
      { withCtx n (muting c.clock st.tm x) c with link := withOwn (ctxFrame n x st .carrierOff) c.link } := by
  have hst : txStatic (withCtx n x c) x.tx = some st := h.static
  have hlive' : txLive (withCtx n x c) x.tx = true := by
    have hd : txDyn (withCtx n x c) x.tx = some d := h.dynamic
    simp only [txLive, hd, hlive]
  have hin : InHand (withCtx n (muting c.clock st.tm x) c) n x.tx st d := { h with }
  simp only [enterMuting, busyCtx_withCtx hbusy, hlive', if_true, hst, modCtx_withCtx]
  exact hin.offers_carrierOff (x := { x with phase := .muting })

/-- MUTING of a START ends at once where its transmitter runs nothing. -/
theorem muteDone_idle (hd : txDyn c x.tx = some d) (hstart : x.isEnd = false) (hidle : d.running = none) :
    muteDone n x c = enterReleasing n c := by
  simp only [muteDone, hstart, Bool.false_eq_true, if_false, startMuted, hd, Option.bind_some, hidle]

/-- The context in MUTING over a transmitter that is off. -/
def muted (x : Ctx) : Ctx := { x with phase := .muting }

theorem enterMuting_off (hd : txDyn c x.tx = some d) (hbusy : x.busy = true) (hstart : x.isEnd = false)
    (hoff : d.live = false) (hidle : d.running = none) :
    enterMuting n (withCtx n x c) = enterReleasing n (withCtx n (muted x) c) := by
  have hd' : txDyn (withCtx n x c) x.tx = some d := hd
  have hmod : modCtx n (fun _ => { x with phase := .muting }) (withCtx n x c) = withCtx n (muted x) c := modCtx_withCtx _
  simp only [enterMuting, busyCtx_withCtx hbusy, txLive, hd', hoff, Bool.false_eq_true, if_false, hmod]
  exact muteDone_idle (x := muted x) hd hstart hidle

/-! ## From RELEASING to RAISING over a path that stands (R174 to R182) -/

/-- Transmitter and antenna of a START stand as it wants them: tuned, on a PROVEN path of their own, the antenna at its
target. -/
structure Standing (c : Ctl) (tx ant freq : Nat) (pos : Target) (st : TxStatic) (d : TxDyn) (a : AntStatic) (p : Path) :
    Prop where
  paths : c.matrix.paths = [p]
  row : p.tx = tx
  column : p.ant = ant
  proven : p.state = .proven
  closed : (xpAt c p.row p.col).state = .closed
  static : txStatic c tx = some st
  dynamic : txDyn c tx = some d
  antenna : antStatic c ant = some a
  tuned : retuneStage c.site.work st (ratableFreq d) freq = 0
  placed : positionNeeded c ant pos = false

theorem claimPath_only (hp : c.matrix.paths = [p]) (hrow : p.tx = tx) (hst : p.state ≠ .releasing) :
    claimPath c tx = some p := by
  simp [claimPath, hp, hrow, Path.claims, hst]

theorem Standing.claims (h : Standing c tx ant freq pos st d a p) : claimPath c tx = some p :=
  claimPath_only h.paths h.row (by rw [h.proven]; decide)

/-- The context in RELEASING. -/
def inReleasing (clock : Millis) (sx : Nat) (x : Ctx) : Ctx :=
  { x with phase := .releasing, deadline := some (clock + (3 * sx + 5) * 1000) }

/-- The context in AWAIT_ANTENNA, with no holder preempted. -/
def inAwait (x : Ctx) : Ctx := { x with phase := .awaitAntenna, deadline := none, preempting := none }

/-- The context in SETTING, with no sub-step needed. -/
def inSetting (x : Ctx) : Ctx :=
  { x with
    phase := .setting, deadline := none, tuned := false, preempting := none, retune := Sub.idle, path := Sub.idle
    position := Sub.idle }

section Standing
variable (h : Standing c x.tx x.tAnt x.tFreq x.tPos st d a p) (hbusy : x.busy = true)
include h hbusy

/-- RELEASING finds no path of the row to another antenna (R174). -/
theorem Standing.releases : enterReleasing n (withCtx n x c) =
    enterAwait n (withCtx n (inReleasing c.clock c.site.work.site.sx x) c) := by
  have hmod : modCtx n (fun y => { y with
      phase := .releasing
      deadline := some (afterSeconds (withCtx n x c) (3 * (withCtx n x c).site.work.site.sx + 5)) }) (withCtx n x c) =
      withCtx n (inReleasing c.clock c.site.work.site.sx x) c := modCtx_withCtx _
  have hclaim : claimPath (withCtx n (inReleasing c.clock c.site.work.site.sx x) c) x.tx = some p := h.claims
  have hbusy' : busyCtx (withCtx n (inReleasing c.clock c.site.work.site.sx x) c) n =
      some (inReleasing c.clock c.site.work.site.sx x) := busyCtx_withCtx hbusy
  have hothers : c.matrix.paths.any (fun q => q.tx == x.tx && q.ant != x.tAnt) = false := by simp [h.paths, h.column]
  simp only [enterReleasing, busyCtx_withCtx hbusy, hmod, hclaim, if_pos h.column, releasingCheck, hbusy']
  exact if_pos ⟨rfl, congrArg not hothers⟩

/-- AWAIT_ANTENNA finds the column held by the context's own path (R175). -/
theorem Standing.awaits : enterAwait n (withCtx n x c) = enterSetting n (withCtx n (inAwait x) c) := by
  have hmod : modCtx n (fun y => { y with phase := .awaitAntenna, deadline := none, preempting := none }) (withCtx n x c) =
      withCtx n (inAwait x) c := modCtx_withCtx _
  have hbusy' : busyCtx (withCtx n (inAwait x) c) n = some (inAwait x) := busyCtx_withCtx hbusy
  have hphase : ¬ (inAwait x).phase ≠ .awaitAntenna := not_not.mpr rfl
  have hheld : columnPaths (withCtx n (inAwait x) c) (inAwait x).tAnt = [p] := by
    show c.matrix.paths.filter (fun q => q.ant == x.tAnt) = [p]
    simp [h.paths, h.column]
  have hown : [p].any (fun q => q.tx == (inAwait x).tx && q.claims) = true := by
    show [p].any (fun q => q.tx == x.tx && q.claims) = true
    simp [h.row, Path.claims, h.proven]
  simp only [enterAwait, hmod, judgeColumn, hbusy', if_neg hphase, hheld, hown, Bool.or_true, if_true]

/-- SETTING needs none of its sub-steps (R177 to R180). -/
theorem Standing.sets : enterSetting n (withCtx n x c) = enterProving n (withCtx n (inSetting x) c) := by
  have hst : txStatic (withCtx n x c) x.tx = some st := h.static
  have hd : txDyn (withCtx n x c) x.tx = some d := h.dynamic
  have ha : antStatic (withCtx n x c) x.tAnt = some a := h.antenna
  have htuned : retuneStage (withCtx n x c).site.work st (ratableFreq d) x.tFreq = 0 := h.tuned
  have hplaced : positionNeeded (withCtx n x c) x.tAnt x.tPos = false := h.placed
  have hclosed : (claimPath (withCtx n x c) x.tx).any (fun p =>
      p.ant == x.tAnt && decide ((xpAt (withCtx n x c) p.row p.col).state = .closed)) = true := by
    have hclaim : claimPath (withCtx n x c) x.tx = some p := h.claims
    have hxp : (xpAt (withCtx n x c) p.row p.col).state = .closed := h.closed
    simp [hclaim, h.column, hxp]
  have hbusy' : busyCtx (withCtx n (inSetting x) c) n = some (inSetting x) := busyCtx_withCtx hbusy
  have hcheck : settingCheck n (withCtx n (inSetting x) c) = enterProving n (withCtx n (inSetting x) c) := by
    simp only [settingCheck, hbusy']
    exact if_pos ⟨rfl, rfl, rfl, rfl⟩
  simp only [enterSetting, busyCtx_withCtx hbusy, hst, hd, ha, htuned, hplaced, hclosed, ne_eq, not_true_eq_false,
    decide_false, Bool.not_true, Bool.false_eq_true, if_false, if_true, modCtx_withCtx]
  exact hcheck

/-- PROVING finds the path PROVEN (R181). -/
theorem Standing.proves : enterProving n (withCtx n x c) = enterRaising n (withCtx n x c) := by
  have hclaim : claimPath (withCtx n x c) x.tx = some p := h.claims
  simp only [enterProving, busyCtx_withCtx hbusy, hclaim, if_pos h.proven]

end Standing

/-- RAISING begins with the FEED (R182). -/
theorem InHand.raises (h : InHand c n x.tx st d) (hbusy : x.busy = true) (hrun : c.start.phase = .running)
    (hlocal : localFlag c x.tx d = false) (hfeed : 1 ≤ x.tFeed ∧ x.tFeed ≤ 32) : enterRaising n (withCtx n x c) =
      { withCtx n (raising c.clock st.tu x) c with link := withOwn (ctxFrame n x st (.feed x.tFeed)) c.link } := by
  have hst : txStatic (withCtx n x c) x.tx = some st := h.static
  have hmod : modCtx n (fun y => { y with
      phase := .raising, deadline := some (afterSeconds (withCtx n x c) (st.tu + 10)), raised := false }) (withCtx n x c) =
      withCtx n (raising c.clock st.tu x) c := modCtx_withCtx _
  have hin : InHand (withCtx n (raising c.clock st.tu x) c) n x.tx st d := { h with }
  simp only [enterRaising, busyCtx_withCtx hbusy, hst, hmod]
  exact hin.offers_feed hrun hlocal hfeed

/-- A START whose transmitter is off, runs nothing and stands as it wants it comes from MUTING to RAISING at once. -/
theorem Standing.goesOn (h : Standing c x.tx x.tAnt x.tFreq x.tPos st d a p) (hin : InHand c n x.tx st d)
    (hbusy : x.busy = true) (hstart : x.isEnd = false) (hoff : d.live = false) (hidle : d.running = none)
    (hrun : c.start.phase = .running) (hlocal : localFlag c x.tx d = false) (hfeed : 1 ≤ x.tFeed ∧ x.tFeed ≤ 32) :
    enterMuting n (withCtx n x c) = { withCtx n (raising c.clock st.tu (inSetting x)) c with
      link := withOwn (ctxFrame n x st (.feed x.tFeed)) c.link } := by
  have hmuted : Standing c (muted x).tx (muted x).tAnt (muted x).tFreq (muted x).tPos st d a p := h
  calc enterMuting n (withCtx n x c)
    _ = enterReleasing n (withCtx n (muted x) c) := enterMuting_off hin.dynamic hbusy hstart hoff hidle
    _ = enterAwait n (withCtx n (inReleasing c.clock c.site.work.site.sx (muted x)) c) := hmuted.releases hbusy
    _ = enterSetting n (withCtx n (inAwait (inReleasing c.clock c.site.work.site.sx (muted x))) c) :=
      Standing.awaits (x := inReleasing _ _ (muted x)) h hbusy
    _ = enterProving n (withCtx n (inSetting x) c) := Standing.sets (x := inAwait (inReleasing _ _ (muted x))) h hbusy
    _ = enterRaising n (withCtx n (inSetting x) c) := Standing.proves (x := inSetting x) h hbusy
    _ = _ := InHand.raises (x := inSetting x) hin hbusy hrun hlocal hfeed

end Sys2Proof.Proofs
end

section
/-! A due event is taken (R163, R164, R170, R171, R185): it leaves the plan, and the lowest free context takes its transmitter. -/

namespace Sys2Proof.Proofs
open Sys2Proof.Machine Sys2Proof.Laws

variable {s : State} {c : Ctl} {n : Nat} {x : Ctx} {st : TxStatic} {d : TxDyn} {p : Path} {v : Event} {e : EntryRec}
  {target : Target} {now : SiteTime} {log : List LogRec} {high : SiteTime}

/-! ## CLAIM (R171) -/

/-- The controller with a transmitter's owner field naming a context. -/
def owning (n tx : Nat) (d : TxDyn) (c : Ctl) : Ctl :=
  { c with gate := { c.gate with tx := tset tx { d with owner := .ctx n } c.gate.tx } }

theorem setOwner_ctx {tx : Nat} (hd : txDyn c tx = some d) (hheld : c.gate.held = []) :
    setOwner tx (.ctx n) c = owning n tx d c := by
  have hmod : modTx tx (fun d => { d with owner := .ctx n }) c = owning n tx d c := by
    simp only [modTx, Ctl.onGate, tmod_some _ hd]
    rfl
  have hnone : ¬ (TxOwner.ctx n = .none) := TxOwner.noConfusion
  simp only [setOwner, hmod, if_neg hnone]
  exact recheckWhere_empty (c := owning n tx d c) hheld _

theorem claimTests_free {priority : Nat} (ho : d.owner = .none)
    (hr : ∀ r, d.running = some r → overForClaim c v r = true) : claimTests c n priority v d = .free := by
  rcases claimTests_cases (c := c) (n := n) (priority := priority) (v := v) (d := d) with
    ⟨-, h | ⟨h, -⟩⟩ | ⟨r, h, hover, -⟩ | ⟨h, -⟩ | ⟨-, -, h⟩
  · simp [otherCtxOwns, ho] at h
  · simp [ho] at h
  · simp [hr r h] at hover
  · simp [ho] at h
  · exact h

/-- A running occurrence is over for a claim once its end has come, or where the START has absorbed its END. -/
theorem overForClaim_of {r : Running} (htime : c.plan.time = some now)
    (h : r.endTime ≤ now ∨ ∃ a, v.absorbed = some a ∧ a.occ = r.occ) : overForClaim c v r = true := by
  rcases h with h | ⟨a, ha, hocc⟩
  · simp [overForClaim, presentTime, htime, h]
  · exact overForClaim_absorbed ha hocc

theorem claim_free (hd : txDyn c x.tx = some d) (h : claimTests c n x.priority v d = .free) :
    claim n x v c = takeTx n x c := by simp only [claim, hd, h]

/-- A context with the antenna on which it finds its transmitter. -/
def withPrior (prior : Option Nat) (x : Ctx) : Ctx := { x with prior := prior }

/-- A path that a context owns. -/
def ownedPath (n : Nat) (p : Path) : Path := { p with owner := .ctx n }

/-- The controller with a transmitter and the paths given owned by a context, for the arbiter to look at. -/
def handed (n tx : Nat) (d : TxDyn) (paths : List Path) (c : Ctl) : Ctl :=
  { owning n tx d c with agenda := [.arbiter], matrix := { c.matrix with paths := paths } }

section Take
variable (hd : txDyn c x.tx = some d) (hheld : c.gate.held = []) (hrun : c.start.phase = .running) (ha : c.agenda = [])
include hd hheld

/-- The first steps by which a context takes its transmitter: the owner field, and the antenna it had before. -/
theorem owner_taken (prior : Option Nat) : modCtx n (fun y => { y with prior := prior })
    (setOwner x.tx (.ctx n) (withCtx n x c)) = withCtx n (withPrior prior x) (owning n x.tx d c) := by
  have howner : setOwner x.tx (.ctx n) (withCtx n x c) = withCtx n x (owning n x.tx d c) :=
    setOwner_ctx (c := withCtx n x c) hd hheld
  rw [howner, modCtx_withCtx]
  rfl

include hrun ha

/-- A transmitter without a path is taken. -/
theorem takeTx_noPath (hp : c.matrix.paths = []) :
    takeTx n x (withCtx n x c) = enterMuting n (withCtx n (withPrior none x) (handed n x.tx d [] c)) := by
  have hprior : (claimPath (withCtx n x c) x.tx).map (·.ant) = none := by simp [claimPath, withCtx, hp]
  have hpaths : (withCtx n (withPrior none x) (owning n x.tx d c)).matrix.paths = [] := hp
  have hchanged : tableChanged (withCtx n (withPrior none x) (owning n x.tx d c)) =
      withCtx n (withPrior none x) (handed n x.tx d [] c) := by
    rw [tableChanged_running (by exact hrun), pushOnce_new (by simp [withCtx, owning, ha])]
    simp only [withCtx, handed, owning, ha, List.nil_append, ← hp]
  simp only [takeTx, hprior, owner_taken hd hheld, hpaths, List.filter_nil, forEach_nil, hchanged]

/-- A transmitter with a path that stands is taken, and its path with it. -/
theorem takeTx_path (hp : c.matrix.paths = [p]) (hrow : p.tx = x.tx) (hst : p.state ≠ .releasing)
    (href : p.reference = none) : takeTx n x (withCtx n x c) =
      enterMuting n (withCtx n (withPrior (some p.ant) x) (handed n x.tx d [ownedPath n p] c)) := by
  have hprior : (claimPath (withCtx n x c) x.tx).map (·.ant) = some p.ant := by
    have hclaim : claimPath (withCtx n x c) x.tx = some p := claimPath_only (c := withCtx n x c) hp hrow hst
    rw [hclaim]
    rfl
  have hpaths : (withCtx n (withPrior (some p.ant) x) (owning n x.tx d c)).matrix.paths = [p] := hp
  have hclaims : (p.tx == x.tx && p.claims) = true := by simp [hrow, Path.claims, hst]
  have hnoResult : p.reference.isSome = false := by rw [href]; rfl
  have hpath : ({ p with owner := .ctx n, reference := none } : Path) = ownedPath n p := by rw [ownedPath, ← href]
  have hset : setPathRec (ownedPath n p) (withCtx n (withPrior (some p.ant) x) (owning n x.tx d c)) =
      withCtx n (withPrior (some p.ant) x) { owning n x.tx d c with
        matrix := { c.matrix with paths := [ownedPath n p] } } := setPathRec_only hpaths rfl
  have hchanged : tableChanged (withCtx n (withPrior (some p.ant) x) { owning n x.tx d c with
      matrix := { c.matrix with paths := [ownedPath n p] } }) =
      withCtx n (withPrior (some p.ant) x) (handed n x.tx d [ownedPath n p] c) := by
    rw [tableChanged_running (by exact hrun), pushOnce_new (by simp [withCtx, owning, ha])]
    simp only [withCtx, handed, owning, ha, List.nil_append]
  simp only [takeTx, hprior, owner_taken hd hheld, hpaths, List.filter_cons, hclaims, if_true, List.filter_nil, forEach_cons,
    forEach_nil, hnoResult, Bool.false_eq_true, if_false, hpath, hset, hchanged]

end Take

/-- An END takes a transmitter that no context owns (R185). -/
theorem takeEnd_unowned (hd : txDyn c v.tx = some d) (hheld : c.gate.held = []) (hown : ownedByCtx d = false) :
    takeEnd n v c = enterMuting n (withCtx n (takenCtx v none .none) (owning n v.tx d c)) := by
  have hd' : txDyn (c.onCu (tset n (takenCtx v none .none))) (takenCtx v none .none).tx = some d := hd
  simp only [takeEnd, hd', hown, Bool.false_eq_true, if_false]
  exact congrArg (enterMuting n) (setOwner_ctx (c := withCtx n (takenCtx v none .none) c) hd hheld)

/-! ## The event leaves the plan (R163, R164) -/

/-- The controller with the plan empty, H at a time and the log as given. -/
def dispatched (high : SiteTime) (log : List LogRec) (c : Ctl) : Ctl :=
  { c with plan := { c.plan with events := [], high := some high, log := log } }

theorem leavePlan_only (hv : c.plan.events = [v])
    (hlog : ∀ r ∈ c.plan.log, r.returned = true ∨ risenTo v.begin_ c.plan.high < r.start) :
    leavePlan v c = dispatched (risenTo v.begin_ c.plan.high) c.plan.log c := by
  have hremove : removeEvents (sameEvent v.kind v.occ) c = { c with plan := { c.plan with events := [] } } := by
    simp [removeEvents, Ctl.onPlan, hv, sameEvent]
  rw [leavePlan, hremove]
  exact raiseHigh_below hlog

/-- The TAKEN log record of a START (R155). -/
def startRecord (v : Event) : LogRec := { occ := v.occ, start := v.time, occEnd := v.occEnd, returned := false }

/-- The record is made, or a RETURNED one becomes TAKEN. -/
theorem recordOcc_start (h : c.plan.log = [] ∨ c.plan.log = [{ startRecord v with returned := true }]) :
    recordOcc (startRecord v) c = { c with plan := { c.plan with log := [startRecord v] } } := by
  rcases h with h | h
  · simp [recordOcc, logRec, h, Ctl.onPlan]
  · simp [recordOcc, logRec, h, Ctl.onPlan, startRecord]

/-! ## A due event, the only one of the plan (R163) -/

/-- The antenna of a START that passes the re-check has its record. -/
theorem startTarget_antenna (h : startTarget c v = some (e, target)) : ∃ a, antStatic c e.ant = some a := by
  unfold startTarget at h
  split at h
  · cases h
  · next e' _ =>
    split at h
    · next a _ ha =>
      obtain ⟨t, -, ht⟩ := Option.map_eq_some_iff.mp h
      cases ht
      exact ⟨a, ha⟩
    · cases h

/-- A due event, the only one of the plan of an otherwise calm controller, with the records of its transmitter. -/
structure DueAlone (c : Ctl) (v : Event) (st : TxStatic) (d : TxDyn) (now : SiteTime) : Prop where
  calm : Calm { c with plan := { c.plan with events := [] } }
  time : c.plan.time = some now
  only : c.plan.events = [v]
  unmasked : v.masked = false
  begun : v.begin_ ≤ now
  static : txStatic c v.tx = some st
  dynamic : txDyn c v.tx = some d
  known : stationClass c.site.work st.station = some .transmitter
  here : txOfStation c.site.work st.station = some v.tx
  room : c.link.plantQueue.length < 32

namespace DueAlone
variable (h : DueAlone c v st d now)
include h

theorem acting : actingTime c = some now := (if_pos h.calm.running).trans h.time

theorem noStop : c.hall.inForce = false := h.calm.noStop

theorem ready : ¬ (c.hall.inForce = true ∨ now < v.begin_ ∨ v.masked = true) := by
  simp [h.noStop, h.unmasked, Nat.not_lt.mpr h.begun]

theorem offered_start (hkind : v.kind = .start) : tryTake v c = takeDueStart v c := by
  simp only [tryTake, h.acting, if_neg h.ready, hkind]

theorem offered_finish (hkind : v.kind = .finish) : tryTake v c = takeDueEnd v c := by
  simp only [tryTake, h.acting, if_neg h.ready, hkind]

theorem eventDue_takes (hw : v.wait = none) : eventDue c = tryTake v c := by
  have hfind : c.plan.events.find? (fun v => decide (v.begin_ ≤ now) && !v.masked && v.wait.isNone) = some v := by
    rw [h.only]
    exact List.find?_cons_of_pos (by simp [h.begun, h.unmasked, hw])
  simp only [eventDue, h.acting, h.noStop, Bool.false_eq_true, if_false, hfind]

theorem returnEndReached_takes {t : SiteTime} (hkind : v.kind = .start) (hw : v.wait = some .transmitter)
    (hend : v.returnEnd = some t) (ht : t ≤ now) : returnEndReached v.occ c = tryTake v c := by
  have hevent : eventOf c .start v.occ = some v := by simp [eventOf, h.only, sameEvent, hkind]
  simp only [returnEndReached, h.acting, hevent, hw, hend, if_pos ht]

theorem free : freeContext c = some 1 := freeContext_first (c := c) h.calm.noContext

/-- A START whose entry maps to a position, and whose transmitter is free for it, is taken by the first context. -/
theorem start_taken (hkind : v.kind = .start) (hbegin : v.begin_ < v.time) (htarget : startTarget c v = some (e, target))
    (hhigh : c.plan.high = none) (howner : d.owner = .none)
    (hover : ∀ r, d.running = some r → r.endTime ≤ now ∨ ∃ a, v.absorbed = some a ∧ a.occ = r.occ)
    (hlog : c.plan.log = [] ∨ c.plan.log = [{ startRecord v with returned := true }]) :
    tryTake v c = takeTx 1 (takenCtx v (some e) target)
      (withCtx 1 (takenCtx v (some e) target) (dispatched v.begin_ [startRecord v] c)) := by
  have hroom : ¬ Config.logSize ≤ c.plan.log.length := by
    rcases hlog with hlog | hlog <;> simp [hlog, Config.logSize]
  have hleave : leavePlan v (recordOcc (startRecord v) c) = dispatched v.begin_ [startRecord v] c := by
    have hrisen : risenTo v.begin_ c.plan.high = v.begin_ := by rw [hhigh]; rfl
    rw [recordOcc_start hlog, leavePlan_only (c := { c with plan := { c.plan with log := [startRecord v] } }) h.only]
    · simp only [dispatched, hrisen]
    · simp only [hrisen]
      exact List.forall_mem_singleton.mpr (.inr hbegin)
  rw [h.offered_start hkind]
  simp only [takeDueStart, htarget, if_neg hroom, h.free]
  have htake : takeStart 1 { v with wait := none, returnEnd := none } e target
      (leavePlan v (recordOcc (startRecord v) c)) = takeTx 1 (takenCtx v (some e) target)
        (withCtx 1 (takenCtx v (some e) target) (dispatched v.begin_ [startRecord v] c)) := by
    rw [hleave]
    refine claim_free (x := takenCtx v (some e) target) (d := d) h.dynamic (claimTests_free howner fun r hr => ?_)
    exact overForClaim_of (now := now) h.time (hover r hr)
  exact htake

/-- An END of the running occurrence of a transmitter that no context owns is taken by the first context. -/
theorem end_taken {r : Running} (hkind : v.kind = .finish) (hr : d.running = some r) (hocc : r.occ = v.occ)
    (hown : ownedByCtx d = false) (hlog : c.plan.log = []) : tryTake v c = enterMuting 1
      (withCtx 1 (takenCtx v none .none) (owning 1 v.tx d (dispatched (risenTo v.begin_ c.plan.high) [] c))) := by
  have hruns : ((txDyn c v.tx).bind (·.running)).any (fun r => decide (r.occ = v.occ)) = true := by
    simp [h.dynamic, hr, hocc]
  have hleave : leavePlan v c = dispatched (risenTo v.begin_ c.plan.high) [] c := by
    rw [leavePlan_only h.only (by simp [hlog]), hlog]
  have htake := takeEnd_unowned (c := dispatched (risenTo v.begin_ c.plan.high) [] c) (n := 1) (v := { v with wait := none })
    h.dynamic h.calm.heldEmpty hown
  rw [h.offered_finish hkind]
  simp only [takeDueEnd, hruns, if_true, h.free, hleave]
  exact htake

/-- An END of another occurrence leaves the plan without effect. -/
theorem end_dropped (hkind : v.kind = .finish) (hother : ∀ r, d.running = some r → r.occ ≠ v.occ) :
    tryTake v c = { c with plan := { c.plan with events := [] } } := by
  have hruns : ((txDyn c v.tx).bind (·.running)).any (fun r => decide (r.occ = v.occ)) = false := by
    rw [h.dynamic, Option.bind_some]
    cases hr : d.running with
    | none => rfl
    | some r => exact decide_eq_false (hother r hr)
  rw [h.offered_finish hkind]
  simp only [takeDueEnd, hruns, Bool.false_eq_true, if_false]
  simp [removeEvents, Ctl.onPlan, h.only, sameEvent, hkind]

end DueAlone

/-! ## The step (R173, R175, R182) -/

/-- The controller once the first context has taken an event and offered an order to its transmitter. -/
def takenCtl (x : Ctx) (st : TxStatic) (d : TxDyn) (order : PlantVerb) (paths : List Path) (plan : Plan) (c : Ctl) : Ctl :=
  { c with
    link := withOwn (ctxFrame 1 x st order) c.link
    gate := { c.gate with tx := tset x.tx { d with owner := .ctx 1 } c.gate.tx }
    matrix := { c.matrix with paths := paths }
    plan := plan
    cu := tset 1 x c.cu }

/-- The plan without its event, with H and the log as given. -/
def takenPlan (high : SiteTime) (log : List LogRec) (p : Plan) : Plan :=
  { p with events := [], high := some high, log := log }

/-- Where the context has come to MUTING or to RAISING, the arbiter and the look at the columns find nothing to do. -/
theorem DueAlone.settles {f : Ctl → Ctl} {l : List Signal} {order : PlantVerb} {paths : List Path} {plan : Plan}
    (h : DueAlone s.ctl v st d now) (hphase : x.phase = .muting ∨ x.phase = .raising) (hl : l = [] ∨ l = [.arbiter])
    (hf : f s.ctl = { takenCtl x st d order paths plan s.ctl with agenda := l }) :
    act f s = .next { s with ctl := takenCtl x st d order paths plan s.ctl } := by
  have hcolumns : Inert .columns (takenCtl x st d order paths plan s.ctl) := by
    refine inert_columns_unjudged fun y hy hbusy => ?_
    rcases mem_tset hy with rfl | hy
    · rcases hphase with hphase | hphase <;> simp [hphase]
    · rw [h.calm.noContext y hy] at hbusy
      cases hbusy
  have harbiter : Inert .arbiter (takenCtl x st d order paths plan s.ctl) := inert_arbiter h.calm.moveEmpty
  rcases hl with rfl | rfl
  · exact act_leaves hf h.calm.settled (by simp) hcolumns (by decide) h.calm.opsTaken
  · exact act_leaves hf h.calm.settled (List.forall_mem_singleton.mpr harbiter) hcolumns (by decide) h.calm.opsTaken

section Outcomes
variable (h : DueAlone c v st d now)
include h

/-- The transmitter of the event once the first context owns it. -/
theorem DueAlone.inHand :
    InHand (owning 1 v.tx d (dispatched high log c)) 1 v.tx st { d with owner := .ctx 1 } where
  static := h.static
  dynamic := tget_tset_same ..
  owner := rfl
  known := h.known
  here := h.here
  room := ⟨h.room, h.calm.urgentEmpty, h.calm.internalEmpty, h.calm.portTaken⟩

/-- The paths that come with it have no part in that. -/
theorem DueAlone.inHand_handed (paths : List Path) :
    InHand (handed 1 v.tx d paths (dispatched high log c)) 1 v.tx st { d with owner := .ctx 1 } :=
  { h.inHand with }

/-- A START is muted while its transmitter is live. -/
theorem DueAlone.start_mutes (hlive : d.live = true) (hp : c.matrix.paths = []) :
    takeTx 1 (takenCtx v (some e) target) (withCtx 1 (takenCtx v (some e) target) (dispatched high log c)) =
      { takenCtl (muting c.clock st.tm (withPrior none (takenCtx v (some e) target))) st d .carrierOff []
        (takenPlan high log c.plan) c with agenda := [.arbiter] } := by
  rw [takeTx_noPath (c := dispatched high log c) (x := takenCtx v (some e) target) (d := d) h.dynamic h.calm.heldEmpty
    h.calm.running h.calm.settled hp]
  exact InHand.mutes (x := withPrior none (takenCtx v (some e) target)) (h.inHand_handed []) rfl hlive

/-- A START whose transmitter is off, runs nothing and stands as the entry wants it comes to RAISING. -/
theorem DueAlone.start_raises (hkind : v.kind = .start) (htarget : startTarget c v = some (e, target))
    (hoff : d.live = false) (hidle : d.running = none) (hp : c.matrix.paths = [p]) (hrow : p.tx = v.tx)
    (hcolumn : p.ant = e.ant) (hproven : p.state = .proven) (href : p.reference = none)
    (hclosed : (xpAt c p.row p.col).state = .closed) (htuned : retuneStage c.site.work st (ratableFreq d) e.freq = 0)
    (hplaced : positionNeeded c e.ant target = false) (hlocal : localFlag c v.tx d = false)
    (hfeed : 1 ≤ e.feed ∧ e.feed ≤ 32) :
    takeTx 1 (takenCtx v (some e) target) (withCtx 1 (takenCtx v (some e) target) (dispatched high log c)) =
      { takenCtl (raising c.clock st.tu (inSetting (withPrior (some e.ant) (takenCtx v (some e) target)))) st d
        (.feed e.feed) [ownedPath 1 p] (takenPlan high log c.plan) c with agenda := [.arbiter] } := by
  obtain ⟨a, ha⟩ := startTarget_antenna htarget
  have hstanding : Standing (handed 1 v.tx d [ownedPath 1 p] (dispatched high log c)) v.tx e.ant e.freq target st
      { d with owner := .ctx 1 } a (ownedPath 1 p) :=
    { paths := rfl, row := hrow, column := hcolumn, proven := hproven, closed := hclosed, static := h.static
      dynamic := (h.inHand_handed _).dynamic, antenna := ha, tuned := htuned, placed := hplaced }
  have hisEnd : (takenCtx v (some e) target).isEnd = false := by simp [takenCtx, hkind]
  rw [takeTx_path (c := dispatched high log c) (x := takenCtx v (some e) target) (d := d) h.dynamic h.calm.heldEmpty
    h.calm.running h.calm.settled hp hrow (by rw [hproven]; decide) href, hcolumn]
  exact Standing.goesOn (x := withPrior (some e.ant) (takenCtx v (some e) target)) hstanding (h.inHand_handed _) rfl hisEnd hoff
    hidle h.calm.running hlocal hfeed

/-- An END of the running occurrence of a live transmitter that no context owns is taken, and mutes it (R173, R185). -/
theorem DueAlone.end_mutes {r : Running} (hkind : v.kind = .finish) (hr : d.running = some r) (hocc : r.occ = v.occ)
    (hown : ownedByCtx d = false) (hlive : d.live = true) (hlog : c.plan.log = []) :
    tryTake v c = { takenCtl (muting c.clock st.tm (takenCtx v none .none)) st d .carrierOff c.matrix.paths
      (takenPlan (risenTo v.begin_ c.plan.high) [] c.plan) c with agenda := c.agenda } := by
  rw [h.end_taken hkind hr hocc hown hlog]
  exact InHand.mutes (x := takenCtx v none .none) h.inHand rfl hlive

end Outcomes

/-- Settles O56: the event, due and alone, is offered and taken, and the context goes as far as its transmitter lets it. -/
theorem aDueStartIsTaken : Obligations.ADueStartIsTaken := by
  intro s v st d now hc htime hv hmask hbegun hst hd hknown hhere hroom taken
  have h : DueAlone s.ctl v st d now := ⟨hc, htime, hv, hmask, hbegun, hst, hd, hknown, hhere, hroom⟩
  refine ⟨?starts, fun hkind hwait => ⟨?ends, ?dropped⟩⟩
  case starts =>
    intro e target hkind hbegin htarget hhigh howner hover goes
    have hisEnd : decide (v.kind = .finish) = false := by simp [hkind]
    have hstart := fun hlog => h.start_taken hkind hbegin htarget hhigh howner hover hlog
    refine ⟨fun hlive hp => ⟨fun hwait hlog => ?due, fun t hwait hend ht hlog => ?returned⟩, ?standing⟩
    case due =>
      have step := h.settles (f := eventDue) (.inl rfl) (.inr rfl)
        ((h.eventDue_takes hwait).trans ((hstart (.inl hlog)).trans (h.start_mutes hlive hp)))
      simp only [takenCtl, muting, withPrior, takenCtx, ctxFrame, ctxWork, hisEnd] at step
      exact step
    case returned =>
      have step := h.settles (f := returnEndReached v.occ) (.inl rfl) (.inr rfl)
        ((h.returnEndReached_takes hkind hwait hend ht).trans ((hstart (.inr hlog)).trans (h.start_mutes hlive hp)))
      simp only [takenCtl, muting, withPrior, takenCtx, ctxFrame, ctxWork, hisEnd] at step
      exact step
    case standing =>
      intro p hoff hidle hp hrow hcolumn hproven href hclosed htuned hplaced hlocal hfeed1 hfeed32 hwait hlog
      have step := h.settles (f := eventDue) (.inr rfl) (.inr rfl)
        ((h.eventDue_takes hwait).trans ((hstart (.inl hlog)).trans (h.start_raises hkind htarget hoff hidle hp hrow hcolumn
          hproven href hclosed htuned hplaced hlocal ⟨hfeed1, hfeed32⟩)))
      simp only [takenCtl, raising, inSetting, withPrior, takenCtx, ctxFrame, ctxWork, hisEnd] at step
      exact step
  case ends =>
    intro r hr hocc hown hlive hlog
    have hisEnd : decide (v.kind = .finish) = true := by simp [hkind]
    have step := h.settles (f := eventDue) (.inl rfl) (.inl hc.settled)
      ((h.eventDue_takes hwait).trans (h.end_mutes hkind hr hocc hown hlive hlog))
    simp only [takenCtl, muting, takenCtx, ctxFrame, ctxWork, hisEnd] at step
    exact step
  case dropped =>
    exact fun hother => act_settled ((h.eventDue_takes hwait).trans (h.end_dropped hkind hother)) rfl rfl hc.settled
      hc.opsTaken

end Sys2Proof.Proofs
end

section
/-! The cleanup of a START context (R187), where nothing else waits: the order that silences its transmitter, its job, its path
in each of its states, and the transmitter's owner. -/

namespace Sys2Proof.Proofs
open Sys2Proof.Machine Sys2Proof.Laws

variable {c : Ctl} {n code : Nat} {x : Ctx} {st : TxStatic} {d : TxDyn} {p : Path} {k : Link} {l : List Signal} {now : Millis}

/-! ## The transmitter's carrier and the antenna's job -/

/-- The CARRIER_OFF of a cleanup. -/
def cleanupOrder (st : TxStatic) : PFrame :=
  { dest := st.station, verb := .carrierOff, cls := .internal, origin := .gate .cleanup }

/-- The Link Interface once a cleanup has silenced a transmitter: a live one is sent a CARRIER_OFF, unless one that spares the
cleanup its own is under way. -/
def cleanedLink (st : TxStatic) (d : TxDyn) (k : Link) : Link :=
  if d.live = true ∧ framePending k (sparesCleanup st.station) = false then withOwn (cleanupOrder st) k else k

theorem cleanedLink_off (h : d.live = false) : cleanedLink st d k = k := if_neg (by simp [h])

/-- What a frame more in the plant queue leaves as it was, silencing a transmitter does. -/
theorem cleanedLink_keeps {α : Type} (f : Link → α) (hf : f (withOwn (cleanupOrder st) k) = f k) :
    f (cleanedLink st d k) = f k := by
  unfold cleanedLink; split
  · exact hf
  · rfl

theorem InHand.cleanupCarrier_eq (h : InHand c n x.tx st d) :
    cleanupCarrier x c = { c with link := cleanedLink st d c.link } := by
  have hlive : txLive c x.tx = d.live := by simp only [txLive, h.dynamic]
  have hverdict : gateVerdict (cleanupOrder st) c = .pass (cleanupOrder st).verb none :=
    (gateVerdict_transmitter h.known h.here h.static h.dynamic).trans (transmitterVerdict_carrierOff rfl)
  have hhere : txOfStation c.site.work (cleanupOrder st).dest = some x.tx := h.here
  have hoffer : offer (cleanupOrder st) c = { c with link := withOwn (cleanupOrder st) c.link } := by
    refine offer_joins rfl rfl h.room hverdict ?_ h.room.taken
    simp only [onAdmission, hhere]
    rfl
  simp only [cleanupCarrier, h.static, hlive, cleanedLink, Bool.not_eq_true']
  split
  · exact hoffer
  · rfl

/-- The antennas' records without the jobs of a context's work. -/
def withoutJobs (n : Nat) (w : Work) (t : Table AntDyn) : Table AntDyn :=
  t.map (fun a => (a.1, { a.2 with job := a.2.job.filter (fun j => decide (j.requester ≠ .ctx n w)) }))

theorem withdrawJob_eq {w : Work} : withdrawJob n w c = { c with aerial := withoutJobs n w c.aerial } := by
  refine congrArg (fun t => ({ c with aerial := t } : Ctl)) (List.map_congr_left (fun a _ => ?_))
  obtain ⟨i, a⟩ := a
  cases hj : a.job with
  | none => simp only [Option.filter_none]; rw [← hj]
  | some j =>
    by_cases hr : j.requester = .ctx n w
    · simp [hr, Option.filter]
    · simp only [hr, ne_eq, not_false_eq_true, decide_true, Option.filter, if_true, if_false]; rw [← hj]

theorem link_noWaiters {k : Link} (hu : k.urgentWaiters = []) (hi : k.internalWaiters = []) :
    { k with urgentWaiters := [], internalWaiters := [] } = k := by
  cases k; cases hu; cases hi; rfl

/-- Where no frame waits or is held, the cleanup's second step withdraws the job, and that alone. -/
theorem cleanupFrames_none (hu : c.link.urgentWaiters = []) (hi : c.link.internalWaiters = []) (hheld : c.gate.held = []) :
    cleanupFrames n x c = { c with aerial := withoutJobs n (ctxWork x) c.aerial } := by
  have hgate : ({ c.gate with held := [] } : Gate) = c.gate := by rw [← hheld]
  simp only [cleanupFrames, Ctl.onLink, Ctl.onGate, hu, hi, hheld, List.filter_nil, link_noWaiters hu hi, hgate,
    withdrawJob_eq]

/-- The controller after the first two steps of the cleanup of a START context. -/
def silenced (n : Nat) (x : Ctx) (st : TxStatic) (d : TxDyn) (c : Ctl) : Ctl :=
  { c with
    link := cleanedLink st d c.link, aerial := withoutJobs n { occ := x.occ, isEnd := false } c.aerial }

theorem InHand.silences (h : InHand c n x.tx st d) (hstart : x.isEnd = false) (hheld : c.gate.held = []) :
    cleanupFrames n x (cleanupCarrier x c) = silenced n x st d c := by
  rw [h.cleanupCarrier_eq, silenced, ← hstart]
  exact cleanupFrames_none (c := { c with link := cleanedLink st d c.link })
    ((cleanedLink_keeps (·.urgentWaiters) rfl).trans h.room.urgent)
    ((cleanedLink_keeps (·.internalWaiters) rfl).trans h.room.internal) hheld

/-! ## The context's path -/

/-- A path as a cleanup leaves it UNPROVEN. -/
def leftUnproven (now : Millis) (proof : Proof) (p : Path) : Path :=
  { p with
    owner := .operations, state := .unproven, since := if p.state = .unproven then p.since else now, stage := none
    proof := proof, reference := none }

/-- The path table and the movement queue as the cleanup leaves them of a context's path, the only one of the table; at
PROVING's deadline its proof runs on. -/
def leftBy (c : Ctl) (p : Path) (now : Millis) (runsOn : Bool) : List Path × List MoveReq :=
  let left := leftUnproven now (if runsOn then p.proof else .none) p
  let withdrawn := c.matrix.queue.filter (fun r => decide (r.pid ≠ p.pid))
  if p.proof ≠ .none then ([left], if runsOn then c.matrix.queue else withdrawn)
  else if p.state = .setting then
    (if p.granted = false ∧ (xpAt c p.row p.col).state = .opened then [] else [left], withdrawn)
  else ([{ p with owner := .operations }], c.matrix.queue)

/-- Without a proof in progress PROVING's deadline leaves a path as any other end of its context does. -/
theorem leftBy_noProof (h : p.proof = .none) : leftBy c p now true = leftBy c p now false := by
  simp [leftBy, h]

/-- The cleanup leaves no request in the movement queue where only those of a SETTING path without a proof stand there. -/
theorem leftBy_queue {runsOn : Bool}
    (h : ∀ r ∈ c.matrix.queue, p.state = .setting ∧ p.proof = .none ∧ r.pid = p.pid) : (leftBy c p now runsOn).2 = [] := by
  have hwithdrawn : c.matrix.queue.filter (fun r => decide (r.pid ≠ p.pid)) = [] :=
    List.filter_eq_nil_iff.mpr fun r hr => by
      obtain ⟨-, -, hpid⟩ := h r hr
      simp [hpid]
  have hempty : ¬ (p.state = .setting ∧ p.proof = .none) → c.matrix.queue = [] := fun hno =>
    List.eq_nil_iff_forall_not_mem.mpr fun r hr => by
      obtain ⟨hst, hproof, -⟩ := h r hr
      exact hno ⟨hst, hproof⟩
  unfold leftBy
  dsimp only
  by_cases hproof : p.proof = .none
  · by_cases hst : p.state = .setting
    · simp only [ne_eq, hproof, not_true_eq_false, if_false, hst, if_true, hwithdrawn]
    · simp only [ne_eq, hproof, not_true_eq_false, if_false, hst, hempty (fun hs => hst hs.1)]
  · rw [if_pos hproof]
    cases runsOn
    · exact hwithdrawn
    · exact hempty (fun hs => hproof hs.2)

/-- Nothing waits on a path: no frame, no hold and no request outside the movement queue. -/
structure Unawaited (c : Ctl) : Prop where
  settled : c.agenda = []
  internal : c.link.internalWaiters = []
  held : c.gate.held = []
  running : c.start.phase = .running
  moves : c.matrix.waiting = []

/-- The controller without a path's requests, for the arbiter to look at. -/
def withoutRequests (pid : Nat) (c : Ctl) : Ctl :=
  { c with
    agenda := [.arbiter]
    matrix := { c.matrix with queue := c.matrix.queue.filter (fun r => decide (r.pid ≠ pid)) } }

theorem Unawaited.withdraws (h : Unawaited c) (pid : Nat) :
    dropWaitingRead pid (withdrawRequest pid c) = withoutRequests pid c := by
  have hfilter : (fun r : MoveReq => r.pid != pid) = fun r => decide (r.pid ≠ pid) := by
    funext r
    by_cases hr : r.pid = pid <;> simp [hr]
  rw [withdrawRequest_of (.inl h.moves), pushOnce_new (by simp [h.settled])]
  refine (dropWaitingRead_none (by exact h.internal)).trans ?_
  simp only [withoutRequests, h.settled, List.nil_append, requestsBut, hfilter, h.moves, List.filter_nil]

/-- Nobody is told of the failure of a path that is nobody's. -/
theorem tellFailure_nobody {news : PathNews} (ho : p.owner = .idle) (href : p.reference = none) :
    tellFailure p news code c = c := by
  simp [tellFailure, Path.manual, ho, href]

/-- A context's path while its cleanup ends its setting or its proof. -/
def disowned (p : Path) : Path := { p with owner := .idle, reference := none }

/-- The path as its setting or proof has ended, before it passes to OPERATIONS. -/
def disownedUnproven (now : Millis) (p : Path) : Path := { leftUnproven now .none p with owner := .idle }

theorem enter_disowned (p : Path) (c : Ctl) :
    ({ (disowned p).enter c .unproven with stage := none, proof := .none, reference := none } : Path) =
      disownedUnproven c.clock p := by
  unfold Path.enter disownedUnproven leftUnproven disowned
  by_cases h : p.state = .unproven <;> simp [h]

/-- The controller whose one path has failed, its requests withdrawn. -/
def pathFailed (p : Path) (c : Ctl) : Ctl :=
  { withoutRequests p.pid c with
    matrix := { (withoutRequests p.pid c).matrix with paths := [disownedUnproven c.clock p] } }

/-- The controller whose one path has been removed, its requests withdrawn. -/
def pathRemoved (p : Path) (c : Ctl) : Ctl :=
  { withoutRequests p.pid c with
    agenda := removedSignals p, matrix := { (withoutRequests p.pid c).matrix with paths := [] } }

section Only
variable (h : Unawaited c) (hp : c.matrix.paths = [p])
include h hp

omit h in
theorem setPathRec_disowned : setPathRec { (disowned p).enter (withoutRequests p.pid c) .unproven with
    stage := none, proof := .none, reference := none } (withoutRequests p.pid c) = pathFailed p c := by
  rw [enter_disowned]
  exact setPathRec_only (p := disownedUnproven c.clock p) (c := withoutRequests p.pid c) hp rfl

/-- The proof of a context's path ends: nobody is told, and no frame was held on it (R82). -/
theorem failProof_disowned : failProof (disowned p) code c = pathFailed p c := by
  have hset := setPathRec_disowned hp
  simp only [failProof, h.withdraws]
  refine (congrArg (fun c => tableChanged (if p.state = .setting then failPathHolds p.tx c else c))
    ((tellFailure_nobody rfl rfl).trans hset)).trans ?_
  rw [failPathHolds_none (by exact h.held), ite_self, tableChanged_running (by exact h.running)]
  exact pushOnce_again (List.mem_singleton.mpr rfl)

/-- The setting of a context's path ends where nothing has been moved: the path is removed (R80). -/
theorem failSetting_disowned_removed (hopen : p.granted = false ∧ (xpAt c p.row p.col).state = .opened) :
    failSetting (disowned p) code c = pathRemoved p c := by
  have hcond : (!(disowned p).granted) = true ∧ (xpAt (withoutRequests p.pid c) p.row p.col).state = .opened :=
    ⟨by simp [disowned, hopen.1], hopen.2⟩
  have hremove : invokeInterlock p.tx (removePath p.pid (withoutRequests p.pid c)) = pathRemoved p c := by
    have hnone : c.matrix.paths.filter (fun q => q.pid != p.pid) = [] := by simp [hp]
    exact congrArg (fun l => ({ withoutRequests p.pid c with
      agenda := removedSignals p, matrix := { (withoutRequests p.pid c).matrix with paths := l } } : Ctl)) hnone
  simp only [failSetting, h.withdraws]
  refine (congrArg (fun c => tableChanged (failPathHolds p.tx c)) ((tellFailure_nobody rfl rfl).trans
    ((if_pos hcond).trans hremove))).trans ?_
  exact tableChanged_noHolds h.held h.running (by simp [pathRemoved, removedSignals])

/-- The setting of a context's path ends where something may have been moved: the path stays, UNPROVEN (R80). -/
theorem failSetting_disowned_kept (hopen : ¬ (p.granted = false ∧ (xpAt c p.row p.col).state = .opened)) :
    failSetting (disowned p) code c = pathFailed p c := by
  have hcond : ¬ ((!(disowned p).granted) = true ∧ (xpAt (withoutRequests p.pid c) p.row p.col).state = .opened) := by
    rw [Bool.not_eq_true']
    exact hopen
  have hset := setPathRec_disowned hp
  simp only [failSetting, h.withdraws]
  refine (congrArg (fun c => tableChanged (failPathHolds p.tx c)) ((tellFailure_nobody rfl rfl).trans
    ((if_neg hcond).trans hset))).trans ?_
  exact tableChanged_noHolds h.held h.running (List.mem_singleton.mpr rfl)

end Only

/-- What the cleanup of a transmitter's path leaves due: the arbiter's look, and with a path removed from under a transmitter
that is off the interlock's and the withdrawal's. -/
def PathDue (tx : Nat) (d : TxDyn) (l : List Signal) : Prop :=
  l = [.arbiter] ∨ l = [.arbiter, .interlock tx, .withdraw tx] ∧ d.live = false

theorem PathDue.arbiter {tx : Nat} (h : PathDue tx d l) : Signal.arbiter ∈ l := by
  rcases h with rfl | ⟨rfl, -⟩ <;> simp

theorem PathDue.noFreed {tx : Nat} (h : PathDue tx d l) : Signal.ctxFreed ∉ l := by
  rcases h with rfl | ⟨rfl, -⟩ <;> simp

/-- A path passes to OPERATIONS. -/
def handOver (pid : Nat) (c : Ctl) : Ctl := c.onMatrix (fun m => { m with paths := m.paths.map (fun q =>
  if q.pid = pid then { q with owner := .operations } else q) })

theorem handOver_pathFailed (p : Path) (c : Ctl) : handOver p.pid (pathFailed p c) = { withoutRequests p.pid c with
    matrix := { (withoutRequests p.pid c).matrix with paths := [leftUnproven c.clock .none p] } } := by
  have hleft : [disownedUnproven c.clock p].map (fun q => if q.pid = p.pid then { q with owner := .operations } else q) =
      [leftUnproven c.clock .none p] := by simp [disownedUnproven, leftUnproven]
  exact congrArg (fun l => ({ withoutRequests p.pid c with
    matrix := { (withoutRequests p.pid c).matrix with paths := l } } : Ctl)) hleft

theorem cleanupPath_of (hp : c.matrix.paths = [p]) : cleanupPath code p.pid c = handOver p.pid
    (if p.proof ≠ .none then failProof (disowned p) code c
     else if p.state = .setting then failSetting (disowned p) code c else c) := by
  have hfound : pathOf c p.pid = some p := by simp [pathOf, hp]
  simp only [cleanupPath, hfound]
  rfl

/-- The controller as the cleanup of its one path leaves it, with the consequences given. -/
def pathLeft (p : Path) (l : List Signal) (c : Ctl) : Ctl := { c with
  agenda := l
  matrix := { c.matrix with paths := (leftBy c p c.clock false).1, queue := (leftBy c p c.clock false).2 } }

/-- The cleanup of a context's path, the only one of the table: its proof ends, or its setting, or it stands as it is. -/
theorem cleanupPath_only (h : Unawaited c) (hp : c.matrix.paths = [p]) (hlive : p.state = .setting → d.live = false) :
    ∃ l, (l = [] ∨ PathDue p.tx d l) ∧ cleanupPath code p.pid c = pathLeft p l c := by
  rw [cleanupPath_of hp]
  by_cases hproof : p.proof = .none
  case neg =>
    refine ⟨[.arbiter], .inr (.inl rfl), ?_⟩
    rw [if_pos hproof, failProof_disowned h hp, handOver_pathFailed]
    simp [pathLeft, leftBy, hproof, withoutRequests]
  rw [if_neg (not_not.mpr hproof)]
  by_cases hst : p.state = .setting
  case neg =>
    refine ⟨[], .inl rfl, ?_⟩
    rw [if_neg hst]
    simp [pathLeft, leftBy, hproof, hst, handOver, Ctl.onMatrix, hp, ← h.settled]
  rw [if_pos hst]
  by_cases hopen : p.granted = false ∧ (xpAt c p.row p.col).state = .opened
  · refine ⟨removedSignals p, .inr (.inr ⟨rfl, hlive hst⟩), ?_⟩
    rw [failSetting_disowned_removed h hp hopen]
    simp [pathLeft, leftBy, hproof, hst, hopen, handOver, pathRemoved, Ctl.onMatrix, withoutRequests]
  · refine ⟨[.arbiter], .inr (.inl rfl), ?_⟩
    rw [failSetting_disowned_kept h hp hopen, handOver_pathFailed]
    simp [pathLeft, leftBy, hproof, hst, hopen, withoutRequests]

/-- The cleanup finds the context's path, the only one of the table. -/
theorem cleanupPaths_only (h : Unawaited c) (hp : c.matrix.paths = [p]) (ho : p.owner = .ctx n)
    (hlive : p.state = .setting → d.live = false) : ∃ l, PathDue p.tx d l ∧ cleanupPaths n code c = pathLeft p l c := by
  obtain ⟨l, hdue, hpath⟩ := cleanupPath_only (code := code) h hp hlive
  have hown : [p].filter (fun p => decide (p.owner = .ctx n)) = [p] := by simp [ho]
  simp only [cleanupPaths, hp, hown, List.map_cons, List.map_nil, forEach_cons, forEach_nil, hpath]
  rw [tableChanged_running (by exact h.running)]
  rcases hdue with rfl | hdue
  · exact ⟨[.arbiter], .inl rfl, pushOnce_new List.not_mem_nil⟩
  · exact ⟨l, hdue, pushOnce_again hdue.arbiter⟩

/-- The cleanup finds no path of the context. -/
theorem cleanupPaths_none (hrun : c.start.phase = .running) (h : ∀ p ∈ c.matrix.paths, p.owner ≠ .ctx n) :
    cleanupPaths n code c = pushOnce .arbiter c := by
  have hnone : c.matrix.paths.filter (fun p => decide (p.owner = .ctx n)) = [] :=
    List.filter_eq_nil_iff.mpr (fun p hp => by simp [h p hp])
  simp only [cleanupPaths, hnone, List.map_nil, forEach_nil]
  exact tableChanged_running hrun

/-- At PROVING's deadline a path without a proof in progress is left to the cleanup. -/
theorem proofRunsOn_noProof (hp : c.matrix.paths = [p]) (hproof : p.proof = .none) : proofRunsOn n c = c := by
  simp [proofRunsOn, hp, hproof, forEach_nil]

/-- The controller whose one path is UNPROVEN and of OPERATIONS, its proof running on. -/
def provingOn (p : Path) (c : Ctl) : Ctl :=
  { c with matrix := { c.matrix with paths := [leftUnproven c.clock p.proof p] } }

/-- At PROVING's deadline a proof in progress runs on (R181). -/
theorem proofRunsOn_proof (h : Unawaited c) (hp : c.matrix.paths = [p]) (ho : p.owner = .ctx n) (hproof : p.proof ≠ .none) :
    proofRunsOn n c = { provingOn p c with agenda := [.arbiter] } := by
  have hown : [p].filter (fun p => decide (p.owner = .ctx n) && decide (p.proof ≠ .none)) = [p] := by simp [ho, hproof]
  have hfound : pathOf c p.pid = some p := by simp [pathOf, hp]
  have hleft : ({ p.enter c .unproven with stage := none, reference := none, owner := .operations } : Path) =
      leftUnproven c.clock p.proof p := by
    unfold Path.enter leftUnproven
    by_cases hst : p.state = .unproven <;> simp [hst]
  have hset : setPathRec (leftUnproven c.clock p.proof p) c = provingOn p c := setPathRec_only hp rfl
  simp only [proofRunsOn, hp, hown, List.map_cons, List.map_nil, forEach_cons, forEach_nil, hfound, hleft, hset]
  rw [failPathHolds_none (by exact h.held), ite_self, tableChanged_running (by exact h.running)]
  exact (pushOnce_new (by simp [provingOn, h.settled])).trans (by simp [provingOn, h.settled])

/-! ## The transmitter -/

/-- The transmitter's owner field becomes NONE; it runs nothing. -/
theorem cleanupTx_idle (hd : txDyn c x.tx = some d) (ho : d.owner = .ctx n) (hidle : d.running = none)
    (hheld : c.gate.held = []) : cleanupTx n x c = { c with
      agenda := c.agenda ++ [.offerReturned x.tx]
      gate := { c.gate with tx := tset x.tx { d with owner := .none } c.gate.tx } } := by
  have hmod : modTx x.tx (fun d => { d with owner := .none }) c =
      { c with gate := { c.gate with tx := tset x.tx { d with owner := .none } c.gate.tx } } := by
    simp only [modTx, Ctl.onGate, tmod_some _ hd]
  simp only [cleanupTx, hd, Option.bind_some, hidle, releaseOwner, ho, if_true, setOwner, hmod]
  rw [recheckWhere_empty (by exact hheld)]
  rfl

end Sys2Proof.Proofs
end

section
/-! The deadlines of a context, and the end of its occurrence (R173, R174, R177, R181, R182, R184, R186): a START context, the
only one BUSY, ends with its cleanup. -/

namespace Sys2Proof.Proofs
open Sys2Proof.Machine Sys2Proof.Laws

variable {s : State} {c : Ctl} {n : Nat} {x y : Ctx} {st : TxStatic} {d : TxDyn} {p : Path} {l l' : List Signal}
  {reason : Failure} {paths : List Path} {queue : List MoveReq} {t : Millis} {phase : CtxPhase} {r : Report}

/-! ## A context that ends -/

/-- A START context with its transmitter in hand, which runs nothing, where nothing but the movement queue waits. -/
structure Ending (c : Ctl) (n : Nat) (x : Ctx) (st : TxStatic) (d : TxDyn) : Prop where
  quiet : Quiet { c with matrix := { c.matrix with queue := [] } }
  hand : InHand c n x.tx st d
  start : x.isEnd = false
  idle : d.running = none
  reports : c.link.reports.length < 32

theorem Ending.reached (h : Ending c n x st d) (t : Millis) : Ending (clockReaches t c) n x st d :=
  ⟨{ h.quiet with }, { h.hand with }, h.start, h.idle, h.reports⟩

theorem Ending.withPaths (h : Ending c n x st d) (paths : List Path) :
    Ending { c with matrix := { c.matrix with paths := paths } } n x st d :=
  ⟨{ h.quiet with }, { h.hand with }, h.start, h.idle, h.reports⟩

theorem Ending.withCu (h : Ending c n x st d) (cu : Table Ctx) : Ending { c with cu := cu } n x st d :=
  ⟨{ h.quiet with }, { h.hand with }, h.start, h.idle, h.reports⟩

theorem Ending.unawaited (h : Ending c n x st d) : Unawaited c :=
  ⟨h.quiet.settled, h.quiet.internalEmpty, h.quiet.heldEmpty, h.quiet.running, h.quiet.moveWaitingEmpty⟩

theorem Ending.unawaited_silenced (h : Ending c n x st d) : Unawaited (silenced n x st d c) :=
  { h.unawaited with internal := (cleanedLink_keeps (·.internalWaiters) rfl).trans h.quiet.internalEmpty }

/-- What the cleanup's last steps leave due. -/
def endSignals (x : Ctx) : List Signal := [.offerReturned x.tx, .occFailed x.occ]

/-- The controller after the cleanup of a context, with the paths and the requests that it leaves. -/
def cleaned (n : Nat) (x : Ctx) (st : TxStatic) (d : TxDyn) (paths : List Path) (queue : List MoveReq) (c : Ctl) : Ctl :=
  { silenced n x st d c with
    gate := { c.gate with tx := tset x.tx { d with owner := .none } c.gate.tx }
    matrix := { c.matrix with paths := paths, queue := queue } }

/-- The cleanup finds the context's paths as given, and leaves `l` due of them. -/
def PathsCleaned (n : Nat) (x : Ctx) (st : TxStatic) (d : TxDyn) (code : Nat) (l l' : List Signal) (paths : List Path)
    (queue : List MoveReq) (c : Ctl) : Prop :=
  cleanupPaths n code { silenced n x st d c with agenda := l } =
    { silenced n x st d c with agenda := l', matrix := { c.matrix with paths := paths, queue := queue } }

theorem Ending.cleanup_leaves {code : Nat} (h : Ending c n x st d)
    (hp : PathsCleaned n x st d code l l' paths queue c) : cleanup n x code { c with agenda := l } =
      { cleaned n x st d paths queue c with agenda := l' ++ endSignals x } := by
  have hhand : InHand { c with agenda := l } n x.tx st d := { h.hand with }
  have hsilenced : cleanupFrames n x (cleanupCarrier x { c with agenda := l }) =
      { silenced n x st d c with agenda := l } := hhand.silences h.start h.quiet.heldEmpty
  simp only [cleanup, hsilenced]
  rw [hp, cleanupTx_idle (by exact h.hand.dynamic) h.hand.owner h.idle (by exact h.quiet.heldEmpty)]
  exact congrArg (fun l => ({ cleaned n x st d paths queue c with agenda := l } : Ctl)) (List.append_assoc ..)

/-- The controller after a context has ended with a report: its cleanup is done and it is FREE. -/
def endedCtl (n : Nat) (x y : Ctx) (st : TxStatic) (d : TxDyn) (r : Report) (paths : List Path) (queue : List MoveReq)
    (c : Ctl) : Ctl :=
  { cleaned n x st d paths queue c with
    link := withReport r (cleanedLink st d c.link), cu := [(n, { y with busy := false })] }

theorem modCtx_only {f : Ctx → Ctx} (hcu : c.cu = [(n, y)]) : modCtx n f c = { c with cu := [(n, f y)] } := by
  simp [modCtx, Ctl.onCu, hcu, tmod, tget, tset]

/-- The only context frees, with none of its frames waiting. -/
theorem freeCtx_only {outcome : CtxOutcome} (hcu : c.cu = [(n, y)]) (hu : c.link.urgentWaiters = [])
    (hi : c.link.internalWaiters = []) : freeCtx n outcome c =
      pushOnce .ctxFreed { c with cu := [(n, { y with busy := false, outcome := outcome })] } := by
  have hlink : c.onLink (fun k => { k with
      urgentWaiters := k.urgentWaiters.filter (fun f => !madeByCtx n f)
      internalWaiters := k.internalWaiters.filter (fun f => !madeByCtx n f) }) = c := by
    simp only [Ctl.onLink, hu, hi, List.filter_nil, link_noWaiters hu hi]
  rw [freeCtx, hlink, modCtx_only hcu]

section Leaves
variable {code : Nat} (h : Ending c n x st d)
include h

/-- A report is raised once the cleanup is done. -/
theorem Ending.raises_report {kind : ReportKind} {subject : Subject} {detail qualifier : Nat} {figure : Option Int}
    {ref : Option Ref} (hp : PathsCleaned n x st d code l l' paths queue c) :
    raise kind subject detail qualifier figure ref (cleanup n x code { c with agenda := l }) =
      { cleaned n x st d paths queue c with
        agenda := l' ++ endSignals x
        link := withReport (reportNow c kind subject detail qualifier figure ref) (cleanedLink st d c.link) } := by
  have hroom : (cleanedLink st d c.link).reports.length < 32 := by
    rw [cleanedLink_keeps (·.reports) rfl]
    exact h.reports
  rw [h.cleanup_leaves hp, raise_room (by exact hroom)]
  rfl

/-- The context frees behind its report. -/
theorem Ending.frees {outcome : CtxOutcome} (hl : Signal.ctxFreed ∉ l') : freeCtx n outcome
    { cleaned n x st d paths queue c with
      agenda := l' ++ endSignals x, link := withReport r (cleanedLink st d c.link), cu := [(n, y)] } =
    { endedCtl n x { y with outcome := outcome } st d r paths queue c with agenda := l' ++ endSignals x ++ [.ctxFreed] } := by
  rw [freeCtx_only rfl ((cleanedLink_keeps (·.urgentWaiters) rfl).trans h.quiet.urgentEmpty)
    ((cleanedLink_keeps (·.internalWaiters) rfl).trans h.quiet.internalEmpty)]
  exact pushOnce_new (by simp [hl, endSignals])

end Leaves

/-- The context's record as it fails of itself, with cause 0. -/
def failedCtx (reason : Failure) (x : Ctx) : Ctx := { x with outcome := .failed, reason := some reason, cause := 0 }

/-- ALARM CHANGEOVER_FAILED (R186). -/
def failureReport (c : Ctl) (n : Nat) (x : Ctx) (reason : Failure) : Report :=
  reportNow c .changeoverFailed (.entry x.occ.bank x.occ.id) reason.code x.phase.code (some n) none

/-- NOTICE MISSED (R184). -/
def missReport (c : Ctl) (x : Ctx) (detail : Failure) : Report :=
  reportNow c .missed (.entry x.occ.bank x.occ.id) detail.code 0 (some x.occ.day) none

section Ends
variable (h : Ending c n x st d) (hcu : c.cu = [(n, y)]) (hdue : PathDue x.tx d l')

theorem txLive_endedCtl : txLive (endedCtl n x y st d r paths queue c) x.tx = d.live := by
  have hd : txDyn (endedCtl n x y st d r paths queue c) x.tx = some { d with owner := .none } := tget_tset_same ..
  simp only [txLive, hd]
  rfl

include h

/-- The end of a context whose transmitter is off leaves every queued CARRIER_ON its live transmitter. -/
theorem Ending.carriersLive (hoff : d.live = false) : CarriersLive (endedCtl n x y st d r paths queue c) := by
  intro q hq hv z hz hstation
  have hq' : q ∈ c.link.plantQueue := by rwa [endedCtl, cleanedLink_off hoff] at hq
  have hbefore : txLive c z.1 = true := h.quiet.carriersLive q hq' hv z hz hstation
  by_cases hz1 : z.1 = x.tx
  · rw [hz1, txLive, h.hand.dynamic] at hbefore
    exact absurd (hoff.symm.trans hbefore) Bool.false_ne_true
  · have hother : txDyn (endedCtl n x y st d r paths queue c) z.1 = txDyn c z.1 := tget_tset_other _ _ hz1
    rwa [txLive, hother]

include hdue

/-- What the cleanup of the path has left due finds nothing to do once the context has ended. -/
theorem Ending.pathDue_inert (harbiter : Inert .arbiter (endedCtl n x y st d r paths queue c)) :
    ∀ z ∈ l', Inert z (endedCtl n x y st d r paths queue c) := by
  rcases hdue with rfl | ⟨rfl, hoff⟩
  · exact List.forall_mem_singleton.mpr harbiter
  · have hlive : txLive (endedCtl n x y st d r paths queue c) x.tx = false := txLive_endedCtl.trans hoff
    have hcondition : interlockCondition (endedCtl n x y st d r paths queue c) x.tx = false := by
      rw [interlockCondition, hlive, Bool.false_and]
    simp only [List.forall_mem_cons, List.not_mem_nil, false_imp_iff, implies_true, and_true]
    exact ⟨harbiter, inert_interlock hcondition, inert_withdraw_live (h.carriersLive hoff) hlive⟩

/-- Where its cleanup has left nothing to grant, a step by which the context ends settles at once. -/
theorem Ending.act_ends {f : Ctl → Ctl}
    (hslots : (∀ k ∈ [1, 2, 3, 4], (tget k c.matrix.slots).isSome = true) ∨ queue = [])
    (hf : f s.ctl = { endedCtl n x y st d r paths queue c with agenda := l' ++ endSignals x ++ [.ctxFreed] }) :
    act f s = .next { s with ctl := endedCtl n x y st d r paths queue c } := by
  have hfree : ∀ z ∈ (endedCtl n x y st d r paths queue c).cu, z.2.busy = false := by simp [endedCtl]
  have hplan : (endedCtl n x y st d r paths queue c).plan.events = [] := h.quiet.planEmpty
  have harbiter : Inert .arbiter (endedCtl n x y st d r paths queue c) := by
    rcases hslots with htaken | hnone
    · exact inert_arbiter_noSlot (freeSlotOf_taken htaken)
    · exact inert_arbiter hnone
  have hends : ∀ z ∈ endSignals x, Inert z (endedCtl n x y st d r paths queue c) := by
    simp only [endSignals, List.forall_mem_cons, List.not_mem_nil, false_imp_iff, implies_true, and_true]
    exact ⟨inert_offerReturned hplan _, inert_occFailed hplan _⟩
  have hsize : l'.length ≤ 3 := by rcases hdue with rfl | ⟨rfl, -⟩ <;> simp
  refine act_leaves hf h.quiet.settled (fun z hz => ?_) (inert_columns hfree)
    (by simp only [List.length_append, endSignals, List.length_cons, List.length_nil]; omega)
    ((cleanedLink_keeps (fun k => k.opsTx.isSome || k.opsHeldOff) rfl).trans h.quiet.opsTaken)
  rw [List.mem_append, List.mem_append, List.mem_singleton] at hz
  rcases hz with (hz | hz) | rfl
  · exact h.pathDue_inert hdue harbiter z hz
  · exact hends z hz
  · exact inert_ctxFreed hplan

include hcu

/-- A START context fails (R186). -/
theorem Ending.failCtx_leaves (hp : PathsCleaned n x st d reason.code l l' paths queue c) :
    failCtx n x reason 0 { c with agenda := l } =
      { endedCtl n x (failedCtx reason y) st d (failureReport c n x reason) paths queue c with
        agenda := l' ++ endSignals x ++ [.ctxFreed] } := by
  simp only [failCtx, h.start, Bool.false_eq_true, if_false, failedReport, h.raises_report hp]
  rw [modCtx_only (by exact hcu)]
  exact h.frees (y := { y with reason := some reason, cause := 0 }) hdue.noFreed

/-- The end of a START context's occurrence has passed (R184). -/
theorem Ending.missCtx_leaves {detail : Failure} (hdetail : (if x.phase = .awaitAntenna then .antennaHeld else .ended) = detail)
    (hp : PathsCleaned n x st d detail.code [] l' paths queue c) : missCtx n x c =
      { endedCtl n x { y with outcome := .missed } st d (missReport c x detail) paths queue c with
        agenda := l' ++ endSignals x ++ [.ctxFreed] } := by
  have hempty : ({ c with agenda := [] } : Ctl) = c := by rw [← h.quiet.settled]
  have hraised := h.raises_report (kind := .missed) (subject := .entry x.occ.bank x.occ.id) (detail := detail.code)
    (qualifier := 0) (figure := some x.occ.day) (ref := none) hp
  rw [hempty] at hraised
  simp only [missCtx, hdetail, missed, hraised]
  have hfrees := h.frees (y := y) (paths := paths) (queue := queue) (r := missReport c x detail) (outcome := .missed)
    hdue.noFreed
  rw [← hcu] at hfrees
  exact hfrees

end Ends

/-! ## The context's paths -/

/-- The context's path is the only one of the table; while it is SETTING its transmitter is off, and the movement queue holds
nothing that could be granted but what its cleanup withdraws. -/
structure OnlyPath (c : Ctl) (n : Nat) (x : Ctx) (d : TxDyn) (p : Path) : Prop where
  only : c.matrix.paths = [p]
  owner : p.owner = .ctx n
  row : p.tx = x.tx
  off : p.state = .setting → d.live = false
  requests : (∀ k ∈ [1, 2, 3, 4], (tget k c.matrix.slots).isSome = true) ∨
    ∀ r ∈ c.matrix.queue, p.state = .setting ∧ p.proof = .none ∧ r.pid = p.pid

theorem OnlyPath.slots (h : OnlyPath c n x d p) (now : Millis) (runsOn : Bool) :
    (∀ k ∈ [1, 2, 3, 4], (tget k c.matrix.slots).isSome = true) ∨ (leftBy c p now runsOn).2 = [] :=
  h.requests.imp_right leftBy_queue

theorem Ending.pathCleaned (h : Ending c n x st d) (hp : OnlyPath c n x d p) (code : Nat) :
    ∃ l', PathDue x.tx d l' ∧
      PathsCleaned n x st d code [] l' (leftBy c p c.clock false).1 (leftBy c p c.clock false).2 c := by
  have hempty : ({ silenced n x st d c with agenda := [] } : Ctl) = silenced n x st d c := by
    rw [← h.unawaited_silenced.settled]
  obtain ⟨l', hdue, hpaths⟩ := cleanupPaths_only (code := code) h.unawaited_silenced hp.only hp.owner hp.off
  refine ⟨l', hp.row ▸ hdue, ?_⟩
  rw [PathsCleaned, hempty, hpaths]
  rfl

theorem Ending.noPathCleaned (h : Ending c n x st d) (hp : ∀ p ∈ c.matrix.paths, p.owner ≠ .ctx n)
    (hl : l = [] ∨ l = [.arbiter]) (code : Nat) :
    PathsCleaned n x st d code l [.arbiter] c.matrix.paths c.matrix.queue c := by
  rw [PathsCleaned, cleanupPaths_none (by exact h.quiet.running) (by exact hp)]
  rcases hl with rfl | rfl
  · exact pushOnce_new List.not_mem_nil
  · exact pushOnce_again (List.mem_singleton.mpr rfl)

/-- A step by which the context fails, its path left to the cleanup. -/
theorem Ending.act_fails {f : Ctl → Ctl} (h : Ending c n x st d) (hcu : c.cu = [(n, y)]) (hp : OnlyPath c n x d p)
    (hf : f s.ctl = failCtx n x reason 0 c) : act f s = .next { s with
      ctl := endedCtl n x (failedCtx reason y) st d (failureReport c n x reason) (leftBy c p c.clock false).1
        (leftBy c p c.clock false).2 c } := by
  have hempty : ({ c with agenda := [] } : Ctl) = c := by rw [← h.quiet.settled]
  obtain ⟨l', hdue, hpaths⟩ := h.pathCleaned hp reason.code
  have hfail := h.failCtx_leaves hcu hdue hpaths
  rw [hempty] at hfail
  exact h.act_ends hdue (hp.slots _ _) (hf.trans hfail)

/-! ## Deadlines -/

section Deadlines
variable (h : Ending s.ctl n x st d) (hcu : s.ctl.cu = [(n, x)]) (hbusy : x.busy = true) (hp : OnlyPath s.ctl n x d p)

theorem busyCtx_only (hcu : c.cu = [(n, x)]) (hbusy : x.busy = true) : busyCtx c n = some x := by
  simp [busyCtx, hcu, tget, hbusy]

include h hcu hbusy hp

/-- The deadline of a phase but PROVING expires (R173, R174, R182). -/
theorem Ending.phaseDeadline_fails (ht : x.deadline = some t) (hphase : x.phase = phase) (hproving : phase ≠ .proving) :
    act (phaseDeadline n phase reason) s = .next { s with
      ctl := endedCtl n x (failedCtx reason x) st d (failureReport s.ctl n x reason)
        (leftBy s.ctl p (max s.ctl.clock t) false).1 (leftBy s.ctl p (max s.ctl.clock t) false).2
        (clockReaches t s.ctl) } := by
  have hf : phaseDeadline n phase reason s.ctl = failCtx n x reason 0 (clockReaches t s.ctl) := by
    simp only [phaseDeadline, busyCtx_only hcu hbusy, ht, if_pos hphase, if_neg hproving]
  exact (h.reached t).act_fails hcu { hp with } hf

/-- The deadline of PROVING expires: a proof in progress runs on (R181). -/
theorem Ending.proveDeadline_fails (ht : x.deadline = some t) (hphase : x.phase = .proving) :
    act (phaseDeadline n .proving reason) s = .next { s with
      ctl := endedCtl n x (failedCtx reason x) st d (failureReport s.ctl n x reason)
        (leftBy s.ctl p (max s.ctl.clock t) true).1 (leftBy s.ctl p (max s.ctl.clock t) true).2
        (clockReaches t s.ctl) } := by
  have hf : phaseDeadline n .proving reason s.ctl =
      failCtx n x reason 0 (proofRunsOn n (clockReaches t s.ctl)) := by
    simp only [phaseDeadline, busyCtx_only hcu hbusy, ht, if_pos hphase, if_true]
  have hreached := h.reached t
  by_cases hproof : p.proof = .none
  · rw [leftBy_noProof hproof]
    exact hreached.act_fails hcu { hp with } (hf.trans (congrArg _ (proofRunsOn_noProof hp.only hproof)))
  · have hleft : leftBy s.ctl p (max s.ctl.clock t) true =
        ([leftUnproven (max s.ctl.clock t) p.proof p], s.ctl.matrix.queue) := if_pos hproof
    have hslots := hp.slots (max s.ctl.clock t) true
    rw [hleft] at hslots ⊢
    have hnone : ∀ q ∈ (provingOn p (clockReaches t s.ctl)).matrix.paths, q.owner ≠ .ctx n := by
      simp [provingOn, leftUnproven]
    have hon : Ending (provingOn p (clockReaches t s.ctl)) n x st d := hreached.withPaths _
    refine hon.act_ends (.inl rfl) hslots (hf.trans ?_)
    rw [proofRunsOn_proof hreached.unawaited hp.only hp.owner hproof]
    exact hon.failCtx_leaves hcu (.inl rfl) (hon.noPathCleaned hnone (.inr rfl) _)

/-- The deadline of a sub-step that is PENDING or RUNNING expires (R177). -/
theorem Ending.subDeadline_fails {sub : SubStep} (hphase : x.phase = .setting) (ht : (subOf sub x).deadline = some t)
    (hopen : (subOf sub x).status = .pending ∨ (subOf sub x).status = .running) :
    act (subDeadline n sub) s = .next { s with
      ctl := endedCtl n x (failedCtx (subReason sub) (setSub sub { status := .failed, deadline := some t } x)) st d
        (failureReport s.ctl n x (subReason sub))
        (leftBy s.ctl p (max s.ctl.clock t) false).1 (leftBy s.ctl p (max s.ctl.clock t) false).2
        (clockReaches t s.ctl) } := by
  have hset : Ending { clockReaches t s.ctl with
      cu := [(n, setSub sub { status := .failed, deadline := some t } x)] } n x st d := (h.reached t).withCu _
  refine hset.act_fails rfl ⟨hp.only, hp.owner, hp.row, hp.off, hp.requests⟩ ?_
  simp only [subDeadline, busyCtx_only hcu hbusy, ht, failSub]
  rw [if_pos ⟨hphase, by simpa [Sub.open_] using hopen⟩, modCtx_only (by exact hcu)]

end Deadlines

/-! ## The end of the occurrence -/

/-- The end of the occurrence of a START context passes (R184). -/
theorem Ending.contextMissed_leaves {now : SiteTime} {detail : Failure} {s : State} (h : Ending s.ctl n x st d)
    (hcu : s.ctl.cu = [(n, x)]) (hbusy : x.busy = true) (htime : s.ctl.plan.time = some now) (hend : x.endTime ≤ now)
    (hdetail : (if x.phase = .awaitAntenna then .antennaHeld else .ended) = detail) (hdue : PathDue x.tx d l')
    (hp : PathsCleaned n x st d detail.code [] l' paths queue s.ctl)
    (hslots : (∀ k ∈ [1, 2, 3, 4], (tget k s.ctl.matrix.slots).isSome = true) ∨ queue = []) :
    act (contextMissed n) s = .next { s with
      ctl := endedCtl n x { x with outcome := .missed } st d (missReport s.ctl x detail) paths queue s.ctl } := by
  have hf : contextMissed n s.ctl = missCtx n x s.ctl := by
    simp only [contextMissed, busyCtx_only hcu hbusy, htime]
    exact if_pos ⟨by simp [h.start], hend⟩
  exact h.act_ends hdue hslots (hf.trans (h.missCtx_leaves hcu hdue hdetail hp))

/-- Settles O58: each deadline fails the context and the end of its occurrence ends it MISSED, with the cleanup of its path in
the state in which it finds it. -/
theorem contextsRunOut : Obligations.ContextsRunOut := by
  intro s n x d st hq hcu hbusy hstart hst hd howner hidle hknown hhere hroom hreports spared slotsFull ended subject fails
  have h : Ending s.ctl n x st d :=
    ⟨hq, ⟨hst, hd, howner, hknown, hhere, ⟨hroom, hq.urgentEmpty, hq.internalEmpty, hq.portTaken⟩⟩, hstart, hidle, hreports⟩
  refine ⟨?withPath, ?awaiting⟩
  case withPath =>
    intro p hpaths hown hrow hoff hrequests left
    have hp : OnlyPath s.ctl n x d p := ⟨hpaths, hown, hrow, hoff, hrequests⟩
    refine ⟨fun t ht => ⟨fun hphase => ?mute, fun hphase => ?release, fun hphase => ?prove, fun hphase => ?raise⟩,
      fun hphase => ⟨fun t ht hopen => ?retune, fun t ht hopen => ?path, fun t ht hopen => ?position⟩,
      fun now htime hend hphase => ?missed⟩
    case mute => exact h.phaseDeadline_fails hcu hbusy hp ht hphase (by decide)
    case release => exact h.phaseDeadline_fails hcu hbusy hp ht hphase (by decide)
    case prove => exact h.proveDeadline_fails hcu hbusy hp ht hphase
    case raise => exact h.phaseDeadline_fails hcu hbusy hp ht hphase (by decide)
    case retune => exact h.subDeadline_fails (sub := .retune) hcu hbusy hp hphase ht hopen
    case path => exact h.subDeadline_fails (sub := .path) hcu hbusy hp hphase ht hopen
    case position => exact h.subDeadline_fails (sub := .position) hcu hbusy hp hphase ht hopen
    case missed =>
      obtain ⟨l', hdue, hcleaned⟩ := h.pathCleaned hp Failure.ended.code
      exact h.contextMissed_leaves hcu hbusy htime hend (if_neg hphase) hdue hcleaned (hp.slots _ _)
  case awaiting =>
    intro now hnone htime hend hphase hslots
    exact h.contextMissed_leaves hcu hbusy htime hend (if_pos hphase) (.inl rfl) (h.noPathCleaned hnone (.inl rfl) _) hslots

end Sys2Proof.Proofs
end

section
/-! The URGENT CARRIER_OFF that the gate and the hall stop send a live transmitter (R27, R55, R65, R194). -/

namespace Sys2Proof.Proofs
open Sys2Proof.Machine Sys2Proof.Laws

variable {c : Ctl} {n : Nat} {st : TxStatic} {d : TxDyn} {origin : Origin}

/-! ## No CARRIER_ON to displace (R55) -/

theorem removeQueued_none {p : Queued → Bool} {f : Queued → Ctl → Ctl} (h : ∀ q ∈ c.link.plantQueue, p q = false) :
    removeQueued p f c = c := by
  have hnone : c.link.plantQueue.filter p = [] := List.filter_eq_nil_iff.mpr fun q hq => by simp [h q hq]
  simp only [removeQueued, hnone, List.isEmpty_nil, if_true]

/-- With none of its transmitter's CARRIER_ONs queued, and its ground lost, a CARRIER_OFF displaces nothing and draws no free
value. -/
theorem displaceCarrierOns_none {dest : Nat} (hhere : txOfStation c.site.work dest = some n) (hd : txDyn c n = some d)
    (hlost : (lostGround c n d).isSome = true)
    (hq : ∀ q ∈ c.link.plantQueue, q.frame.dest ≠ dest ∨ q.frame.verb ≠ .carrierOn) : displaceCarrierOns dest c = c := by
  simp only [displaceCarrierOns, hhere, hd, hlost, if_true]
  refine removeQueued_none fun q hmem => ?_
  rcases hq q hmem with h | h <;> simp [h]

/-! ## The frame joins the plant queue (R24, R27) -/

/-- An URGENT CARRIER_OFF to a transmitter. -/
def urgentOff (st : TxStatic) (origin : Origin) : PFrame :=
  { dest := st.station, verb := .carrierOff, cls := .urgent, origin := origin }

/-- A transmitter with its records whose CARRIER_ON would have lost its ground, none of which is queued, and room in the
plant queue for an order to it. -/
structure Silenceable (c : Ctl) (n : Nat) (st : TxStatic) (d : TxDyn) : Prop where
  static : txStatic c n = some st
  dynamic : txDyn c n = some d
  known : stationClass c.site.work st.station = some .transmitter
  here : txOfStation c.site.work st.station = some n
  room : OwnRoom c.link
  lost : (lostGround c n d).isSome = true
  noCarrierOn : ∀ q ∈ c.link.plantQueue, q.frame.dest ≠ st.station ∨ q.frame.verb ≠ .carrierOn

theorem Silenceable.admits (h : Silenceable c n st d) (hown : ownOrigin origin = true) :
    onAdmission { tag := nextTag c.link, frame := urgentOff st origin } { c with link := withOwn (urgentOff st origin) c.link } =
      { c with link := withOwn (urgentOff st origin) c.link } := by
  have hnone : displaceCarrierOns st.station { c with link := withOwn (urgentOff st origin) c.link } =
      { c with link := withOwn (urgentOff st origin) c.link } := by
    refine displaceCarrierOns_none (n := n) (d := d) h.here h.dynamic h.lost fun q hq => ?_
    rcases List.mem_append.mp hq with hq | hq
    · exact h.noCarrierOn q hq
    · exact .inr (by rw [List.mem_singleton.mp hq]; exact PlantVerb.noConfusion)
  have hhere : txOfStation c.site.work (urgentOff st origin).dest = some n := h.here
  simp only [onAdmission, hhere]
  cases origin with
  | ops => cases hown
  | _ => exact hnone

theorem Silenceable.enqueues (h : Silenceable c n st d) (hown : ownOrigin origin = true) :
    enqueue (urgentOff st origin) none c = { c with link := withOwn (urgentOff st origin) c.link } := by
  have htag : tagFor (urgentOff st origin) c.link = nextTag c.link := by
    cases origin with
    | ops => cases hown
    | _ => rfl
  have hown' : ownOrigin (urgentOff st origin).origin = true := hown
  have hjoined : c.onLink (fun k => { k with
      plantQueue := k.plantQueue ++ [{ tag := nextTag c.link, frame := urgentOff st origin }]
      lastTag := if ownOrigin (urgentOff st origin).origin then nextTag c.link else k.lastTag }) =
      { c with link := withOwn (urgentOff st origin) c.link } := by
    simp only [hown', if_true]
    rfl
  simp only [enqueue, htag, hjoined, h.admits hown, clampNotice]
  exact portChoose_taken (c := { c with link := _ }) h.room.taken

theorem Silenceable.offers (h : Silenceable c n st d) (hown : ownOrigin origin = true) :
    offerCarrierOff n .urgent origin c = { c with link := withOwn (urgentOff st origin) c.link } := by
  have hverdict : gateVerdict (urgentOff st origin) c = .pass .carrierOff none :=
    (gateVerdict_transmitter h.known h.here h.static h.dynamic).trans (transmitterVerdict_carrierOff rfl)
  have hnow : offerNow (urgentOff st origin) c = takeFrame (urgentOff st origin) c :=
    if_pos ⟨h.room.room, by rw [h.room.urgent]; rfl⟩
  have htaken : takeFrame (urgentOff st origin) c = enqueue (urgentOff st origin) none c := by
    simp only [takeFrame, hverdict]
    rfl
  simp only [offerCarrierOff, h.static]
  show offer (urgentOff st origin) c = _
  rw [offer, fillSlots_empty h.room.urgent h.room.internal, hnow, htaken, h.enqueues hown]

end Sys2Proof.Proofs
end

section
/-! The hall stop: what brings it into force, what a further source adds, and how it ends (R194, R195). -/

namespace Sys2Proof.Proofs
open Sys2Proof.Machine Sys2Proof.Laws

variable {s : State} {c : Ctl} {o : OwnOrder} {n : Nat} {st : TxStatic} {d : TxDyn} {src : StopSource} {k : Link}

/-! ## A source of the hall stop -/

/-- The sources with one more among them. -/
def withSource (src : StopSource) (l : List StopSource) : List StopSource := if src ∈ l then l else l ++ [src]

theorem hallStopOn_inForce (h : c.hall.inForce = true) :
    hallStopOn src c = { c with hall := { c.hall with sources := withSource src c.hall.sources } } := if_pos h

/-- The controller as the hall stop comes into force, before the steps of R194. -/
def stopBegun (src : StopSource) (c : Ctl) : Ctl := { c with hall := { inForce := true, sources := [src] } }

theorem failRunning_idle (h : ∀ d, txDyn c n = some d → d.running = none) : failRunning n c = c := by
  unfold failRunning
  split
  · next hd => cases h _ hd
  · rfl

/-- Where no context is BUSY, no occurrence runs and no frame is held, the hall stop sends its CARRIER_OFFs and raises its
alarm, and nothing else. -/
theorem hallStopOn_begins (hstop : c.hall.inForce = false) (hcu : ∀ p ∈ c.cu, p.2.busy = false)
    (hidle : ∀ n d, txDyn c n = some d → d.running = none) (hheld : c.gate.held = [])
    (hcarriers : stopCarriers (stopBegun src c) = { stopBegun src c with link := k }) (hroom : k.reports.length < 32) :
    hallStopOn src c = { stopBegun src c with
      link := withReport (reportNow c .hallStop (stopSubject src) 0 0 none none) k } := by
  have hcontexts : stopContexts { stopBegun src c with link := k } = { stopBegun src c with link := k } := by
    rw [stopContexts, busyCtxs_none (by exact hcu), forEach_nil]
  have hrunning : stopRunning { stopBegun src c with link := k } = { stopBegun src c with link := k } :=
    forEach_id _ fun n _ => failRunning_idle (hidle n)
  simp only [hallStopOn, hstop, Bool.false_eq_true, if_false]
  show raise _ _ _ _ _ _ (recheckWhere _ (stopRunning (stopContexts (stopCarriers (stopBegun src c))))) = _
  rw [hcarriers, hcontexts, hrunning, recheckWhere_empty (by exact hheld)]
  exact raise_room hroom

/-! ## The CARRIER_OFFs (R194) -/

/-- The only transmitter, which is live, is sent a CARRIER_OFF. -/
theorem stopCarriers_one (h : Silenceable c n st d) (htx : c.gate.tx = [(n, d)]) (hlive : d.live = true) :
    stopCarriers c = { c with link := withOwn (urgentOff st .hallStop) c.link } := by
  have hlive' : txLive c n = true := by simp only [txLive, h.dynamic, hlive]
  simp only [stopCarriers, htx, List.map_cons, List.map_nil, forEach_cons, forEach_nil, hlive', Bool.true_or, if_true]
  exact h.offers rfl

/-- A transmitter that is not live awaits no carrier, where every queued CARRIER_ON has its transmitter live. -/
theorem awaitsCarrier_notLive (h : CarriersLive c) (hoff : txLive c n = false) : awaitsCarrier c n = false := by
  rw [Bool.eq_false_iff]
  intro hawaits
  simp only [awaitsCarrier, carrierOnQueued, Option.any_eq_true, List.any_eq_true, Bool.and_eq_true, beq_iff_eq] at hawaits
  obtain ⟨x, hx, q, hq, hdest, hverb⟩ := hawaits
  have hlive := h q hq hverb (n, x) (tget_mem hx) hdest.symm
  exact Bool.false_ne_true (hoff.symm.trans hlive)

theorem stopCarriers_none (h : CarriersLive c) (hoff : ∀ n, txLive c n = false) : stopCarriers c = c :=
  forEach_id _ fun n _ => by simp only [hoff n, awaitsCarrier_notLive h (hoff n), Bool.or_self, Bool.false_eq_true, if_false]

/-! ## HALL_STOP (R194) -/

theorem hallStop_reserve : hallStop o (reserve c) =
    hallStopOn (.station o.src) { c with link := answered o 36 1 0 [] c.link } :=
  congrArg _ (answerDone_reserve [] c)

/-- HALL_STOP at a calm controller with one transmitter, which is live. -/
theorem hallStop_begins (hc : Calm c) (htx : c.gate.tx = [(n, d)]) (hlive : d.live = true) (hidle : d.running = none)
    (hst : txStatic c n = some st) (hknown : stationClass c.site.work st.station = some .transmitter)
    (hhere : txOfStation c.site.work st.station = some n) (hroom : c.link.plantQueue.length < 32)
    (hq : ∀ q ∈ c.link.plantQueue, q.frame.dest ≠ st.station ∨ q.frame.verb ≠ .carrierOn)
    (hreports : c.link.reports.length < 32) :
    hallStop o (reserve c) = { c with
      link := withReport (reportNow c .hallStop (.station o.src) 0 0 none none)
        (withOwn (urgentOff st .hallStop) (answered o 36 1 0 [] c.link))
      hall := { inForce := true, sources := [.station o.src] } } := by
  have hdyn : txDyn c n = some d := by simp [txDyn, htx, tget]
  have honly : ∀ m x, txDyn c m = some x → x.running = none := fun m x hx => by
    have hmem := tget_mem hx
    rw [htx] at hmem
    cases List.mem_singleton.mp hmem
    exact hidle
  have hsilence : Silenceable (stopBegun (.station o.src) { c with link := answered o 36 1 0 [] c.link }) n st d :=
    ⟨hst, hdyn, hknown, hhere, ⟨hroom, hc.urgentEmpty, hc.internalEmpty, hc.portTaken⟩, rfl, hq⟩
  exact hallStop_reserve.trans (hallStopOn_begins hc.noStop hc.noContext honly hc.heldEmpty
    (stopCarriers_one hsilence htx hlive) hreports)

/-! ## HALL_RESUME (R195) -/

theorem hallResume_refused (hrun : c.start.phase = .running) (hpush : c.panel.cond.push = true) :
    hallResume o c = refuseOrder o 37 .hallStopped [] c := by
  simp only [hallResume, hrun, ne_eq, not_true_eq_false, hpush, if_true, if_false]

theorem hallResume_noStop (hrun : c.start.phase = .running) (hpush : c.panel.cond.push = false)
    (hstop : c.hall.inForce = false) : hallResume o c = answerDone o.src o.tag 37 [] c := by
  simp only [hallResume, hrun, ne_eq, not_true_eq_false, hpush, hstop, Bool.false_eq_true, if_false]

/-- While site time is INVALID there is no plan to rebuild (R151). -/
theorem hallResume_ends (hrun : c.start.phase = .running) (hpush : c.panel.cond.push = false)
    (hstop : c.hall.inForce = true) (htime : c.plan.time = none) :
    hallResume o c = { answerDone o.src o.tag 37 [] c with hall := { inForce := false, sources := [] } } := by
  simp only [hallResume, hrun, ne_eq, not_true_eq_false, hpush, hstop, Bool.false_eq_true, if_true, if_false]
  exact rebuild_noTime (by exact htime)

/-- Settles O32: a further source, the stop's beginning, and its end. -/
theorem hallStopBeginsAndEnds : Obligations.HallStopBeginsAndEnds := by
  intro o s ht
  refine ⟨fun hs hstop => ?further, fun n st d hc htx hlive hidle hst hknown hhere hroom hq hreports => ?begins,
    fun hs hrun => ⟨fun hpush => ?refused, fun hpush hstop => ?noStop, fun hpush hstop htime => ?ends⟩⟩
  case further =>
    exact act_settled ((takes_ownOrder ht rfl).trans (hallStop_reserve.trans (hallStopOn_inForce (by exact hstop))))
      rfl rfl hs.settled hs.opsTaken
  case begins =>
    exact act_settled ((takes_ownOrder ht rfl).trans
        (hallStop_begins hc htx hlive hidle hst hknown hhere hroom hq hreports)) rfl rfl hc.settled hc.opsTaken
  case refused => exact ownOrder_refused hs ht rfl (hallResume_refused (c := reserve s.ctl) hrun hpush)
  case noStop => exact ownOrder_done hs ht rfl (hallResume_noStop (c := reserve s.ctl) hrun hpush hstop)
  case ends =>
    have hf := hallResume_ends (c := reserve s.ctl) (o := o) hrun hpush hstop htime
    rw [answerDone_reserve] at hf
    exact act_settled ((takes_ownOrder ht rfl).trans hf) rfl rfl hs.settled hs.opsTaken

end Sys2Proof.Proofs
end

section
/-! The conditioning of the panel inputs (R192): an edge starts an input's 50 ms, and a level held for 50 ms is taken, which is
the whole of what follows for a LOCAL key, for a LOCKOUT switch let go, for the MAINTENANCE key and for the push (R63, R90, R126,
R194, R195). -/

namespace Sys2Proof.Proofs
open Sys2Proof.Machine Sys2Proof.Laws

variable {s : State} {c : Ctl} {i : PanelInput} {level : Bool} {t : Millis} {n : Nat} {f : Ctl → Ctl}

/-! ## Edges -/

theorem inputEdge_nothing (h : c.panel.raw.get i = level ∨ inputExists i = false) : inputEdge i level c = c := by
  refine if_neg ?_
  rintro ⟨hexists, hlevel⟩
  rcases h with h | h
  · exact hlevel h
  · exact Bool.false_ne_true (h.symm.trans hexists)

theorem inputEdge_starts (hlevel : c.panel.raw.get i ≠ level) (hexists : inputExists i = true) :
    inputEdge i level c = { c with panel := { c.panel with
      raw := c.panel.raw.set i level
      edges := if c.panel.cond.get i = level then c.panel.edges.filter (fun e => decide (e.1 ≠ i))
               else c.panel.edges.filter (fun e => decide (e.1 ≠ i)) ++ [(i, c.clock)] } } := by
  simp only [inputEdge, hexists, hlevel, ne_eq, not_false_eq_true, and_self, if_true, Ctl.onPanel]
  split <;> simp

/-! ## Levels held for 50 ms -/

/-- The controller with an input's level taken, 50 ms after its edge (R192). -/
def conditionedAt (i : PanelInput) (t : Millis) (c : Ctl) : Ctl :=
  { c with clock := max c.clock (t + 50), panel := levelTaken i c.panel }

/-- An input that is settling has one edge, and its level is not the conditioned one. -/
theorem settlesAt_edge (hp : PanelSound c.panel) (he : (i, t) ∈ c.panel.edges) : settlesAt i c = some (t + 50) := by
  have hlevel : c.panel.raw.get i ≠ c.panel.cond.get i := (hp.settling i).mp (List.mem_map.mpr ⟨(i, t), he, rfl⟩)
  have hfind : c.panel.edges.find? (fun e => decide (e.1 = i)) = some (i, t) := by
    cases h : c.panel.edges.find? (fun e => decide (e.1 = i)) with
    | none => exact absurd (List.find?_eq_none.mp h (i, t) he) (by simp)
    | some e =>
      have hkey : e.1 = i := by simpa using List.find?_some h
      exact congrArg some (List.inj_on_of_nodup_map hp.one (List.mem_of_find?_eq_some h) he hkey)
  simp only [settlesAt, if_neg hlevel, hfind]
  rfl

theorem conditioned_edge (hp : PanelSound c.panel) (he : (i, t) ∈ c.panel.edges) :
    conditioned i f c = f (conditionedAt i t c) := by
  simp only [conditioned, settlesAt_edge hp he]
  rfl

theorem conditionedTo_edge (hp : PanelSound c.panel) (he : (i, t) ∈ c.panel.edges) (hlevel : c.panel.raw.get i = level) :
    conditionedTo i level f c = f (conditionedAt i t c) :=
  (if_pos hlevel).trans (conditioned_edge hp he)

/-- A step that takes an input's level, and leaves only consequences that find nothing to do. -/
theorem act_conditioned {l : List Signal} (hs : Still s.ctl)
    (hf : f s.ctl = { conditionedAt i t s.ctl with agenda := l }) (hi : ∀ x ∈ l, Inert x (conditionedAt i t s.ctl))
    (hl : l.length ≤ 16384) : act f s = .next { s with ctl := conditionedAt i t s.ctl } :=
  act_leaves_unnoted hf hs.settled rfl rfl hi hl hs.opsTaken

/-! ## The LOCAL keys (R63) -/

/-- A LOCAL key's change calls at most for a look at the transmitter's held frames and queued CARRIER_ON. -/
theorem localRecomputed_cases (was : Bool) :
    localRecomputed n was c = c ∨ localRecomputed n was c = push [.recheckTx n, .withdraw n] c := by
  unfold localRecomputed
  split
  · split
    · exact .inr rfl
    · exact .inl rfl
  · exact .inl rfl

theorem localKeyChange_taken (hc : Calm s.ctl) (hp : PanelSound s.ctl.panel) (he : (.localKey n, t) ∈ s.ctl.panel.edges)
    (hq : ∀ q ∈ s.ctl.link.plantQueue, q.frame.verb ≠ .carrierOn) :
    exec (.localKeyChange n) s = .next { s with ctl := conditionedAt (.localKey n) t s.ctl } := by
  have hf : ∀ was, conditioned (.localKey n) (localRecomputed n was) s.ctl =
      localRecomputed n was (conditionedAt (.localKey n) t s.ctl) := fun _ => conditioned_edge hp he
  show act (localKeyChange n) s = _
  rcases localRecomputed_cases _ with h | h
  · exact act_settled ((hf _).trans h) rfl rfl hc.settled hc.opsTaken
  · refine act_conditioned (l := [.recheckTx n, .withdraw n]) hc.toStill ((hf _).trans (h.trans ?_)) ?_ (by simp)
    · simp only [push, conditionedAt, hc.settled, List.nil_append]
    · simp only [List.forall_mem_cons, List.not_mem_nil, false_imp_iff, implies_true, and_true]
      exact ⟨inert_recheckTx (by exact hc.heldEmpty) n, inert_withdraw fun q hmem => .inl (hq q hmem)⟩

/-! ## A LOCKOUT switch (R90) -/

/-- The arbiter's look, alone, finds nothing to do while no movement is wanted. -/
theorem act_conditioned_arbiter (hc : Calm s.ctl) (hf : f s.ctl = pushOnce .arbiter (conditionedAt i t s.ctl)) :
    act f s = .next { s with ctl := conditionedAt i t s.ctl } := by
  have hnone : (conditionedAt i t s.ctl).agenda = [] := hc.settled
  refine act_conditioned (l := [.arbiter]) hc.toStill (hf.trans ?_) ?_ (by simp)
  · rw [pushOnce_new (by simp [hnone]), hnone]
    rfl
  · exact List.forall_mem_singleton.mpr (inert_arbiter hc.moveEmpty)

theorem actLockout_noPath (hrun : c.start.phase = .running) (h : columnPaths c n = []) :
    actLockout n c = pushOnce .arbiter c := by
  simp only [actLockout, h, List.map_nil, forEach_nil]
  exact tableChanged_running hrun

theorem lockoutOn_noPath (hc : Calm s.ctl) (hp : PanelSound s.ctl.panel) (he : (.lockout n, t) ∈ s.ctl.panel.edges)
    (hlevel : s.ctl.panel.raw.get (.lockout n) = true) (hnone : columnPaths s.ctl n = []) :
    exec (.lockoutOn n) s = .next { s with ctl := conditionedAt (.lockout n) t s.ctl } :=
  act_conditioned_arbiter hc ((conditionedTo_edge hp he hlevel).trans (actLockout_noPath hc.running hnone))

theorem lockoutOff_taken (hc : Calm s.ctl) (hp : PanelSound s.ctl.panel) (he : (.lockout n, t) ∈ s.ctl.panel.edges)
    (hlevel : s.ctl.panel.raw.get (.lockout n) = false) :
    exec (.lockoutOff n) s = .next { s with ctl := conditionedAt (.lockout n) t s.ctl } :=
  act_conditioned_arbiter hc (conditionedTo_edge hp he hlevel)

/-- An antenna whose switch has been conditioned on is locked out. -/
theorem lockedOut_conditioned (hlevel : c.panel.raw.get (.lockout n) = true) :
    lockedOut (conditionedAt (.lockout n) t c) n = true := by
  have hget : (c.panel.cond.set (.lockout n) (c.panel.raw.get (.lockout n))).get (.lockout n) = true :=
    (get_set ..).trans ((if_pos rfl).trans hlevel)
  exact hget

/-! ## The push (R194, R195) -/

/-- The push at a calm controller none of whose transmitters is live or runs an occurrence. -/
theorem pushOn_begins (hc : Calm s.ctl) (hp : PanelSound s.ctl.panel) (he : (.push, t) ∈ s.ctl.panel.edges)
    (hlevel : s.ctl.panel.raw.get .push = true)
    (hoff : ∀ n d, txDyn s.ctl n = some d → d.live = false ∧ d.running = none) (hroom : s.ctl.link.reports.length < 32) :
    exec .hallStopPushOn s = .next { s with ctl := { conditionedAt .push t s.ctl with
      link := withReport (reportNow s.ctl .hallStop .none 0 0 none none) s.ctl.link
      hall := { inForce := true, sources := [.push] } } } := by
  have hnotLive : ∀ n, txLive s.ctl n = false := fun n => by
    unfold txLive
    split
    · next hd => exact (hoff n _ hd).1
    · rfl
  have hcarriers : stopCarriers (stopBegun .push (conditionedAt .push t s.ctl)) =
      { stopBegun .push (conditionedAt .push t s.ctl) with link := s.ctl.link } :=
    stopCarriers_none (c := stopBegun .push (conditionedAt .push t s.ctl)) hc.carriersLive hnotLive
  have hbegins := hallStopOn_begins (c := conditionedAt .push t s.ctl) hc.noStop hc.noContext
    (fun n d hd => (hoff n d hd).2) hc.heldEmpty hcarriers hroom
  exact act_settled ((conditionedTo_edge hp he hlevel).trans hbegins) rfl rfl hc.settled hc.opsTaken

theorem pushOn_adds (hs : Still s.ctl) (hp : PanelSound s.ctl.panel) (he : (.push, t) ∈ s.ctl.panel.edges)
    (hlevel : s.ctl.panel.raw.push = true) (hstop : s.ctl.hall.inForce = true) :
    exec .hallStopPushOn s = .next { s with ctl := { conditionedAt .push t s.ctl with
      hall := { s.ctl.hall with sources := withSource .push s.ctl.hall.sources } } } :=
  act_settled ((conditionedTo_edge hp he hlevel).trans (hallStopOn_inForce (by exact hstop))) rfl rfl hs.settled hs.opsTaken

end Sys2Proof.Proofs
end

section
/-! A lockout that finds a PROVEN path (R83, R90): the path becomes UNPROVEN, and where its transmitter is live the interlock
silences it in the same instant (R64, R65, R66). -/

namespace Sys2Proof.Proofs
open Sys2Proof.Machine Sys2Proof.Laws

variable {s : State} {c c' : Ctl} {n : Nat} {st : TxStatic} {d : TxDyn} {p : Path} {t now : Millis} {x : Signal}
  {l l' m : List Signal}

/-! ## A consequence that leaves further ones -/

/-- The first consequence does something and leaves further ones, which find nothing to do, as do all others. -/
theorem settle_leadsOn {fuel : Nat} (hx : ∀ m, handle x { c with agenda := m } = { c' with agenda := m ++ l' })
    (hi : ∀ y ∈ m ++ l', Inert y c') (hc : Inert .columns c') (hl : (m ++ l').length < fuel) :
    settle (fuel + 1) { c with agenda := x :: m } = { c' with agenda := [] } := by
  rw [settle_cons, hx]
  rcases noteColumns_eq { c with agenda := x :: m } { c' with agenda := m ++ l' } with h | h <;> rw [h]
  · exact settle_inert fuel { c' with agenda := m ++ l' } hi (Nat.le_of_lt hl)
  · have hall : ∀ y ∈ (m ++ l') ++ [.columns], Inert y c' := List.forall_mem_append.mpr ⟨hi, List.forall_mem_singleton.mpr hc⟩
    exact settle_inert fuel { c' with agenda := (m ++ l') ++ [.columns] } hall
      (by rw [List.length_append, List.length_singleton]; exact hl)

/-- A step whose first consequence does something and leaves further ones, where these and all others find nothing to do, ends
as the first leaves it. -/
theorem act_leadsOn {f : Ctl → Ctl} (hf : f s.ctl = { c with agenda := x :: l })
    (hx : ∀ m, handle x { c with agenda := m } = { c' with agenda := m ++ l' }) (ha : c'.agenda = [])
    (hi : ∀ y ∈ l ++ l', Inert y c') (hc : Inert .columns c') (hl : (l ++ l').length < 16382)
    (ho : (c'.link.opsTx.isSome || c'.link.opsHeldOff) = true) : act f s = .next { s with ctl := c' } := by
  have hempty : ({ c' with agenda := [] } : Ctl) = c' := by rw [← ha]
  have hfinish : ∀ m : List Signal, (∀ y ∈ m ++ l', Inert y c') → (m ++ l').length < 16383 →
      finish { c with agenda := x :: m } = c' := fun m hm hlen => by
    rw [finish, settleLimit, settle_leadsOn hx hm hc hlen, hempty]
    exact opsChoose_taken ho
  rcases act_eq f s with h | h <;> rw [h, hf]
  · rw [hfinish l hi (Nat.lt_succ_of_lt hl)]
  · refine congrArg (fun c => Host.Outcome.next { s with ctl := c }) (hfinish (l ++ [.columns]) (fun y hy => ?_) ?_)
    · simp only [List.mem_append, List.mem_singleton] at hy
      rcases hy with (hy | rfl) | hy
      · exact hi y (List.mem_append_left _ hy)
      · exact hc
      · exact hi y (List.mem_append_right _ hy)
    · simp only [List.length_append, List.length_singleton] at hl ⊢
      omega

/-! ## The path loses its proof (R83) -/

/-- A PROVEN path as it loses its proof. -/
def proofLost (now : Millis) (p : Path) : Path := { p with state := .unproven, since := now }

/-- The controller with its only path just UNPROVEN. -/
def lostCtl (p : Path) (c : Ctl) : Ctl := { c with matrix := { c.matrix with paths := [proofLost c.clock p] } }

theorem rowPath_lost : rowPath (lostCtl p c) p.tx = some (proofLost c.clock p) := by
  have hclaims : claimPath (lostCtl p c) p.tx = some (proofLost c.clock p) := claimPath_only rfl rfl PathState.noConfusion
  simp only [rowPath, hclaims]

/-- An UNPROVEN path supports no transmitter. -/
theorem unsupported_lost : unsupported (lostCtl p c) p.tx = true := by
  simp [unsupported, rowPath_lost, proofLost]

/-- No context is BUSY that would be told of its path. -/
theorem tellCtx_noContext {news : PathNews} (h : ∀ p ∈ c.cu, p.2.busy = false) : tellCtx n news c = c := by
  simp only [tellCtx, busyCtx_none h]

theorem loseProof_only (hcu : ∀ p ∈ c.cu, p.2.busy = false) (hrun : c.start.phase = .running) (ha : c.agenda = [])
    (hp : c.matrix.paths = [p]) (hst : p.state = .proven) :
    loseProof p c = { lostCtl p c with agenda := [.interlock p.tx, .withdraw p.tx, .arbiter] } := by
  have hset : setPathRec (p.enter c .unproven) c = lostCtl p c := by
    rw [enter_eq (by rw [hst]; decide)]
    exact setPathRec_only hp rfl
  have hinvoked : invokeInterlock p.tx (lostCtl p c) = { lostCtl p c with agenda := [.interlock p.tx, .withdraw p.tx] } := by
    simp only [invokeInterlock, push, lostCtl, ha, List.nil_append]
  have htold : loseProof p c = tableChanged { lostCtl p c with agenda := [.interlock p.tx, .withdraw p.tx] } := by
    simp only [loseProof, hset, hinvoked]
    split
    · rw [tellCtx_noContext (by exact hcu)]
    · rfl
  rw [htold, tableChanged_running (by exact hrun), pushOnce_new (by simp)]
  rfl

/-- What a lockout leaves due for a PROVEN path, behind the interlock. -/
def lostSignals (tx : Nat) : List Signal := [.withdraw tx, .arbiter, .recheckTx tx]

theorem actLockout_proven (hcu : ∀ p ∈ c.cu, p.2.busy = false) (hrun : c.start.phase = .running) (ha : c.agenda = [])
    (hp : c.matrix.paths = [p]) (hst : p.state = .proven) (hcol : p.ant = n) :
    actLockout n c = { lostCtl p c with agenda := .interlock p.tx :: lostSignals p.tx } := by
  have hheld : columnPaths c n = [p] := by simp [columnPaths, hp, hcol]
  have hpath : pathOf c p.pid = some p := by simp [pathOf, hp]
  simp only [actLockout, hheld, List.map_cons, List.map_nil, forEach_cons, forEach_nil, hpath, hst, if_true,
    loseProof_only hcu hrun ha hp hst]
  rw [tableChanged_running (by exact hrun), pushOnce_again (by simp)]
  rfl

/-! ## The interlock (R64, R65, R66) -/

/-- The controller with a transmitter's record written. -/
def withRecord (n : Nat) (d : TxDyn) (c : Ctl) : Ctl := { c with gate := { c.gate with tx := tset n d c.gate.tx } }

theorem txDyn_withRecord : txDyn (withRecord n d c) n = some d := tget_tset_same ..

theorem withRecord_withRecord (d' : TxDyn) : withRecord n d (withRecord n d' c) = withRecord n d c := by
  simp only [withRecord, tset_tset]

theorem modTx_record (f : TxDyn → TxDyn) (hd : txDyn c n = some d) : modTx n f c = withRecord n (f d) c := by
  simp only [modTx, Ctl.onGate, withRecord, tmod_some (t := c.gate.tx) f hd]

theorem failRunning_running {r : Running} (hd : txDyn c n = some d) (hr : d.running = some r) :
    failRunning n c = push [.offerReturned n, .occFailed r.occ] (withRecord n { d with running := none } c) := by
  obtain ⟨carrier, outstanding, outRestore, tune, tuneRestore, freq, power, reportedLocal, owner, running, sent⟩ := d
  cases hr
  simp only [failRunning, hd, clearRunning, modTx_record _ hd, push, List.append_assoc]
  rfl

theorem push_nil : push [] c = c := by simp only [push, List.append_nil]

/-- A transmitter's record once the interlock has silenced it. -/
def silencedTx (d : TxDyn) : TxDyn := { d with running := none, interlockSent := true }

/-- What the end of the occurrence that a transmitter runs leaves due. -/
def endedSignals (n : Nat) (d : TxDyn) : List Signal :=
  match d.running with
  | some r => [.offerReturned n, .occFailed r.occ]
  | none => []

theorem endedSignals_length : (endedSignals n d).length ≤ 2 := by
  unfold endedSignals
  split <;> simp

/-- The end of an occurrence has nothing to offer or to drop while the plan is empty. -/
theorem endedSignals_inert (h : c.plan.events = []) : ∀ y ∈ endedSignals n d, Inert y c := by
  unfold endedSignals
  split
  · simp only [List.forall_mem_cons, List.not_mem_nil, false_imp_iff, implies_true, and_true]
    exact ⟨inert_offerReturned h n, inert_occFailed h _⟩
  · exact fun _ hy => absurd hy List.not_mem_nil

/-- The interlock is SENT for a transmitter, and the occurrence that it runs ends. -/
theorem failRunning_sent (hd : txDyn c n = some d) : failRunning n (modTx n (fun d => { d with interlockSent := true }) c) =
    push (endedSignals n d) (withRecord n (silencedTx d) c) := by
  rw [modTx_record _ hd]
  obtain hr | ⟨r, hr⟩ : d.running = none ∨ ∃ r, d.running = some r := by cases d.running <;> simp
  · have hidle : ∀ x, txDyn (withRecord n { d with interlockSent := true } c) n = some x → x.running = none := fun x hx => by
      cases txDyn_withRecord.symm.trans hx
      exact hr
    have hrecord : silencedTx d = { d with interlockSent := true } := by rw [silencedTx, ← hr]
    have hnone : endedSignals n d = [] := by simp only [endedSignals, hr]
    rw [failRunning_idle hidle, hrecord, hnone, push_nil]
  · rw [failRunning_running (d := { d with interlockSent := true }) txDyn_withRecord hr, withRecord_withRecord]
    simp only [endedSignals, hr, silencedTx]

/-- The controller once the interlock has silenced a transmitter. -/
def interlocked (n : Nat) (st : TxStatic) (d : TxDyn) (c : Ctl) : Ctl := withRecord n (silencedTx d) { c with
  link := withReport (reportNow c .interlockOff (.transmitter n) (interlockDetail c n).code 0 none none)
    (withOwn (urgentOff st (.gate .interlock)) c.link) }

/-- No context is BUSY that the interlock would abort. -/
theorem abortOwner_noContext {reason : Failure} (h : ∀ p ∈ c.cu, p.2.busy = false) : abortOwner n reason c = c := by
  unfold abortOwner
  split
  · simp only [busyCtx_none h]
  · rfl

theorem Silenceable.interlocks (h : Silenceable c n st d) (hcu : ∀ p ∈ c.cu, p.2.busy = false)
    (hrun : c.start.phase = .running) (hcondition : interlockCondition c n = true) (hsent : d.interlockSent = false)
    (hroom : c.link.reports.length < 32) :
    interlock n c = push (endedSignals n d) (interlocked n st d c) := by
  simp only [interlock, hrun, if_true, interlockNow, h.dynamic, hcondition, hsent, Bool.not_false, and_self]
  rw [abortOwner_noContext hcu, h.offers rfl, raise_room (by exact hroom), failRunning_sent (by exact h.dynamic)]
  rfl

/-- The condition that the interlock finds after a lockout (R65). -/
theorem interlockDetail_lost (h : lockedOut c p.ant = true) : interlockDetail (lostCtl p c) p.tx = .lockedOut := by
  simp only [interlockDetail, rowPath_lost]
  exact if_pos h

/-- A CARRIER_ON over the path has lost its ground (R54). -/
theorem lostGround_lost (h : lockedOut c p.ant = true) : (lostGround (lostCtl p c) p.tx d).isSome = true := by
  have hlocked : lockedOut (lostCtl p c) (proofLost c.clock p).ant = true := h
  have hnotFree : ¬ (proofLost c.clock p).state = .releasing := PathState.noConfusion
  simp only [lostGround, rowPath_lost, hnotFree, if_false, hlocked, if_true]
  split
  · rfl
  · split <;> rfl

/-! ## The lockout (R90) -/

section Lockout

variable (hc : Calm s.ctl) (hsound : PanelSound s.ctl.panel) (he : (.lockout n, t) ∈ s.ctl.panel.edges)
  (hlevel : s.ctl.panel.raw.get (.lockout n) = true) (hp : s.ctl.matrix.paths = [p]) (hcol : p.ant = n)
  (hst : p.state = .proven)

include hc hsound he hlevel hp hcol hst

theorem lockoutOn_loses : lockoutOn n s.ctl =
    { lostCtl p (conditionedAt (.lockout n) t s.ctl) with agenda := .interlock p.tx :: lostSignals p.tx } :=
  (conditionedTo_edge hsound he hlevel).trans (actLockout_proven hc.noContext hc.running hc.settled hp hst hcol)

theorem lockoutOn_notLive (hoff : txLive s.ctl p.tx = false) :
    exec (.lockoutOn n) s = .next { s with ctl := lostCtl p (conditionedAt (.lockout n) t s.ctl) } := by
  refine act_leaves (lockoutOn_loses hc hsound he hlevel hp hcol hst) hc.settled ?_ (inert_columns hc.noContext)
    (by simp [lostSignals]) hc.opsTaken
  simp only [lostSignals, List.forall_mem_cons, List.not_mem_nil, false_imp_iff, implies_true, and_true]
  exact ⟨interlock_idle hoff, inert_withdraw_live hc.carriersLive hoff, inert_arbiter hc.moveEmpty,
    inert_recheckTx (by exact hc.heldEmpty) _⟩

/-- The interlock silences the live transmitter of the path that the lockout has taken the proof of. -/
theorem lockoutOn_live (hrecord : txStatic s.ctl p.tx = some st) (hd : txDyn s.ctl p.tx = some d) (hlive : d.live = true)
    (hsent : d.interlockSent = false) (hknown : stationClass s.ctl.site.work st.station = some .transmitter)
    (hhere : txOfStation s.ctl.site.work st.station = some p.tx)
    (hq : ∀ q ∈ s.ctl.link.plantQueue, q.frame.verb ≠ .carrierOn) (hroom : s.ctl.link.plantQueue.length < 32)
    (hreports : s.ctl.link.reports.length < 32) : exec (.lockoutOn n) s =
      .next { s with ctl := interlocked p.tx st d (lostCtl p (conditionedAt (.lockout n) t s.ctl)) } := by
  subst hcol
  have hlocked : lockedOut (conditionedAt (.lockout p.ant) t s.ctl) p.ant = true := lockedOut_conditioned hlevel
  have hlive' : txLive s.ctl p.tx = true := by simp only [txLive, hd, hlive]
  have hsilence : ∀ m, Silenceable { lostCtl p (conditionedAt (.lockout p.ant) t s.ctl) with agenda := m } p.tx st d :=
    fun m => ⟨hrecord, hd, hknown, hhere, ⟨hroom, hc.urgentEmpty, hc.internalEmpty, hc.portTaken⟩,
      lostGround_lost (c := conditionedAt (.lockout p.ant) t s.ctl) hlocked, fun q hmem => .inr (hq q hmem)⟩
  have hcondition : interlockCondition (lostCtl p (conditionedAt (.lockout p.ant) t s.ctl)) p.tx = true :=
    Bool.and_eq_true_iff.mpr ⟨hlive', unsupported_lost⟩
  refine act_leadsOn (lockoutOn_loses hc hsound he hlevel hp rfl hst) (l' := endedSignals p.tx d)
    (fun m => (hsilence m).interlocks hc.noContext hc.running hcondition hsent hreports) hc.settled ?_
    (inert_columns hc.noContext) ?_ hc.opsTaken
  · have hqueue : ∀ q ∈ (interlocked p.tx st d (lostCtl p (conditionedAt (.lockout p.ant) t s.ctl))).link.plantQueue,
        q.frame.verb ≠ .carrierOn := List.forall_mem_append.mpr ⟨hq, List.forall_mem_singleton.mpr PlantVerb.noConfusion⟩
    refine List.forall_mem_append.mpr ⟨?_, endedSignals_inert hc.planEmpty⟩
    simp only [lostSignals, List.forall_mem_cons, List.not_mem_nil, false_imp_iff, implies_true, and_true]
    exact ⟨inert_withdraw fun q hmem => .inl (hqueue q hmem), inert_arbiter hc.moveEmpty,
      inert_recheckTx (by exact hc.heldEmpty) _⟩
  · rw [List.length_append]
    exact Nat.lt_of_le_of_lt (Nat.add_le_add_left endedSignals_length 3) (by decide)

end Lockout

/-! ## The panel's inputs (R192) -/

/-- Settles O50: the edges, the levels taken while nothing stops the hall, and the push under a hall stop. -/
theorem panelInputsAreConditioned : Obligations.PanelInputsAreConditioned := by
  refine ⟨fun i level s hs => ⟨fun h => ?nothing, fun hlevel hexists => ?starts⟩, fun i t s hc hsound he => ?taken,
    fun t s hs hsound he => ⟨fun hlevel hstop => ?adds, fun hlevel => ?letGo⟩⟩
  case nothing => exact act_unchanged hs (inputEdge_nothing h)
  case starts => exact act_settled (inputEdge_starts hlevel hexists) rfl rfl hs.settled hs.opsTaken
  case taken =>
    refine ⟨?localKey, ?lockoutOn, ?lockoutOff, ?maintenance, ?push⟩
    case localKey =>
      rintro n rfl hq
      exact localKeyChange_taken hc hsound he hq
    case lockoutOn =>
      rintro n rfl hlevel
      refine ⟨lockoutOn_noPath hc hsound he hlevel,
        fun p hp hcol hst hoff _ => lockoutOn_notLive hc hsound he hlevel hp hcol hst hoff, ?live⟩
      intro p st d hp hcol hst hrecord hd hlive hsent hknown hhere hq hroom hreports
      have hstep := lockoutOn_live hc hsound he hlevel hp hcol hst hrecord hd hlive hsent hknown hhere hq hroom hreports
      have hlocked : lockedOut (conditionedAt (.lockout n) t s.ctl) p.ant = true := by
        rw [hcol]; exact lockedOut_conditioned hlevel
      rw [interlocked, interlockDetail_lost hlocked] at hstep
      exact hstep
    case lockoutOff =>
      rintro n rfl hlevel
      exact lockoutOff_taken hc hsound he hlevel
    case maintenance =>
      rintro rfl
      exact act_settled (f := maintenanceChange) (conditioned_edge hsound he) rfl rfl hc.settled hc.opsTaken
    case push =>
      rintro rfl hlevel hoff hroom
      exact pushOn_begins hc hsound he hlevel hoff hroom
  case adds => exact pushOn_adds hs hsound he hlevel hstop
  case letGo => exact act_settled (f := pushOff) (conditionedTo_edge hsound he hlevel) rfl rfl hs.settled hs.opsTaken

end Sys2Proof.Proofs
end

section
/-! The machine as a whole: what a step does by whether a command waits, and that every command acts on the controller alone
(section 0.2, section 0.5). -/

namespace Sys2Proof.Proofs
open Sys2Proof.Machine

variable {s : State} {i : Instr} {rest : List Instr}

/-! ## A step, by its queue -/

theorem step_cons (h : s.pending = i :: rest) : step s = exec i { s with pending := rest } := by
  simp only [step, h]

theorem step_nil (h : s.pending = []) : step s = .next (idle s) := by
  simp only [step, h]

/-- Settles O1, by the step on a queue that is not empty. -/
theorem stepRunsTheFrontCommand : Obligations.StepRunsTheFrontCommand := fun _ _ => step_cons rfl

/-- Settles O2, by the step on an empty queue. -/
theorem idleStepPassesAMillisecond : Obligations.IdleStepPassesAMillisecond := fun _ h => step_nil h

/-! ## A command acts on the controller alone -/

/-- The row fixes the change of the controller: it depends on the command and its operands, and on nothing that waits. -/
theorem exec_acts (i : Instr) : ∃ f : Ctl → Ctl, ∀ s, exec i s = act f s := by
  cases i <;> exact ⟨_, fun _ => rfl⟩

theorem act_leaves_pending (f : Ctl → Ctl) (s : State) : ∃ t, act f s = .next t ∧ t.pending = s.pending :=
  ⟨_, rfl, rfl⟩

/-- Settles O7: a command acts on the controller, and no such act fails or touches the queue. -/
theorem commandsLeaveTheQueue : Obligations.CommandsLeaveTheQueue := by
  intro i s
  obtain ⟨f, hacts⟩ := exec_acts i
  rw [hacts]
  exact act_leaves_pending f s

end Sys2Proof.Proofs
end
